-- ==== Sys2Proof/Word.lean ====
section
/-! DEFINITION. The plain words of the model: bytes on the wires, samples, and the small finite maps
(per zone, per tuner, per seat) that hold one value for each member of a fixed set of names. -/

namespace Sys2Proof

/-- A byte of the control lane, of a message or of the rear panel link. -/
abbrev Byte := BitVec 8

/-- An audio sample, a signed integer; 24-bit values lie in `sampleMin` to `sampleMax` (scope 4.2). -/
abbrev Sample := Int

/-- The largest sample, 8,388,607 (scope 4.2). -/
abbrev sampleMax : Int := 8388607

/-- The smallest sample, −8,388,608 (scope 4.2). -/
abbrev sampleMin : Int := -8388608

/-- The six zones, in the order of their numbers 0 to 5 (Table 0.3). -/
inductive ZoneId where
  | front | rearCabin | hpLeft | hpRight | cargo | driver
deriving DecidableEq, Repr

/-- The two tuner front-ends, A (0) and B (1). -/
inductive TunerId where
  | a | b
deriving DecidableEq, Repr

/-- The four seats, in the order of their numbers 0 to 3 (scope 4.5). -/
inductive Seat where
  | driver | passenger | rearLeft | rearRight
deriving DecidableEq, Repr

/-- The two seats of the rear panel link (scope 4.5). -/
inductive RearSeat where
  | left | right
deriving DecidableEq, Repr

/-- The two render banks (R41). -/
inductive BankId where
  | a | b
deriving DecidableEq, Repr

/-- The two radio bands (scope 4.4). -/
inductive Band where
  | fm | am
deriving DecidableEq, Repr

/-- A band and a frequency in the band's units (scope 4.4). -/
structure Chan where
  band : Band
  freq : Nat
deriving DecidableEq, Repr

/-- One value for each zone. -/
structure PerZone (α : Type) where
  front : α
  rearCabin : α
  hpLeft : α
  hpRight : α
  cargo : α
  driver : α
deriving DecidableEq, Repr

/-- One value for each tuner. -/
structure PerTuner (α : Type) where
  a : α
  b : α
deriving DecidableEq, Repr

/-- One value for each seat. -/
structure PerSeat (α : Type) where
  driver : α
  passenger : α
  rearLeft : α
  rearRight : α
deriving DecidableEq, Repr

/-- One value for each seat of the rear panel. -/
structure PerRear (α : Type) where
  left : α
  right : α
deriving DecidableEq, Repr

/-- The value of zone `z`. -/
def PerZone.get {α : Type} (m : PerZone α) : ZoneId → α
  | .front => m.front
  | .rearCabin => m.rearCabin
  | .hpLeft => m.hpLeft
  | .hpRight => m.hpRight
  | .cargo => m.cargo
  | .driver => m.driver

/-- `m` with the value of zone `z` replaced by `v`. -/
def PerZone.set {α : Type} (m : PerZone α) (z : ZoneId) (v : α) : PerZone α :=
  match z with
  | .front => { m with front := v }
  | .rearCabin => { m with rearCabin := v }
  | .hpLeft => { m with hpLeft := v }
  | .hpRight => { m with hpRight := v }
  | .cargo => { m with cargo := v }
  | .driver => { m with driver := v }

/-- The map that gives each zone what `f` gives it. -/
def PerZone.of {α : Type} (f : ZoneId → α) : PerZone α :=
  ⟨f .front, f .rearCabin, f .hpLeft, f .hpRight, f .cargo, f .driver⟩

/-- The values in zone order. -/
def PerZone.toList {α : Type} (m : PerZone α) : List α :=
  [m.front, m.rearCabin, m.hpLeft, m.hpRight, m.cargo, m.driver]

/-- The value of tuner `t`. -/
def PerTuner.get {α : Type} (m : PerTuner α) : TunerId → α
  | .a => m.a
  | .b => m.b

/-- `m` with the value of tuner `t` replaced by `v`. -/
def PerTuner.set {α : Type} (m : PerTuner α) (t : TunerId) (v : α) : PerTuner α :=
  match t with
  | .a => { m with a := v }
  | .b => { m with b := v }

/-- The map that gives each tuner what `f` gives it. -/
def PerTuner.of {α : Type} (f : TunerId → α) : PerTuner α := ⟨f .a, f .b⟩

/-- The value of seat `k`. -/
def PerSeat.get {α : Type} (m : PerSeat α) : Seat → α
  | .driver => m.driver
  | .passenger => m.passenger
  | .rearLeft => m.rearLeft
  | .rearRight => m.rearRight

/-- `m` with the value of seat `k` replaced by `v`. -/
def PerSeat.set {α : Type} (m : PerSeat α) (k : Seat) (v : α) : PerSeat α :=
  match k with
  | .driver => { m with driver := v }
  | .passenger => { m with passenger := v }
  | .rearLeft => { m with rearLeft := v }
  | .rearRight => { m with rearRight := v }

/-- The map that gives each seat what `f` gives it. -/
def PerSeat.of {α : Type} (f : Seat → α) : PerSeat α :=
  ⟨f .driver, f .passenger, f .rearLeft, f .rearRight⟩

/-- The values in seat order. -/
def PerSeat.toList {α : Type} (m : PerSeat α) : List α :=
  [m.driver, m.passenger, m.rearLeft, m.rearRight]

/-- The value of rear seat `r`. -/
def PerRear.get {α : Type} (m : PerRear α) : RearSeat → α
  | .left => m.left
  | .right => m.right

/-- `m` with the value of rear seat `r` replaced by `v`. -/
def PerRear.set {α : Type} (m : PerRear α) (r : RearSeat) (v : α) : PerRear α :=
  match r with
  | .left => { m with left := v }
  | .right => { m with right := v }

/-- The zones in the order of their numbers. -/
def ZoneId.all : List ZoneId := [.front, .rearCabin, .hpLeft, .hpRight, .cargo, .driver]

/-- The seats in the order of their numbers. -/
def Seat.all : List Seat := [.driver, .passenger, .rearLeft, .rearRight]

/-- The tuners, A first. -/
def TunerId.all : List TunerId := [.a, .b]

/-- The other tuner. -/
def TunerId.other : TunerId → TunerId
  | .a => .b
  | .b => .a

/-- The other rear seat. -/
def RearSeat.other : RearSeat → RearSeat
  | .left => .right
  | .right => .left

/-- The other bank. -/
def BankId.other : BankId → BankId
  | .a => .b
  | .b => .a

/-- LEFT stands for HP_LEFT, RIGHT for HP_RIGHT (scope 4.5). -/
def RearSeat.zone : RearSeat → ZoneId
  | .left => .hpLeft
  | .right => .hpRight

/-- The rear seat of a headphone zone. -/
def ZoneId.rearSeat? : ZoneId → Option RearSeat
  | .hpLeft => some .left
  | .hpRight => some .right
  | _ => none

/-- REAR_CABIN and CARGO follow FRONT (R28). -/
def ZoneId.follows : ZoneId → Bool
  | .rearCabin | .cargo => true
  | _ => false

/-- FRONT and the headphone zones have an entertainment source of their own (Table 0.3). -/
def ZoneId.ownSource : ZoneId → Bool
  | .front | .hpLeft | .hpRight => true
  | _ => false

end Sys2Proof
end

