-- ==== Sys2Proof/Syntax.lean ====
section
/-! DEFINITION. The commands of the part: one constructor for each row of spec/opcode_table.json,
with the row's operands. Ring requests carry the header fields the checks of R157 to R159 read. -/

namespace Sys2Proof

/-- What the Ring Interface reads of a request's header: the source node and the sequence number
(Table 12.2). The kind is the constructor's own. -/
structure ReqHeader where
  source : Nat
  seq : Nat
deriving DecidableEq, Repr

/-- A ring frame as it arrives: the lane mark (occupied or free), the 4 lane bytes, the 48 audio slots and the
frame check (Table 12.1). Whether the framing is right and the check passes is told by the command, VALID_FRAME or
BAD_FRAME; a passing check is the one that the other bytes give, so that `check` is read of a bad frame alone. -/
structure Frame where
  occupied : Bool
  lane : List Byte
  slots : List Sample
  check : BitVec 16 := 0
deriving DecidableEq, Repr

/-- The three kinds of service packet (chapter 5, section 5.1). -/
inductive Packet where
  | ident (code : Nat) (capable active : Bool)
  | label (segment : Nat) (c1 c2 : Byte)
  | freqs (fs : List Nat)
deriving DecidableEq, Repr

/-- A guarded unit of table memory: the table's id, the entry's index, and the part of the entry
(0 for an entry guarded whole; a CURVES field 0 or 1; a render head 0 or contribution 1 to 4). -/
structure MemUnit where
  table : Nat
  entry : Nat
  part : Nat
deriving DecidableEq, Repr

/-- A memory error that has come about in a guarded unit and that no check has met yet: a double-bit
error, or else a single-bit error (R169); `inUse` tells that it lies in the in-use field of a STATIONS
entry, which alone is checked while the index is free (R170). -/
structure Upset where
  unit : MemUnit
  double : Bool
  inUse : Bool := false
deriving DecidableEq, Repr

/-- The commands, one for each row of the table of operations and events. -/
inductive Instr where
  -- start-up, ring frames and ring timers
  | powerOn (straps : Nat)
  | ringJoin
  | validFrame (f : Frame) (mics : List Sample)
  | badFrame (f : Frame) (mics : List Sample)
  | replyWindowExpiry
  | ringLossDeclared
  | ringLossCountExpiry
  -- ring requests
  | identify (h : ReqHeader)
  | status (h : ReqHeader)
  | tableRead (h : ReqHeader) (table first last mask options : Nat)
  | tableWrite (h : ReqHeader) (table index mask : Nat) (values : List Byte)
  | tableClear (h : ReqHeader) (table : Nat)
  | tableShare (h : ReqHeader) (table right : Nat)
  | bankSwap (h : ReqHeader)
  | countersRead (h : ReqHeader) (group : Nat)
  | zonePower (h : ReqHeader) (zone value : Nat)
  | zoneSource (h : ReqHeader) (zone source : Nat)
  | zoneVolume (h : ReqHeader) (zone step : Nat)
  | zoneOffset (h : ReqHeader) (zone : Nat) (offset : Int)
  | zoneMute (h : ReqHeader) (zone value : Nat)
  | tune (h : ReqHeader) (zone selector index freq : Nat)
  | seek (h : ReqHeader) (zone direction : Nat)
  | scan (h : ReqHeader) (band : Nat)
  | scanStop (h : ReqHeader)
  | watch (h : ReqHeader) (index : Nat)
  | capture (h : ReqHeader) (tuner count : Nat)
  | captureRead (h : ReqHeader)
  | promptPush (h : ReqHeader) (tag cls source zones level maxDuration position : Nat)
  | promptCancel (h : ReqHeader) (tag : Nat)
  | promptEnd (h : ReqHeader) (tag : Nat)
  | callAlert (h : ReqHeader) (zones : Nat)
  | callConnect (h : ReqHeader)
  | callHold (h : ReqHeader)
  | callResume (h : ReqHeader)
  | callEnd (h : ReqHeader)
  | callPrivate (h : ReqHeader) (value : Nat)
  | callZones (h : ReqHeader) (zones : Nat)
  | noticeFetch (h : ReqHeader)
  | faultRead (h : ReqHeader)
  | faultLevel (h : ReqHeader) (level : Nat)
  | powerDown (h : ReqHeader)
  | reset (h : ReqHeader)
  -- broadcasts
  | vehicleState (source ignition speed tailgate : Nat)
  | ringTime (source time : Nat)
  | resetBroadcast (source : Nat)
  -- render blocks and what ends at one
  | powerDownRampEnd
  | zmxRenderBlock
  | rmxRenderBlock
  | bankCrossfadeEnd
  | anuRenderBlock
  | promptDurationExpiry
  | chimeSegmentEnd
  | ringTimeTick
  | adapterTrimAdjust (t : TunerId)
  | scrubPassStart
  | scrubVisit (upsets : List Upset)
  -- tuners and stations
  | qualityReport (t : TunerId) (fs mp adj : Nat) (settled pilot : Bool)
  | settleTimeout (t : TunerId)
  | seekJudgeTimeout (t : TunerId)
  | scanJudgeTimeout
  | scanDwellTimeout
  | backgroundDwellEnd
  | qualityStore (t : TunerId)
  | afHoldExpiry (t : TunerId)
  | switchVerifyTimeout (t : TunerId)
  | afFadeStep (t : TunerId)
  | afSwitchComplete (t : TunerId)
  | blindCheckMeasureTimeout (t : TunerId)
  | checkVerifyTimeout (t : TunerId)
  | tunerAudioSample (t : TunerId) (left right : Sample)
  | servicePacket (t : TunerId) (checkPassed : Bool) (p : Packet)
  | captureIdleTimeout
  | watchRetry
  | linkAck
  | linkNoAck
  | ackRetryWaitExpiry (t : TunerId)
  -- the rear panel link
  | rearByteReceived (b : Byte) (stopBit : Bool)
  | rearIdleTimeout
  | hpPower (r : RearSeat) (arg : Nat)
  | hpSource (r : RearSeat) (arg : Nat)
  | hpStation (r : RearSeat) (arg : Nat)
  | hpVolume (r : RearSeat) (arg : Nat)
  | hpMute (r : RearSeat) (arg : Nat)
  | cabinOffset (r : RearSeat) (arg : Nat)
  | callJoin (r : RearSeat)
  | callLeave (r : RearSeat)
  | stateQuery (r : RearSeat)
  | reportSend
  -- the call processor's windows, and the join
  | meterUpdate (k : Seat)
  | erleWindowEnd (k : Seat)
  | joinGapExpiry
deriving DecidableEq, Repr

end Sys2Proof
end

