-- ==== Sys2Proof/WellFormed.lean ====
section
/-! DEFINITION. Which commands can arise on the part's wires: each operand in the range its field has
(Tables 12.1, 12.4 and 7.2). `exec` gives every command a meaning, well formed or not. -/

namespace Sys2Proof

/-- The source is a node 0 to 63 and the sequence number a byte (Table 12.2). -/
def ReqHeader.wellFormed (h : ReqHeader) : Bool := h.source < 64 && h.seq < 256

/-- A 24-bit signed sample (scope 4.2). -/
def sampleOk (x : Sample) : Bool := sampleMin ≤ x && x ≤ sampleMax

/-- Four lane bytes and 48 slots of 24-bit samples (Table 12.1). -/
def Frame.wellFormed (f : Frame) : Bool :=
  f.lane.length == 4 && f.slots.length == 48 && f.slots.all sampleOk

/-- Six microphone samples, M0 to M5 (scope 1.2). -/
def micsOk (mics : List Sample) : Bool := mics.length == 6 && mics.all sampleOk

/-- A 16-bit code, a segment 0 to 3, and one to three 16-bit frequencies (section 5.1). -/
def Packet.wellFormed : Packet → Bool
  | .ident c _ _ => c < 65536
  | .label n _ _ => n < 4
  | .freqs fs => 1 ≤ fs.length && fs.length ≤ 3 && fs.all (· < 65536)

/-- A guarded unit of one of the 14 loaded tables. -/
def MemUnit.wellFormed (u : MemUnit) : Bool :=
  let sizes := [24, 33, 6, 6, 2, 7, 32, 32, 48, 1, 16, 4, 1, 2]
  match sizes[u.table]? with
  | none => false
  | some n => u.entry < n &&
      (if u.table == 4 then u.part < 2 else if u.table == 6 || u.table == 7 then u.part < 5 else u.part == 0)

/-- A memory error in a guarded unit; only a STATIONS entry has an in-use field. -/
def Upset.wellFormed (u : Upset) : Bool := u.unit.wellFormed && (!u.inUse || u.unit.table == 8)

/-- The operands of a command lie in the ranges of their fields. -/
def Instr.wellFormed : Instr → Bool
  | .powerOn straps => straps < 64
  | .validFrame f mics | .badFrame f mics => f.wellFormed && micsOk mics
  | .identify h | .status h | .bankSwap h | .scanStop h | .captureRead h | .callConnect h | .callHold h
  | .callResume h | .callEnd h | .noticeFetch h | .faultRead h | .powerDown h | .reset h => h.wellFormed
  | .tableRead h t i j m o => h.wellFormed && t < 256 && i < 256 && j < 256 && m < 65536 && o < 256
  | .tableWrite h t i m vs => h.wellFormed && t < 256 && i < 256 && m < 65536 && vs.length ≤ 52
  | .tableClear h x | .countersRead h x | .scan h x | .watch h x | .callAlert h x | .callPrivate h x
  | .callZones h x | .faultLevel h x => h.wellFormed && x < 256
  | .tableShare h x y | .zonePower h x y | .zoneSource h x y | .zoneVolume h x y | .zoneMute h x y
  | .seek h x y | .capture h x y => h.wellFormed && x < 256 && y < 256
  | .zoneOffset h z off => h.wellFormed && z < 256 && -32768 ≤ off && off ≤ 32767
  | .tune h z sel i f => h.wellFormed && z < 256 && sel < 256 && i < 256 && f < 65536
  | .promptPush h tag c src z lv d pos =>
      h.wellFormed && tag < 65536 && c < 256 && src < 256 && z < 256 && lv < 65536 && d < 4294967296 && pos < 256
  | .promptCancel h tag | .promptEnd h tag => h.wellFormed && tag < 65536
  | .vehicleState src ig sp tg => src < 64 && ig < 256 && sp < 65536 && tg < 256
  | .ringTime src t => src < 64 && t < 4294967296
  | .resetBroadcast src => src < 64
  | .scrubVisit us => us.all Upset.wellFormed
  | .qualityReport _ fs mp adj _ _ => fs ≤ 127 && mp ≤ 255 && adj ≤ 255
  | .tunerAudioSample _ l r => sampleOk l && sampleOk r
  | .servicePacket _ _ p => p.wellFormed
  | .hpPower _ x | .hpMute _ x | .cabinOffset _ x => x == 1 || x == 2
  | .hpSource _ x => x ≤ 5
  | .hpStation _ x => (1 ≤ x && x ≤ 12) || x == 0x81 || x == 0x82
  | .hpVolume _ x => x < 256
  | .ringJoin | .replyWindowExpiry | .ringLossDeclared | .ringLossCountExpiry | .powerDownRampEnd
  | .zmxRenderBlock | .rmxRenderBlock | .bankCrossfadeEnd | .anuRenderBlock | .promptDurationExpiry
  | .chimeSegmentEnd | .ringTimeTick | .adapterTrimAdjust _ | .scrubPassStart | .settleTimeout _
  | .seekJudgeTimeout _ | .scanJudgeTimeout | .scanDwellTimeout | .backgroundDwellEnd | .qualityStore _
  | .afHoldExpiry _ | .switchVerifyTimeout _ | .afFadeStep _ | .afSwitchComplete _
  | .blindCheckMeasureTimeout _ | .checkVerifyTimeout _ | .captureIdleTimeout | .watchRetry | .linkAck
  | .linkNoAck | .ackRetryWaitExpiry _ | .rearByteReceived _ _ | .rearIdleTimeout | .callJoin _
  | .callLeave _ | .stateQuery _ | .reportSend | .meterUpdate _ | .erleWindowEnd _ | .joinGapExpiry => true

end Sys2Proof
end

