-- ==== Sys2Proof/Decode.lean ====
section
/-! DEFINITION. The decoding of table words. No row of spec/opcode_table.json gives bits (every row's
"fields" is empty and no row has "fixed"), so no word spells a command. The byte layouts of ring messages
and rear frames (chapter 12) are read in Machine/Ring.lean and Machine/Rear.lean. -/

namespace Sys2Proof

/-- The command that a word spells by the table's bits: none, since no row of the table gives bits. -/
def decodeTableWord (_nbits _w : Nat) : Option Instr := none

end Sys2Proof
end

