-- ==== Sys2Proof/Config.lean ====
section
/-! DEFINITION. What an implementation fixes and the spec does not state, and the FREE VALUES: opaque
constants, so that no proof can lean on what they are. -/

namespace Sys2Proof

/-- The family code that IDENTIFY returns: 'fixed for the Arbekon family', its value not stated
(chapter 12, section 12.3). Log entry 1. -/
opaque Config.familyCode : BitVec 8

/-- The design version that IDENTIFY returns; its value is not stated (chapter 12, section 12.3).
Log entry 1. -/
opaque Config.designVersion : BitVec 8

/-- FREE VALUE: the echo estimate of seat `k`'s canceller filter at the `n`th draw. The adaptation of
the filter is not stated and its coefficients are not visible (R144). Log entry 2. -/
opaque Config.echoEstimate : Nat → Seat → Int

/-- FREE VALUE: the samples a media source gives while its SOURCES entry is poisoned, at the `n`th draw:
left when `side` is false, right when it is true (R17 states the value for mono signals alone).
Log entry 3. -/
opaque Config.poisonedMedia : Nat → Nat → Bool → Int

/-- FREE VALUE: the average a blind check stores when it is returned by an IDENT with another code before
its average is due, at the `n`th draw (R91 states an average 'in every case' and none for this case).
Log entry 4. -/
opaque Config.unmeasuredAverage : Nat → Nat

end Sys2Proof
end

