-- ==== Sys2Proof/Machine/State.lean ====
section
/-! DEFINITION. The state of the part, block by block (scope 2.1), as plain data; the value of each piece
after power-on; and the state after reset. -/

namespace Sys2Proof.Machine

/-- The faults of the model. There is none: every command of the table has an effect the spec gives
(NOTES.md, 'Stops'), so no meaning stops the part. -/
inductive Fault where
deriving DecidableEq, Repr

/-- The refusals of the model. -/
inductive Refusal where
  /-- Raised by an arm of `exec` whose command has no meaning yet; no arm raises it. Safe: it stops. -/
  | notModelled (mnemonic : String)
deriving DecidableEq, Repr

/-! ### Names -/

/-- The power modes (scope 4.7). -/
inductive PowerMode where
  | active | reduced | dormant
deriving DecidableEq, Repr

/-- The ignition positions (R160). -/
inductive Ignition where
  | off | accessory | on
deriving DecidableEq, Repr

/-- The start causes (R161). -/
inductive StartCause where
  | powerOn | ringReset | wake | ringLoss
deriving DecidableEq, Repr

/-- Why DORMANT was entered (R175). -/
inductive DormantCause where
  | loss | powerDown
deriving DecidableEq, Repr

/-- The zone states (Table 2.4). -/
inductive ZoneState where
  | off | silent | pending | playing | lost
deriving DecidableEq, Repr

/-- The entertainment sources: NONE, RADIO, MEDIA_1 to MEDIA_4 (R24). -/
inductive Source where
  | none | radio | media (k : Fin 4)
deriving DecidableEq, Repr

/-- The tuner states (Table 4.2). -/
inductive TunerState where
  | idle | tuning | playing | checking | fault
deriving DecidableEq, Repr

/-- The seven claimants, in the order of their codes (R67, Table 12.8). -/
inductive Claimant where
  | front | bulletin | hpLeft | hpRight | watch | scan | background
deriving DecidableEq, Repr

/-- The frequency-following states (R88). -/
inductive FollowState where
  | monitor | switchVerify | switchFade | checkMeasure | checkVerify | checkReturn
deriving DecidableEq, Repr

/-- The three conditions of the watch (R92). -/
inductive WatchState where
  | inactive | covered | uncovered
deriving DecidableEq, Repr

/-- The bulletin latch (R93). -/
inductive Latch where
  | none | prompted | spent
deriving DecidableEq, Repr

/-- The prompt classes, in the order of their codes (R99, chapter 12). -/
inductive PromptClass where
  | safety | ring | nav | bulletin | chime
deriving DecidableEq, Repr

/-- A prompt's source (R99). -/
inductive PromptSource where
  | pattern (n : Nat) | navVoice | tuner (t : TunerId)
deriving DecidableEq, Repr

/-- The call states (R129). -/
inductive CallState where
  | idle | alerting | active | held
deriving DecidableEq, Repr

/-- The canceller context states (R144). -/
inductive ContextState where
  | reset | training | converged
deriving DecidableEq, Repr

/-- The states of the rear frame assembler (Table 7.1). -/
inductive Assembler where
  | hunt | length | body | handling
deriving DecidableEq, Repr

/-- The nine rear request kinds, in the order of their codes 1 to 9 (R181). -/
inductive RearKind where
  | power | source | station | volume | mute | cabin | join | leave | query
deriving DecidableEq, Repr

/-- The rear result codes (Table 12.7). -/
inductive RearResult where
  | none | done | clamped | denied | sourceDenied | tunerBusy | power | privateCall | state | notFound
deriving DecidableEq, Repr

/-- The result codes of ring replies, in the order of their codes (Table 12.5). -/
inductive Result where
  | ok | clamped | busy | full | badTable | badEntry | badValue | access | activeBank | badBank
  | notFound | duplicate | tunerBusy | state | zoneRole | privateCall | power | callActive
  | unknownRequest | badLength
deriving DecidableEq, Repr

/-- The notice kinds, in the order of their codes 1 to 20 (section 12.3). -/
inductive NoticeKind where
  | modeChanged | bankSwapped | zoneLost | tuneDone | seekDone | scanDone | tunerFault | afSwitched
  | stationChanged | watchLost | watchRestored | captureReady | captureDone | callTalker | fault
  | promptStarted | promptEnded | promptDropped | rearChange | canceller
deriving DecidableEq, Repr

/-- The fault report kinds, in the order of Table 10.3. -/
inductive FaultKind where
  | uncorrectable | corrected | laneCheck | ringLoss | rearLink | tuner | slip
deriving DecidableEq, Repr

/-- The fault reporting levels (R171). -/
inductive FaultLevel where
  | off | memory | standard | full
deriving DecidableEq, Repr

/-- The sides a render contribution may name (R40). -/
inductive Side where
  | l | r | mid
deriving DecidableEq, Repr

/-! ### Table Store: the loaded tables -/

/-- A set of zones. -/
abbrev ZoneSet := PerZone Bool

/-- A SOURCES entry (Table 2.1); a mono entry uses `left` as its channel. -/
structure SourceCfg where
  left : Option Nat := none
  right : Option Nat := none
  trim : Nat := 0
deriving DecidableEq, Repr

/-- A ZONES entry (Table 2.2). -/
structure ZoneCfg where
  attack : Nat := 8
  release : Nat := 4
  speedComp : Bool := false
  promptOffset : Nat := 0
  callOffset : Nat := 0
  headphoneCurve : Bool := false
  followOffset : Nat := 0
  rearQuiet : Nat := 0
  cargoAuto : Bool := false
  compStep : Nat := 0
  compMax : Nat := 0
deriving DecidableEq, Repr

/-- A CURVES entry: steps 0 to 20 and steps 21 to 40 (R30). -/
structure Curve where
  low : List Nat
  high : List Nat
deriving DecidableEq, Repr

/-- One contribution of a render entry, with the applied trim the Render Matrix holds for it (R40). -/
structure Contribution where
  zone : Nat := 0
  side : Side := .l
  trimClosed : Nat := 0
  trimOpen : Nat := 0
  applied : Nat := 0
deriving DecidableEq, Repr

/-- A render bank entry (Table 3.1): four contribution fields, of which `count` are contributions. DESIGN CHOICE (log
entry 42): a field that no write has given a contribution reads zone 0, side L and trims 0. -/
structure RenderEntry where
  enabled : Bool := false
  delay : Nat := 0
  count : Nat := 0
  contribs : List Contribution := List.replicate 4 {}
deriving DecidableEq, Repr

/-- An item of a station's frequency list: its last quality (none: UNKNOWN) and last heard ring time
(Table 5.1). -/
structure Item where
  freq : Nat
  quality : Option Nat := none
  heard : Option Nat := none
deriving DecidableEq, Repr

/-- A station entry (Table 5.1). -/
structure Station where
  code : Nat
  band : Band
  label : Option (List Byte) := none
  items : List Item
  favourite : Option Nat := none
  capable : Bool := false
  active : Bool := false
  learned : Bool := false
deriving DecidableEq, Repr

/-- A STATIONS index: its entry, or free, and its changed mark (R78, R79). -/
structure StationSlot where
  entry : Option Station := none
  mark : Bool := false
deriving DecidableEq, Repr

/-- The RADIO_CFG entry (Tables 4.3 and 5.5), with its power-on values. -/
structure RadioCfg where
  fsFloor : Nat := 10
  blendLo : Nat := 30
  blendHi : Nat := 60
  muteHi : Nat := 35
  muteSlope : Nat := 6
  muteMax : Nat := 120
  trim : Nat := 0
  seekThreshold : Nat := 35
  scanThreshold : Nat := 25
  addresses : PerTuner (Option Nat) := ⟨none, none⟩
  afEnable : Bool := true
  background : Bool := true
  bulletins : Bool := false
  afThreshold : Nat := 30
  afMargin : Nat := 10
  afHold : Nat := 2000
  afAge : Nat := 120000
  afBlindInterval : Nat := 5000
  bulletinZones : ZoneSet := ⟨true, true, false, false, false, false⟩
  bulletinLevel : Nat := 0
  captureTrigger : Nat := 8
deriving DecidableEq, Repr

/-- A segment of a chime pattern (R110). -/
structure Segment where
  freq : Nat := 0
  duration : Nat := 1
  level : Nat := 384
deriving DecidableEq, Repr

/-- A CHIMES entry (R110): eight segment fields, of which `count` are played. -/
structure Pattern where
  count : Nat := 1
  repeats : Nat := 1
  segments : List Segment := List.replicate 8 {}
deriving DecidableEq, Repr

/-- A SEATS entry (R140). -/
structure SeatCfg where
  mic1 : Nat
  mic2 : Option Nat := none
  gain : Nat := 0
  window : Nat := 16
deriving DecidableEq, Repr

/-- The CALL_CFG entry (Table 8.2), with its power-on values. -/
structure CallCfg where
  level : Nat := 0
  defaultZones : ZoneSet := ⟨true, false, false, false, false, false⟩
  ringPattern : Nat := 0
  navDuck : Nat := 24
  gateLevel : Nat := 100
  switchMargin : Nat := 12
  talkerHold : Nat := 300
  gateAtt : Nat := 48
  uplinkBase : Nat := 0
  convErle : Nat := 24
  divErle : Nat := 12
deriving DecidableEq, Repr

/-- The allowed sources of an ADMISSION entry (Table 7.5). -/
structure SourceSet where
  radio : Bool := true
  media1 : Bool := true
  media2 : Bool := true
  media3 : Bool := true
  media4 : Bool := true
deriving DecidableEq, Repr

/-- An ADMISSION entry (Table 7.5); bit n of `flags` set is ADMIT for the nth admissible kind (R181). -/
structure Admission where
  flags : BitVec 8 := 255#8
  maxStep : Nat := 40
  allowed : SourceSet := {}
deriving DecidableEq, Repr

/-- The power-on ZONES entry of a zone (Table 2.2). -/
def ZoneCfg.powerOn : ZoneId → ZoneCfg
  | .front => { speedComp := true, compStep := 2, compMax := 24 }
  | .rearCabin => { speedComp := true, rearQuiet := 24 }
  | .hpLeft | .hpRight => { headphoneCurve := true }
  | .cargo => { speedComp := true, cargoAuto := true }
  | .driver => {}

/-- The power-on curve: step 0 is 384 and step s is (40 − s) × 6 (R30). -/
def Curve.powerOn : Curve where
  low := 384 :: (List.range 20).map fun i => (39 - i) * 6
  high := (List.range 20).map fun i => (19 - i) * 6

/-- The power-on SEATS entry of a seat (R140). -/
def SeatCfg.powerOn : Seat → SeatCfg
  | .driver => { mic1 := 0 }
  | .passenger => { mic1 := 1 }
  | .rearLeft => { mic1 := 2 }
  | .rearRight => { mic1 := 3 }

/-- The Table Store: the 14 loaded tables, the share rights, the poisoned units, the memory errors not
yet met by a check, and the scrubber (R162, R169, R170). -/
structure Store where
  ingress : List (Option Nat) := List.replicate 24 none
  egress : List (Option Nat) := List.replicate 33 none
  sources : List SourceCfg := List.replicate 6 {}
  zones : PerZone ZoneCfg := .of ZoneCfg.powerOn
  curves : List Curve := List.replicate 2 Curve.powerOn
  ducks : List (PerZone Nat) := List.replicate 7 (.of fun _ => 0)
  renderA : List RenderEntry := List.replicate 32 {}
  renderB : List RenderEntry := List.replicate 32 {}
  stations : List StationSlot := List.replicate 48 {}
  radio : RadioCfg := {}
  chimes : List Pattern := List.replicate 16 {}
  seats : PerSeat SeatCfg := .of SeatCfg.powerOn
  call : CallCfg := {}
  admission : PerRear Admission := ⟨{}, {}⟩
  shares : List Bool := List.replicate 18 false
  poisoned : List MemUnit := []
  latent : List Upset := []
  scrubbing : Bool := false
  scrubPos : Nat := 0
deriving DecidableEq, Repr

/-! ### Ring Interface -/

/-- The transmit buffer: the reply's bytes, its destination being in them, how many have been sent, and
whether the reply window has run out since it was begun (R158). -/
structure Tx where
  bytes : List Byte
  sent : Nat := 0
  windowOver : Bool := false
deriving DecidableEq, Repr

/-- The saved reply (R159). -/
structure Saved where
  seq : Nat
  kind : Nat
  result : Result
  body : List Byte
deriving DecidableEq, Repr

/-- The frame last forwarded: its lane, its slots, and the check it is sent with, none standing for a
check that the part makes fail (R151). -/
structure FrameOut where
  occupied : Bool
  lane : List Byte
  slots : List Sample
  check : Option (BitVec 16)
deriving DecidableEq, Repr

/-- The Ring Interface (R150 to R161, Table 9.5). -/
structure Rif where
  address : Nat := 1
  addressValid : Bool := true
  joined : Bool := false
  joinCount : Nat := 0
  channels : List Sample := List.replicate 24 0
  rx : List Byte := []
  tx : Option Tx := none
  saved : Option Saved := none
  resetPending : Bool := false
  loss : Bool := false
  ringTime : Nat := 0
  badFrames : Nat := 0
  laneErrors : Nat := 0
  overruns : Nat := 0
  replyTimeouts : Nat := 0
  ringLosses : Nat := 0
  out : Option FrameOut := none
deriving DecidableEq, Repr

/-! ### Zone Mixer -/

/-- A contribution's target and applied code (R7). -/
structure Level where
  target : Nat := 384
  applied : Nat := 384
deriving DecidableEq, Repr

/-- A zone's runtime record (Table 2.3). `att` is the tuner it is attached to (the one it leaves during a
frequency-following crossfade), `att2` the one it moves to; `held` is the readiness held over a blind
check (R19). -/
structure Zone where
  state : ZoneState := .off
  source : Source := .none
  chan : Option Chan := none
  station : Option Nat := none
  code : Option Nat := none
  step : Nat := 16
  mute : Bool := false
  autoOn : Bool := false
  ent : Level := {}
  prm : Level := {}
  call : Level := {}
  att : Option TunerId := none
  att2 : Option TunerId := none
  held : Option Bool := none
  clip : Nat := 0
deriving DecidableEq, Repr

/-- The Zone Mixer: the zone records, the zone bus samples (left, right), the held road speed, and, as they
stood at the last render block, the SOURCES entries and CARGO's cargo-auto, since a written one takes effect at
the next render block (R17, R20). -/
structure Zmx where
  zones : PerZone Zone := .of fun _ => {}
  bus : PerZone (Sample × Sample) := .of fun _ => (0, 0)
  speed : Nat := 0
  sources : List SourceCfg := List.replicate 6 {}
  cargoAuto : Bool := true
deriving DecidableEq, Repr

/-! ### Render Matrix -/

/-- The Render Matrix (Table 3.5). `crossfade` is none in STEADY and the step in CROSSFADING; a delay line
is a list of bank sums, newest first, that reads 0 beyond its end. -/
structure Rmx where
  active : BankId := .a
  crossfade : Option Nat := none
  tailgateOpen : Bool := false
  linesA : List (List Sample) := List.replicate 32 []
  linesB : List (List Sample) := List.replicate 32 []
  clips : List Nat := List.replicate 32 0
  outputs : List Sample := List.replicate 32 0
deriving DecidableEq, Repr

/-! ### Tuner Controller -/

/-- A command of the tuner command link (section 4.2). -/
inductive LinkCmd where
  | tune (c : Chan) | standby
deriving DecidableEq, Repr

/-- A claim on a tuner, real or a provisional copy (R67, R89). -/
structure Claim where
  who : Claimant
  prov : Bool := false
deriving DecidableEq, Repr

/-- A rate adapter (R64). -/
structure Adapter where
  fifo : List (Sample × Sample) := []
  phase : Nat := 0
  trim : Int := 0
  primed : Bool := false
  last : Sample × Sample := (0, 0)
deriving DecidableEq, Repr

/-- A seek that runs on a tuner (R74). `reports` counts the applied reports since the step completed;
`returning` is set while the tuner goes back to the start frequency. -/
structure Seek where
  zone : ZoneId
  up : Bool
  start : Nat
  reports : Nat := 0
  returning : Bool := false
deriving DecidableEq, Repr

/-- The fields of RADIO_CFG by which a tuner's separation and soft mute are computed (R62, R63). -/
structure ScoreCfg where
  blendLo : Nat := 30
  blendHi : Nat := 60
  muteHi : Nat := 35
  muteSlope : Nat := 6
  muteMax : Nat := 120
deriving DecidableEq, Repr

/-- A tuner's record (Table 4.1), its tune in progress (`acked`: the TUNE command is acknowledged, `done`:
the tune has completed, `note`: the zone it is noted for), its retry wait, its seek, its counters, and the RADIO_CFG
fields in force since its last quality report (`scoring`, R57, log entry 68). -/
structure Tuner where
  state : TunerState := .idle
  chan : Option Chan := none
  claims : List Claim := []
  q : Nat := 0
  s : Nat := 800
  pilot : Bool := false
  sep : Nat := 0
  softMute : Nat := 0
  heard : Option Nat := none
  adapter : Adapter := {}
  missed : Nat := 0
  settle : Bool := false
  acked : Bool := false
  done : Bool := false
  note : Option ZoneId := none
  retry : Option LinkCmd := none
  seek : Option Seek := none
  underflows : Nat := 0
  overflows : Nat := 0
  missedAcks : Nat := 0
  settleTimeouts : Nat := 0
  scoring : ScoreCfg := {}
deriving DecidableEq, Repr

/-- The Tuner Controller: the tuners, the grant order of LISTEN-HP claims (oldest first), the transaction
on the command link, and the pending commands in the order of their issue (R55, R67). -/
structure Tuc where
  tuners : PerTuner Tuner := ⟨{}, {}⟩
  grants : List ZoneId := []
  link : Option (TunerId × LinkCmd) := none
  queue : List (TunerId × LinkCmd) := []
deriving DecidableEq, Repr

/-! ### Station Manager -/

/-- A tuner's frequency following (R88 to R91): the candidate frequency, whether the candidate is
verified, the fade step, and a blind check's home frequency, code, pre-check score, sum and count. -/
structure Follow where
  state : FollowState := .monitor
  lowTimer : Bool := false
  lastCheck : Option Nat := none
  cand : Nat := 0
  verified : Bool := false
  step : Nat := 0
  home : Nat := 0
  code : Nat := 0
  preScore : Nat := 0
  sum : Nat := 0
  reports : Nat := 0
deriving DecidableEq, Repr

/-- A running band scan (R87). -/
structure Scan where
  band : Band
  tuner : TunerId
  found : Nat := 0
  reports : Nat := 0
  dwelling : Bool := false
deriving DecidableEq, Repr

/-- A captured packet (R95). -/
structure Captured where
  tuner : TunerId
  time : Nat
  packet : Packet
deriving DecidableEq, Repr

/-- The bulletin record (R93). -/
structure Bulletin where
  latch : Latch := .none
  tag : Nat := 0
  tuner : TunerId := .a
  station : Option Nat := none
deriving DecidableEq, Repr

/-- The Station Manager: label assemblies, frequency following, the background cycle position, the scan,
the watch, the bulletin record, the capture record and the STATION_COUNTS counters. -/
structure Stm where
  labels : PerTuner (List (Option (Byte × Byte))) := ⟨List.replicate 4 none, List.replicate 4 none⟩
  follow : PerTuner Follow := ⟨{}, {}⟩
  bgIndex : Nat := 0
  bgItem : Nat := 0
  scan : Option Scan := none
  watch : Option Nat := none
  watchState : WatchState := .inactive
  bulletin : Bulletin := {}
  capTuner : Option TunerId := none
  capCount : Nat := 0
  capQueue : List Captured := []
  capTimer : Bool := false
  checkFails : PerTuner Nat := ⟨0, 0⟩
  unfiled : Nat := 0
  dropped : Nat := 0
  captureLosses : Nat := 0
deriving DecidableEq, Repr

/-! ### Announcement Unit -/

/-- A prompt record (Table 6.1). -/
structure Prompt where
  tag : Nat
  cls : PromptClass
  source : PromptSource
  zones : ZoneSet
  level : Nat
  maxDuration : Option Nat
  front : Bool
  elapsed : Nat := 0
  pass : Nat := 1
  segment : Nat := 0
deriving DecidableEq, Repr

/-- The chime generator (R110, R111): the copy of the segment it plays, for how many render blocks it has
played it, the phase and the increment. -/
structure Chime where
  segment : Option Segment := none
  played : Nat := 0
  phase : Nat := 0
  increment : Nat := 0
deriving DecidableEq, Repr

/-- The Announcement Unit (R99, R100, R111). -/
structure Anu where
  playing : Option Prompt := none
  waiting : List Prompt := []
  tagCounter : Nat := 32768
  chime : Chime := {}
  sample : Sample := 0
deriving DecidableEq, Repr

/-! ### Rear Link Unit -/

/-- A taken rear request, held until it has been decided (R115, R117); the argument is 0 where the kind has
none. `flags` and `allowed` are the seat's admission flags and allowed sources as they read when it was taken, by
which it is decided (R121). -/
structure Taken where
  seat : RearSeat
  kind : RearKind
  arg : Nat := 0
  flags : BitVec 8
  allowed : SourceSet
deriving DecidableEq, Repr

/-- The Rear Link Unit (Table 7.9). `taken` is the request that is decided in HANDLING; `pending` is a seat's
pending report with its result; `sent` is the report frame last started on the transmit wire. -/
structure Rlu where
  fifo : List Byte := []
  assembler : Assembler := .hunt
  frame : List Byte := []
  length : Nat := 0
  taken : Option Taken := none
  lineErrors : Nat := 0
  overflows : Nat := 0
  frameErrors : Nat := 0
  checkErrors : Nat := 0
  formatErrors : Nat := 0
  pending : PerRear (Option RearResult) := ⟨some .none, some .none⟩
  lastSent : RearSeat := .right
  maxCopy : PerRear Nat := ⟨40, 40⟩
  sent : List Byte := []
deriving DecidableEq, Repr

/-! ### Call Processor -/

/-- A path signature: the active bank, whether trim_open is in force, and the call zone set (R145). -/
structure Signature where
  bank : BankId := .a
  openCol : Bool := false
  zones : ZoneSet := .of fun _ => false
deriving DecidableEq, Repr

/-- A seat's voice meter and canceller context (R141, R144, R146). `filterClear` is set from the clearing
of the filter until it adapts; the sums are those of the meter window and of the ERLE window, each of
which begins at a render block. -/
structure SeatRt where
  v : Nat := 240
  context : ContextState := .reset
  erle : Nat := 0
  convTimer : Nat := 0
  divTimer : Nat := 0
  divCount : Nat := 0
  sig : Option Signature := none
  signal : Sample := 0
  residual : Sample := 0
  filterClear : Bool := true
  meterOpen : Bool := true
  meterSum : Nat := 0
  windowOpen : Bool := false
  micSum : Nat := 0
  resSum : Nat := 0
  refSum : Nat := 0
deriving DecidableEq, Repr

/-- The Call Processor (Table 8.1). -/
structure Clp where
  state : CallState := .idle
  isPrivate : Bool := false
  zones : ZoneSet := .of fun _ => false
  admitted : PerSeat Bool := .of fun _ => false
  ringTag : Option Nat := none
  talker : Option Seat := none
  lastTalker : Seat := .driver
  aboveGate : Option Nat := none
  uplinkCode : Nat := 384
  sig : Signature := {}
  seats : PerSeat SeatRt := .of fun _ => {}
  uplink : Sample := 0
deriving DecidableEq, Repr

/-! ### Notice and Fault Unit, Power Controller -/

/-- A notice (R167). A value of none is sent as 65535 (section 12.3). -/
structure Notice where
  kind : NoticeKind
  subject : Nat
  value : Option Nat
  count : Nat := 1
deriving DecidableEq, Repr

/-- A full diagnostic record (R172): the subject is a table id or a tuner, none otherwise. -/
structure Diagnostic where
  kind : FaultKind
  subject : Option Nat
  entry : Option Nat
  time : Nat
  later : Nat := 0
deriving DecidableEq, Repr

/-- The Notice and Fault Unit (R167, R171, R172). -/
structure Nfu where
  notices : List Notice := []
  overflow : Bool := false
  level : FaultLevel := .standard
  record : Option Diagnostic := none
  counts : List Nat := List.replicate 7 0
deriving DecidableEq, Repr

/-- The Power Controller (section 11.1). `ramp` counts the render blocks of a POWER_DOWN ramp;
`lossInDormant` is set when a ring loss is declared during DORMANT (Table 11.2). -/
structure Pwc where
  mode : PowerMode := .reduced
  ignition : Ignition := .off
  ramp : Option Nat := none
  lossCount : Bool := false
  dormantCause : Option DormantCause := none
  lossInDormant : Bool := false
  startCause : StartCause := .powerOn
deriving DecidableEq, Repr

/-! ### The part -/

/-- The eleven blocks of the part (Table 0.1). The fields' default values are those after power-on. -/
structure Part where
  rif : Rif := {}
  tst : Store := {}
  zmx : Zmx := {}
  rmx : Rmx := {}
  tuc : Tuc := {}
  stm : Stm := {}
  anu : Anu := {}
  rlu : Rlu := {}
  clp : Clp := {}
  nfu : Nfu := {}
  pwc : Pwc := {}
  /-- The MODEL's own field: how many free values have been drawn. -/
  draws : Nat := 0
deriving DecidableEq, Repr

/-- The state: the part, and the commands that wait, first in, first out. -/
structure State where
  part : Part
  pending : List Instr
deriving DecidableEq, Repr

/-- The state after power-on: every default value of chapters 2 to 11, with node address 1 read from the
straps (DESIGN CHOICE, log entry 5) and no command waiting. -/
def State.reset : State := { part := {}, pending := [] }

end Sys2Proof.Machine
end

