-- ==== Sys2Proof/Machine/Ops.lean ====
section
/-! DEFINITION. The arithmetic every block shares (chapter 1): gain codes and their linear factors,
round-sums and saturation, ramps, crossfades, MID, the meter level, the tone sample, the message check;
and the update of one place of a list. -/

namespace Sys2Proof.Machine

/-! ### Small helpers -/

/-- `l` with the element at index `i`, if there is one, replaced by `f` of it. -/
def updAt {α : Type} (l : List α) (i : Nat) (f : α → α) : List α := l.modify i f

/-- A 16-bit counter raised by `n`; it stays at 65535 (R5, R66, R118). -/
def count16 (c n : Nat) : Nat := min 65535 (c + n)

/-- An 8-bit count raised by one; it stays at 255 (R167). -/
def count8 (c : Nat) : Nat := min 255 (c + 1)

/-- An integer brought into `lo` to `hi` (scope 4.3). -/
def clampInt (lo hi x : Int) : Int := max lo (min hi x)

/-- The difference of two ring times, modulo 2^32 (R155). -/
def timeSince (now t : Nat) : Nat := (now + 4294967296 - t) % 4294967296

/-! ### Gain codes and linear factors -/

/-- MUTE (R1). -/
abbrev mute : Nat := 384

/-- A code sum: the terms added as integers and the total clamped once into 0 to 384 (R2). -/
def codeSum (terms : List Int) : Nat := (clampInt 0 384 terms.sum).toNat

/-- L(c) for the codes from 0 on (R3). -/
def linearCodes0 : List Nat :=
  [8388608, 8150606, 7919357, 7694668, 7476355, 7264235, 7058134, 6857880, 6663308, 6474256, 6290569,
   6112092, 5938680, 5770187, 5606475, 5447408, 5292854, 5142685, 4996776, 4855007, 4717261, 4583423,
   4453381, 4327030, 4204263, 4084980, 3969080, 3856469, 3747054, 3640742, 3537447, 3437082, 3339565,
   3244815, 3152753, 3063303, 2976390, 2891944, 2809894, 2730171, 2652711, 2577448, 2504320, 2433268,
   2364231, 2297153, 2231978, 2168652, 2107123, 2047340, 1989252, 1932813, 1877975, 1824693, 1772923]

/-- L(c) for the codes from 55 on (R3). -/
def linearCodes55 : List Nat :=
  [1722622, 1673747, 1626260, 1580119, 1535288, 1491729, 1449405, 1408283, 1368327, 1329505, 1291784,
   1255133, 1219523, 1184922, 1151304, 1118639, 1086901, 1056063, 1026101, 996988, 968701, 941217,
   914513, 888566, 863356, 838861, 815061, 791936, 769467, 747635, 726424, 705813, 685788, 666331,
   647426, 629057, 611209, 593868, 577019, 560648, 544741, 529285, 514268, 499678, 485501, 471726,
   458342, 445338, 432703, 420426, 408498, 396908, 385647, 374705, 364074]

/-- L(c) for the codes from 110 on (R3). -/
def linearCodes110 : List Nat :=
  [353745, 343708, 333956, 324481, 315275, 306330, 297639, 289194, 280989, 273017, 265271, 257745,
   250432, 243327, 236423, 229715, 223198, 216865, 210712, 204734, 198925, 193281, 187798, 182469,
   177292, 172262, 167375, 162626, 158012, 153529, 149173, 144941, 140828, 136833, 132950, 129178,
   125513, 121952, 118492, 115130, 111864, 108690, 105606, 102610, 99699, 96870, 94122, 91451, 88857,
   86336, 83886, 81506, 79194, 76947, 74764]

/-- L(c) for the codes from 165 on (R3). -/
def linearCodes165 : List Nat :=
  [72642, 70581, 68579, 66633, 64743, 62906, 61121, 59387, 57702, 56065, 54474, 52929, 51427, 49968,
   48550, 47173, 45834, 44534, 43270, 42043, 40850, 39691, 38565, 37471, 36407, 35374, 34371, 33396,
   32448, 31528, 30633, 29764, 28919, 28099, 27302, 26527, 25774, 25043, 24333, 23642, 22972, 22320,
   21687, 21071, 20473, 19893, 19328, 18780, 18247, 17729, 17226, 16737, 16263, 15801, 15353]

/-- L(c) for the codes from 220 on (R3). -/
def linearCodes220 : List Nat :=
  [14917, 14494, 14083, 13683, 13295, 12918, 12551, 12195, 11849, 11513, 11186, 10869, 10561, 10261,
   9970, 9687, 9412, 9145, 8886, 8634, 8389, 8151, 7919, 7695, 7476, 7264, 7058, 6858, 6663, 6474,
   6291, 6112, 5939, 5770, 5606, 5447, 5293, 5143, 4997, 4855, 4717, 4583, 4453, 4327, 4204, 4085,
   3969, 3856, 3747, 3641, 3537, 3437, 3340, 3245, 3153]

/-- L(c) for the codes from 275 on (R3). -/
def linearCodes275 : List Nat :=
  [3063, 2976, 2892, 2810, 2730, 2653, 2577, 2504, 2433, 2364, 2297, 2232, 2169, 2107, 2047, 1989,
   1933, 1878, 1825, 1773, 1723, 1674, 1626, 1580, 1535, 1492, 1449, 1408, 1368, 1330, 1292, 1255,
   1220, 1185, 1151, 1119, 1087, 1056, 1026, 997, 969, 941, 915, 889, 863, 839, 815, 792, 769, 748,
   726, 706, 686, 666, 647]

/-- L(c) for the codes from 330 on (R3). -/
def linearCodes330 : List Nat :=
  [629, 611, 594, 577, 561, 545, 529, 514, 500, 486, 472, 458, 445, 433, 420, 408, 397, 386, 375, 364,
   354, 344, 334, 324, 315, 306, 298, 289, 281, 273, 265, 258, 250, 243, 236, 230, 223, 217, 211, 205,
   199, 193, 188, 182, 177, 172, 167, 163, 158, 154, 149, 145, 141, 137, 0]

/-- The whole conversion, held as a fixed table of 385 values (R3). -/
def linearTable : List Nat :=
  linearCodes0 ++ linearCodes55 ++ linearCodes110 ++ linearCodes165 ++ linearCodes220 ++ linearCodes275 ++ linearCodes330

/-- The linear factor L(c) of a code; 0 for MUTE (R3). -/
def linear (c : Nat) : Nat := linearTable.getD c 0

/-! ### Round-sums -/

/-- Rounds an exact sum of products: floor((P + 2^22) / 2^23) (R4). -/
def roundSum (p : Int) : Int := (p + 4194304) / 8388608

/-- Saturates to the sample range (R5). -/
def saturate (x : Int) : Sample := clampInt sampleMin sampleMax x

/-- Whether saturation changes the value, which is what a clip counter counts (R5). -/
def clips (x : Int) : Bool := x < sampleMin || sampleMax < x

/-- The exact sum of samples times the linear factors of their codes (R4). -/
def products (terms : List (Sample × Nat)) : Int :=
  (terms.map fun t => t.1 * (linear t.2 : Int)).sum

/-- A single sample scaled by a code, as a single-product round-sum (R4). -/
def scale (x : Sample) (c : Nat) : Sample := roundSum (x * (linear c : Int))

/-- The MID sample of a bus: the floor mean of its sides (R14). -/
def midOf (l r : Sample) : Sample := (l + r) / 2

/-! ### Ramps and crossfades -/

/-- One render block's move of a code toward its target: up by at most `up`, down by at most `down`,
never past it (R7). -/
def ramp (up down target applied : Nat) : Nat :=
  if applied < target then min target (applied + up)
  else if target < applied then max target (applied - down)
  else applied

/-- The trim ramp: 4 codes per render block either way (R9). -/
def trimRamp (target applied : Nat) : Nat := ramp 4 4 target applied

/-- A crossfaded sample at new weight `w`: old and new weights add up to 2^23 (R11, R12). -/
def crossfade (w : Nat) (old new : Sample) : Sample :=
  roundSum (old * (8388608 - (w : Int)) + new * (w : Int))

/-- The bank exchange's new weight at step `k`, k × 2^19 (R11). -/
def bankWeight (k : Nat) : Nat := k * 524288

/-- The frequency-following switch's new weight at step `k`, k × 2^18 (R11). -/
def switchWeight (k : Nat) : Nat := k * 262144

/-! ### Levels in half-dB -/

/-- clamp(round(20 × log10(num / den)), 0, top), a tie going up, and `top` when `den` is 0: the number of
steps v from 1 to `top` with (num / den)^40 ≥ 10^(2v − 1), which is exact (R141, R146). -/
def halfDb (num den top : Nat) : Nat :=
  if den = 0 then top
  else (List.range top).countP fun i => 10 ^ (2 * i + 1) * den ^ 40 ≤ num ^ 40

/-- The meter level of a window sum over 48 × w samples: 40 × log10(2^23 / rms) is 20 × log10 of
2^46 × 48w over the sum (R141). -/
def meterLevel (sum w : Nat) : Nat := halfDb (70368744177664 * (48 * w)) sum 240

/-- The ERLE of a window (R146). -/
def erleOf (mic res : Nat) : Nat := halfDb mic res 160

/-! ### The tone sample -/

/-- π × 2^192, rounded down. -/
def piScaled : Nat := 19720096697726538562396133364228268891463450865190089732560

/-- Partial sums of the sine series at scale 2^128: `term` is the next term, `x2` the square of the
argument, `n` the term's order; the signs alternate. -/
def sineSeries (x2 : Nat) : Nat → Nat → Nat → Int
  | 0, _, _ => 0
  | fuel + 1, n, term =>
    (term : Int) - sineSeries x2 fuel (n + 2) (term * x2 / 2 ^ 128 / ((n + 1) * (n + 2)))

/-- sin(2π × k / 2^32) at scale 2^128, for k up to a quarter of 2^32. -/
def sineQuarter (k : Nat) : Int :=
  let x := 2 * k * piScaled / 2 ^ 96
  sineSeries (x * x / 2 ^ 128) 24 1 x

/-- The tone sample round(8,388,607 × sin(2π × phase / 2^32)) (R111). No tie arises (log entry 6). -/
def toneSample (phase : Nat) : Sample :=
  let half := phase % 2147483648
  let k := if half ≤ 1073741824 then half else 2147483648 - half
  let m : Int := (sineQuarter k * 8388607 + 2 ^ 127) / 2 ^ 128
  if phase < 2147483648 then m else -m

/-- The phase increment round(f × 2^32 / 48000) of a frequency (R111). -/
def phaseIncrement (f : Nat) : Nat := (f * 8589934592 + 48000) / 96000

/-! ### The message check -/

/-- One bit of the 16-bit CRC with polynomial x^16 + x^12 + x^5 + 1 (R180). -/
def crcBit (c : BitVec 16) : BitVec 16 :=
  if c.msb then (c <<< 1) ^^^ 0x1021#16 else c <<< 1

/-- One byte, most significant bit first (R180). -/
def crcByte (c : BitVec 16) (b : Byte) : BitVec 16 :=
  let x := c ^^^ (b.zeroExtend 16 <<< 8)
  crcBit (crcBit (crcBit (crcBit (crcBit (crcBit (crcBit (crcBit x)))))))

/-- The check of a list of bytes: initial value all ones, no final inversion (R180). -/
def crc16 (bs : List Byte) : BitVec 16 := bs.foldl crcByte 0xFFFF#16

end Sys2Proof.Machine
end

