-- ==== Sys2Proof/Machine/Operands.lean ====
section
/-! DEFINITION. Operands: the byte forms of values and names (chapter 12), access to the blocks' records,
and the loaded tables as their owners read them, poisoned entries included (Table 10.2). -/

namespace Sys2Proof.Machine

/-! ### Bytes -/

/-- A value as one byte. -/
def byte1 (n : Nat) : List Byte := [BitVec.ofNat 8 n]

/-- A value as two bytes, most significant first (R179). -/
def byte2 (n : Nat) : List Byte := [BitVec.ofNat 8 (n / 256), BitVec.ofNat 8 n]

/-- A value as four bytes, most significant first (R179). -/
def byte4 (n : Nat) : List Byte := byte2 (n / 65536) ++ byte2 (n % 65536)

/-- A signed value as two bytes in two's complement (R179). -/
def byteS2 (x : Int) : List Byte := byte2 (x % 65536).toNat

/-- A 24-bit sample as three bytes (Table 12.1, R179). -/
def byteS3 (x : Sample) : List Byte :=
  let n := (x % 16777216).toNat
  BitVec.ofNat 8 (n / 65536) :: byte2 (n % 65536)

/-- The value of bytes, most significant first (R179). -/
def valueOf (bs : List Byte) : Nat := bs.foldl (fun n b => n * 256 + b.toNat) 0

/-- The value of the `n` bytes from position `i`; absent bytes read 0. -/
def valueAt (bs : List Byte) (i n : Nat) : Nat :=
  valueOf ((List.range n).map fun k => bs.getD (i + k) 0)

/-- The signed value of two bytes (R179). -/
def signed16 (n : Nat) : Int := if n < 32768 then n else (n : Int) - 65536

/-- on and off are 1 and 0 (R182). -/
def codeOfBool (b : Bool) : Nat := if b then 1 else 0

/-- An absent value is sent as `absent` (R182). -/
def codeOfOption (o : Option Nat) (absent : Nat) : Nat := o.getD absent

/-! ### Names and their codes -/

/-- A zone by its number (Table 0.3). -/
def zoneOf : Nat → Option ZoneId
  | 0 => some .front
  | 1 => some .rearCabin
  | 2 => some .hpLeft
  | 3 => some .hpRight
  | 4 => some .cargo
  | 5 => some .driver
  | _ => none

/-- The number of a zone (Table 0.3). -/
def zoneCode : ZoneId → Nat
  | .front => 0
  | .rearCabin => 1
  | .hpLeft => 2
  | .hpRight => 3
  | .cargo => 4
  | .driver => 5

/-- The number of a tuner. -/
def tunerCode : TunerId → Nat
  | .a => 0
  | .b => 1

/-- The number of a seat (scope 4.5). -/
def seatCode : Seat → Nat
  | .driver => 0
  | .passenger => 1
  | .rearLeft => 2
  | .rearRight => 3

/-- A rear seat as a notice subject: 0 LEFT, 1 RIGHT (section 12.3). -/
def rearCode : RearSeat → Nat
  | .left => 0
  | .right => 1

/-- The number of a bank. -/
def bankCode : BankId → Nat
  | .a => 0
  | .b => 1

/-- The code of a band. -/
def bandCode : Band → Nat
  | .fm => 0
  | .am => 1

/-- A band by its code. -/
def bandOf : Nat → Option Band
  | 0 => some .fm
  | 1 => some .am
  | _ => none

/-- A source by its code: 0 NONE, 1 RADIO, 2 to 5 MEDIA_1 to MEDIA_4 (Table 12.4). -/
def sourceOf : Nat → Option Source
  | 0 => some .none
  | 1 => some .radio
  | 2 => some (.media 0)
  | 3 => some (.media 1)
  | 4 => some (.media 2)
  | 5 => some (.media 3)
  | _ => none

/-- The code of a source. -/
def sourceCode : Source → Nat
  | .none => 0
  | .radio => 1
  | .media k => 2 + k.val

/-- The code of a power mode (Table 12.3). -/
def modeCode : PowerMode → Nat
  | .active => 0
  | .reduced => 1
  | .dormant => 2

/-- The code of a call state (Table 12.3). -/
def callStateCode : CallState → Nat
  | .idle => 0
  | .alerting => 1
  | .active => 2
  | .held => 3

/-- The code of a zone state (Table 12.7). -/
def zoneStateCode : ZoneState → Nat
  | .off => 0
  | .silent => 1
  | .pending => 2
  | .playing => 3
  | .lost => 4

/-- The code of a tuner state (Table 12.8). -/
def tunerStateCode : TunerState → Nat
  | .idle => 0
  | .tuning => 1
  | .playing => 2
  | .checking => 3
  | .fault => 4

/-- The code of a claim; 128 is added for a provisional copy (Table 12.8). -/
def claimCode (c : Claim) : Nat :=
  (match c.who with
    | .front => 0
    | .bulletin => 1
    | .hpLeft => 2
    | .hpRight => 3
    | .watch => 4
    | .scan => 5
    | .background => 6) + (if c.prov then 128 else 0)

/-- The code of a context state (Table 12.8). -/
def contextCode : ContextState → Nat
  | .reset => 0
  | .training => 1
  | .converged => 2

/-- The code of a prompt class (chapter 12). -/
def classCode : PromptClass → Nat
  | .safety => 0
  | .ring => 1
  | .nav => 2
  | .bulletin => 3
  | .chime => 4

/-- The code of a prompt source (chapter 12). -/
def promptSourceCode : PromptSource → Nat
  | .pattern n => n
  | .navVoice => 16
  | .tuner .a => 17
  | .tuner .b => 18

/-- The code of a rear result (Table 12.7). -/
def rearResultCode : RearResult → Nat
  | .none => 0
  | .done => 1
  | .clamped => 2
  | .denied => 3
  | .sourceDenied => 4
  | .tunerBusy => 5
  | .power => 6
  | .privateCall => 7
  | .state => 8
  | .notFound => 9

/-- The code of a result (Table 12.5). -/
def resultCode : Result → Nat
  | .ok => 0
  | .clamped => 1
  | .busy => 2
  | .full => 3
  | .badTable => 4
  | .badEntry => 5
  | .badValue => 6
  | .access => 7
  | .activeBank => 8
  | .badBank => 9
  | .notFound => 10
  | .duplicate => 11
  | .tunerBusy => 12
  | .state => 13
  | .zoneRole => 14
  | .privateCall => 15
  | .power => 16
  | .callActive => 17
  | .unknownRequest => 18
  | .badLength => 19

/-- The code of a notice kind (section 12.3). -/
def noticeCode : NoticeKind → Nat
  | .modeChanged => 1
  | .bankSwapped => 2
  | .zoneLost => 3
  | .tuneDone => 4
  | .seekDone => 5
  | .scanDone => 6
  | .tunerFault => 7
  | .afSwitched => 8
  | .stationChanged => 9
  | .watchLost => 10
  | .watchRestored => 11
  | .captureReady => 12
  | .captureDone => 13
  | .callTalker => 14
  | .fault => 15
  | .promptStarted => 16
  | .promptEnded => 17
  | .promptDropped => 18
  | .rearChange => 19
  | .canceller => 20

/-- The code of a fault kind, its place in Table 10.3. -/
def faultCode : FaultKind → Nat
  | .uncorrectable => 0
  | .corrected => 1
  | .laneCheck => 2
  | .ringLoss => 3
  | .rearLink => 4
  | .tuner => 5
  | .slip => 6

/-- The code of a fault reporting level (Table 12.4). -/
def levelCode : FaultLevel → Nat
  | .off => 0
  | .memory => 1
  | .standard => 2
  | .full => 3

/-- The code of a start cause (section 12.3). -/
def startCauseCode : StartCause → Nat
  | .powerOn => 0
  | .ringReset => 1
  | .wake => 2
  | .ringLoss => 3

/-- The code of a side (Table 12.8). -/
def sideCode : Side → Nat
  | .l => 0
  | .r => 1
  | .mid => 2

/-- A side by its code. -/
def sideOf : Nat → Option Side
  | 0 => some .l
  | 1 => some .r
  | 2 => some .mid
  | _ => none

/-- A flag by its code, 0 or 1 (R182). -/
def boolOf : Nat → Option Bool
  | 0 => some false
  | 1 => some true
  | _ => none

/-! ### Zone sets -/

/-- The empty set of zones. -/
def ZoneSet.empty : ZoneSet := .of fun _ => false

/-- The set of one zone. -/
def ZoneSet.single (z : ZoneId) : ZoneSet := .of fun w => w == z

/-- Whether a set of zones is empty. -/
def ZoneSet.isEmpty (s : ZoneSet) : Bool := s == ZoneSet.empty

/-- A zone set from its byte: bit n for zone n, bits 6 and 7 zero (R179). -/
def zoneSetOf (n : Nat) : Option ZoneSet :=
  if n < 64 then some (.of fun z => n.testBit (zoneCode z)) else none

/-- The byte of a zone set (R179). -/
def zoneSetCode (s : ZoneSet) : Nat :=
  (ZoneId.all.map fun z => if s.get z then 2 ^ zoneCode z else 0).sum

/-! ### The blocks' records -/

/-- Zone `z`'s runtime record. -/
def Part.zone (p : Part) (z : ZoneId) : Zone := p.zmx.zones.get z

/-- The part with zone `z`'s runtime record replaced. -/
def Part.setZone (p : Part) (z : ZoneId) (r : Zone) : Part :=
  { p with zmx := { p.zmx with zones := p.zmx.zones.set z r } }

/-- Tuner `t`'s record. -/
def Part.tuner (p : Part) (t : TunerId) : Tuner := p.tuc.tuners.get t

/-- The part with tuner `t`'s record replaced. -/
def Part.setTuner (p : Part) (t : TunerId) (r : Tuner) : Part :=
  { p with tuc := { p.tuc with tuners := p.tuc.tuners.set t r } }

/-- Tuner `t`'s frequency following. -/
def Part.follow (p : Part) (t : TunerId) : Follow := p.stm.follow.get t

/-- The part with tuner `t`'s frequency following replaced. -/
def Part.setFollow (p : Part) (t : TunerId) (f : Follow) : Part :=
  { p with stm := { p.stm with follow := p.stm.follow.set t f } }

/-- Seat `k`'s meter and context. -/
def Part.seat (p : Part) (k : Seat) : SeatRt := p.clp.seats.get k

/-- The part with seat `k`'s meter and context replaced. -/
def Part.setSeat (p : Part) (k : Seat) (r : SeatRt) : Part :=
  { p with clp := { p.clp with seats := p.clp.seats.set k r } }

/-- The entries of a render bank. -/
def Part.bank (p : Part) : BankId → List RenderEntry
  | .a => p.tst.renderA
  | .b => p.tst.renderB

/-- The part with the entries of a render bank replaced. -/
def Part.setBank (p : Part) (k : BankId) (es : List RenderEntry) : Part :=
  match k with
  | .a => { p with tst := { p.tst with renderA := es } }
  | .b => { p with tst := { p.tst with renderB := es } }

/-- The station entry at an index, if there is one. -/
def Part.station (p : Part) (i : Nat) : Option Station := (p.tst.stations.getD i {}).entry

/-- The part with the station index `i` changed by `f`. -/
def Part.updStation (p : Part) (i : Nat) (f : StationSlot → StationSlot) : Part :=
  { p with tst := { p.tst with stations := updAt p.tst.stations i f } }

/-- The power mode is ACTIVE. -/
def Part.isActive (p : Part) : Bool := p.pwc.mode == .active

/-! ### Table ids (Table 9.3) -/

abbrev tblIngress : Nat := 0
abbrev tblEgress : Nat := 1
abbrev tblSources : Nat := 2
abbrev tblZones : Nat := 3
abbrev tblCurves : Nat := 4
abbrev tblDucks : Nat := 5
abbrev tblRenderA : Nat := 6
abbrev tblRenderB : Nat := 7
abbrev tblStations : Nat := 8
abbrev tblRadio : Nat := 9
abbrev tblChimes : Nat := 10
abbrev tblSeats : Nat := 11
abbrev tblCall : Nat := 12
abbrev tblAdmission : Nat := 13
abbrev tblTuners : Nat := 14
abbrev tblZoneState : Nat := 15
abbrev tblPrompts : Nat := 16
abbrev tblCallState : Nat := 17

/-- The table id of a render bank. -/
def bankTable : BankId → Nat
  | .a => tblRenderA
  | .b => tblRenderB

/-! ### Poisoning -/

/-- Whether a guarded unit is poisoned (R169). -/
def Part.unitPoisoned (p : Part) (table entry part : Nat) : Bool :=
  p.tst.poisoned.contains ⟨table, entry, part⟩

/-- Whether any unit of an entry is poisoned (R163). -/
def Part.entryPoisoned (p : Part) (table entry : Nat) : Bool :=
  p.tst.poisoned.any fun u => u.table == table && u.entry == entry

/-- A read of a unit meets an error in it: of a free STATIONS index the in-use field alone is read (R170). -/
def Part.meets (p : Part) (u : Upset) : Bool :=
  u.unit.table != tblStations || (p.station u.unit.entry).isSome || u.inUse

/-- Whether a double-bit error that a read would meet stands in an entry and no check has met it yet. -/
def Part.poisonPending (p : Part) (table entry : Nat) : Bool :=
  p.tst.latent.any fun u => u.double && u.unit.table == table && u.unit.entry == entry && p.meets u

/-! ### The loaded tables as their owners read them -/

/-- The slot of an input channel: NONE while its entry is poisoned (R152). -/
def Part.ingressSlot (p : Part) (ch : Nat) : Option Nat :=
  if p.unitPoisoned tblIngress ch 0 then none else p.tst.ingress.getD ch none

/-- The slot of an egress entry: none is written while it is poisoned (R153). -/
def Part.egressSlot (p : Part) (i : Nat) : Option Nat :=
  if p.unitPoisoned tblEgress i 0 then none else p.tst.egress.getD i none

/-- A zone's configuration: the power-on values while its entry is poisoned (R20). -/
def Part.zoneCfg (p : Part) (z : ZoneId) : ZoneCfg :=
  if p.unitPoisoned tblZones (zoneCode z) 0 then ZoneCfg.powerOn z else p.tst.zones.get z

/-- CARGO's cargo-auto in force: as at the last render block, and on while the entry is poisoned (R20, R33). -/
def Part.cargoAuto (p : Part) : Bool :=
  if p.unitPoisoned tblZones (zoneCode .cargo) 0 then (ZoneCfg.powerOn .cargo).cargoAuto else p.zmx.cargoAuto

/-- The code of a curve at a step: 384 at every step while a field of the curve is poisoned (R30). -/
def Part.curveCode (p : Part) (headphone : Bool) (step : Nat) : Nat :=
  let i := if headphone then 1 else 0
  if p.entryPoisoned tblCurves i then mute
  else
    let c := p.tst.curves.getD i Curve.powerOn
    (c.low ++ c.high).getD step mute

/-- The code of a duck row for a zone: 384 while the row is poisoned (R34). -/
def Part.duckCode (p : Part) (row : Nat) (z : ZoneId) : Nat :=
  if p.unitPoisoned tblDucks row 0 then mute else ((p.tst.ducks.getD row (.of fun _ => 0)).get z)

/-- RADIO_CFG: the power-on values while poisoned, but for the bus addresses, which are held (R57, R97). -/
def Part.radioCfg (p : Part) : RadioCfg :=
  if p.unitPoisoned tblRadio 0 0 then { addresses := p.tst.radio.addresses } else p.tst.radio

/-- The scoring fields of RADIO_CFG. -/
def RadioCfg.scoring (c : RadioCfg) : ScoreCfg := ⟨c.blendLo, c.blendHi, c.muteHi, c.muteSlope, c.muteMax⟩

/-- The scoring fields in force for a tuner: those of its last quality report, and the power-on values while RADIO_CFG is
poisoned (R57). -/
def Part.scoring (p : Part) (t : TunerId) : ScoreCfg :=
  if p.unitPoisoned tblRadio 0 0 then {} else (p.tuner t).scoring

/-- CALL_CFG: the power-on values while poisoned (R130). -/
def Part.callCfg (p : Part) : CallCfg :=
  if p.unitPoisoned tblCall 0 0 then {} else p.tst.call

/-- A seat's configuration: the power-on values while its entry is poisoned (R140). -/
def Part.seatCfg (p : Part) (k : Seat) : SeatCfg :=
  if p.unitPoisoned tblSeats (seatCode k) 0 then SeatCfg.powerOn k else p.tst.seats.get k

/-- Whether a seat's ADMISSION entry is poisoned. -/
def Part.admissionPoisoned (p : Part) (r : RearSeat) : Bool :=
  p.unitPoisoned tblAdmission (rearCode r) 0

/-- A seat's admission flags: DENY throughout while the entry is poisoned (R119). -/
def Part.admissionFlags (p : Part) (r : RearSeat) : BitVec 8 :=
  if p.admissionPoisoned r then 0#8 else (p.tst.admission.get r).flags

/-- A bus address is held for the tuner (R55). -/
def Part.hasAddress (p : Part) (t : TunerId) : Bool := (p.radioCfg.addresses.get t).isSome

/-- The channel a tuner is tuned to: none in IDLE and in FAULT (log entry 7). -/
def Part.tunedTo (p : Part) (t : TunerId) : Option Chan :=
  match (p.tuner t).state with
  | .tuning | .playing | .checking => (p.tuner t).chan
  | .idle | .fault => none

/-- The reported quality Qs = S div 16 (R61). -/
def Tuner.qs (r : Tuner) : Nat := r.s / 16

end Sys2Proof.Machine
end

