-- ==== Sys2Proof/Machine/Flags.lean ====
section
/-! DEFINITION. Status and reporting: the notice queue, fault reports and the diagnostic record (chapter 10),
the status fields of every reply (R158), a seat's pending report (R126), and the uplink code (R148). -/

namespace Sys2Proof.Machine

/-! ### The notice queue -/

/-- Whether a notice has this kind and subject. -/
def Notice.is (n : Notice) (k : NoticeKind) (subject : Nat) : Bool := n.kind == k && n.subject == subject

/-- Updates the notice of this kind and subject in place: new value, post count raised (R167). -/
def updateNotice (k : NoticeKind) (subject : Nat) (value : Option Nat) (n : Notice) : Notice :=
  if n.is k subject then { n with value := value, count := count8 n.count } else n

/-- Posts a notice: updated in place, joined at the back, or discarded with the overflow flag set (R167). -/
def Nfu.post (n : Nfu) (k : NoticeKind) (subject : Nat) (value : Option Nat) : Nfu :=
  if n.notices.any fun m => m.is k subject then
    { n with notices := n.notices.map (updateNotice k subject value) }
  else if n.notices.length < 32 then
    { n with notices := n.notices ++ [{ kind := k, subject := subject, value := value }] }
  else { n with overflow := true }

/-- The part with a notice posted. -/
def Part.post (p : Part) (k : NoticeKind) (subject : Nat := 0) (value : Option Nat := none) : Part :=
  { p with nfu := p.nfu.post k subject value }

/-! ### Fault reports -/

/-- Whether a report of this kind is recorded at the level (Table 10.3). -/
def recordedAt (k : FaultKind) : FaultLevel → Bool
  | .off => false
  | .memory => k == .uncorrectable
  | .standard => k != .corrected
  | .full => true

/-- A fault report: counted at every level and, by level, recorded (R171, R172). -/
def Nfu.fault (n : Nfu) (k : FaultKind) (subject entry : Option Nat) (time : Nat) : Nfu :=
  let n := { n with counts := updAt n.counts (faultCode k) fun c => count16 c 1 }
  if recordedAt k n.level then
    match n.record with
    | none =>
      { n with record := some { kind := k, subject := subject, entry := entry, time := time } }.post .fault 0 none
    | some d => { n with record := some { d with later := count16 d.later 1 } }
  else n

/-- The part with a fault reported at the present ring time. -/
def Part.fault (p : Part) (k : FaultKind) (subject entry : Option Nat := none) : Part :=
  { p with nfu := p.nfu.fault k subject entry p.rif.ringTime }

/-! ### The status fields of a reply -/

/-- The two status bytes that open a reply's body, read as the reply is built (R158, Table 12.3). -/
def statusBytes (p : Part) : List Byte :=
  [BitVec.ofNat 8 (modeCode p.pwc.mode + 4 * callStateCode p.clp.state
      + 16 * codeOfBool p.rmx.crossfade.isSome + 32 * codeOfBool p.nfu.overflow),
   BitVec.ofNat 8 p.nfu.notices.length]

/-! ### Pending reports of the rear seats -/

/-- Queuing a report: its result replaces the held one if the event gives one (R126). -/
def queuedResult (held : Option RearResult) (event : Option RearResult) : Option RearResult :=
  match event, held with
  | some r, _ => some r
  | none, some r => some r
  | none, none => some .none

/-- The part with a report queued for a seat (R126). -/
def Part.queueReport (p : Part) (r : RearSeat) (event : Option RearResult) : Part :=
  { p with rlu := { p.rlu with pending := p.rlu.pending.set r (queuedResult (p.rlu.pending.get r) event) } }

/-- A seat's call membership: 0 NONE, 1 AVAILABLE, 2 JOINED (Table 7.8). -/
def membership (p : Part) (r : RearSeat) : Nat :=
  if p.clp.zones.get r.zone then 2
  else if (p.clp.state == .active || p.clp.state == .held) && !p.clp.isPrivate
      && (p.zone r.zone).state != .off then 1
  else 0

/-- What a change of queues a report for the seat (Table 7.7): its headphone zone's state, source, radio
fields, volume step and mute flag, its call membership, its ADMISSION entry, whether that entry is
poisoned, and the power mode. -/
structure RearView where
  state : ZoneState
  source : Source
  chan : Option Chan
  station : Option Nat
  code : Option Nat
  step : Nat
  mute : Bool
  membership : Nat
  admission : Admission
  poisoned : Bool
  mode : PowerMode
deriving DecidableEq, Repr

/-- A seat's view of the part (Table 7.7). -/
def reportView (p : Part) (r : RearSeat) : RearView :=
  let z := p.zone r.zone
  { state := z.state, source := z.source, chan := z.chan, station := z.station, code := z.code, step := z.step,
    mute := z.mute, membership := membership p r, admission := p.tst.admission.get r,
    poisoned := p.admissionPoisoned r, mode := p.pwc.mode }

/-- Queues a report, with no result, for each seat whose view has changed since `before`
(R39, R120, R126, R138). -/
def noteReports (before p : Part) : Part :=
  let p := if reportView before .left = reportView p .left then p else p.queueReport .left none
  if reportView before .right = reportView p .right then p else p.queueReport .right none

/-! ### The uplink code -/

/-- The seat the uplink carries: the talker, or the last talker while the talker is absent (R148). -/
def Part.carried (p : Part) : Seat := p.clp.talker.getD p.clp.lastTalker

/-- The suppression of a context (R148). -/
def suppression : ContextState → Nat
  | .training => 48
  | .converged => 0
  | .reset => 384

/-- The uplink code (R148). -/
def uplinkOf (p : Part) : Nat :=
  if p.clp.state == .active && p.clp.admitted.get p.carried then
    codeSum [p.callCfg.uplinkBase, suppression (p.seat p.carried).context,
      if p.clp.talker.isNone then p.callCfg.gateAtt else 0]
  else 384

/-- The uplink code computed anew (R148). -/
def recodeUplink (p : Part) : Part := { p with clp := { p.clp with uplinkCode := uplinkOf p } }

end Sys2Proof.Machine
end

