-- ==== Sys2Proof/Machine/Claims.lean ====
section
/-! DEFINITION. The Tuner Controller's shared operations: the command link (R55, R56), the start of a tune
(R58), the flush of an adapter (R64), claim lists and attachments (R67, R70, R75). -/

namespace Sys2Proof.Machine

/-! ### The command link -/

/-- When the link is free, the pending command issued earliest starts (R55). -/
def startLink (c : Tuc) : Tuc :=
  match c.link, c.queue with
  | none, x :: rest => { c with link := some x, queue := rest }
  | _, _ => c

/-- Issues a command for a tuner: none without a bus address or in FAULT; during a retry wait it becomes
the command to resend; otherwise it replaces the tuner's pending command (R54 to R56). -/
def issue (t : TunerId) (cmd : LinkCmd) (p : Part) : Part :=
  if !p.hasAddress t || (p.tuner t).state == .fault then p
  else if (p.tuner t).retry.isSome then p.setTuner t { p.tuner t with retry := some cmd }
  else
    let c := { p.tuc with queue := p.tuc.queue.filter (fun x => x.1 != t) ++ [(t, cmd)] }
    { p with tuc := startLink c }

/-! ### Tunes -/

/-- A flush: the FIFO emptied, phase 0, not primed, last pair 0; T kept (R64). -/
def flush (a : Adapter) : Adapter := { trim := a.trim }

/-- The tuner record at a tune start (R58). -/
def tunedRecord (c : Chan) (note : Option ZoneId) (checking : Bool) (r : Tuner) : Tuner :=
  { r with chan := some c, s := 800, q := 0, sep := 0, softMute := 0, pilot := false, heard := none,
           adapter := flush r.adapter, settle := false, acked := false, done := false, note := note,
           state := if checking then .checking else .tuning }

/-- A tune start: the record is set, the label assembly emptied, a TUNE command issued (R58). -/
def tuneStart (t : TunerId) (c : Chan) (note : Option ZoneId) (checking : Bool) (p : Part) : Part :=
  let p := p.setTuner t (tunedRecord c note checking (p.tuner t))
  let p := { p with stm := { p.stm with labels := p.stm.labels.set t (List.replicate 4 none) } }
  issue t (.tune c) p

/-! ### Stations and frequencies -/

/-- Whether a station's list holds a channel. -/
def Station.holds (e : Station) (c : Chan) : Bool :=
  e.band == c.band && e.items.any fun i => i.freq == c.freq

/-- The index of the entry whose list holds a channel. -/
def Part.holderOf (p : Part) (c : Chan) : Option Nat :=
  p.tst.stations.findIdx? fun s => match s.entry with
    | some e => e.holds c
    | none => false

/-! ### Claims -/

/-- The strength of a claim kind, 1 the strongest (Table 4.5). -/
def strength : Claimant → Nat
  | .front => 1
  | .bulletin => 2
  | .hpLeft | .hpRight => 3
  | .watch => 4
  | .scan => 5
  | .background => 6

/-- LISTEN-FRONT and LISTEN-HP are the listening claims (R67). -/
def Claimant.listens : Claimant → Bool
  | .front | .hpLeft | .hpRight => true
  | _ => false

/-- The claimant of a zone that listens for itself. -/
def claimantOf : ZoneId → Option Claimant
  | .front => some .front
  | .hpLeft => some .hpLeft
  | .hpRight => some .hpRight
  | _ => none

/-- The zone of a listening claimant. -/
def Claimant.zone? : Claimant → Option ZoneId
  | .front => some .front
  | .hpLeft => some .hpLeft
  | .hpRight => some .hpRight
  | _ => none

/-- The claimants strongest first, the LISTEN-HP ones in grant order, oldest first (R67). -/
def claimOrder (grants : List ZoneId) : List Claimant :=
  let hp := grants.filterMap claimantOf
  [.front, .bulletin] ++ hp ++ ([.hpLeft, .hpRight].filter fun w => !hp.contains w)
    ++ [.watch, .scan, .background]

/-- A claim list in its order (R67). -/
def sortClaims (grants : List ZoneId) (cs : List Claim) : List Claim :=
  (claimOrder grants).flatMap fun w => cs.filter fun c => c.who == w

/-- Whether a tuner's claim list holds a claim of a claimant. -/
def Tuner.claimedBy (r : Tuner) (w : Claimant) : Bool := r.claims.any fun c => c.who == w

/-- Whether a tuner's claim list holds a listening claim. -/
def Tuner.listened (r : Tuner) : Bool := r.claims.any fun c => c.who.listens

/-- Whether a claim holds a tuner PLAYING on its own account. DESIGN CHOICE (log entry 47): a provisional copy counts
for the arbiter alone, and not where the Station Manager asks for a tuner's listening claims (R85, R88, R92). -/
def Claim.own (c : Claim) : Bool := !c.prov

/-- Whether a tuner holds a listening claim that is no provisional copy. -/
def Tuner.listening (r : Tuner) : Bool := r.claims.any fun c => c.who.listens && c.own

/-- The tuner on which a claimant's own claim stands; a provisional copy is not one (R89). -/
def Part.holding (p : Part) (w : Claimant) : Option TunerId :=
  TunerId.all.find? fun t => (p.tuner t).claims.any fun c => c.who == w && !c.prov

/-- The part with a tuner's claim list replaced, in its order. -/
def setClaims (t : TunerId) (cs : List Claim) (p : Part) : Part :=
  p.setTuner t { p.tuner t with claims := sortClaims p.tuc.grants cs }

/-- Frequency following of a tuner back in MONITOR, its timer stopped; the last check start stays. DESIGN CHOICE (log
entry 4): a check that ends here before its average is due stores none (R91). -/
def Follow.ended (f : Follow) : Follow := { lastCheck := f.lastCheck }

/-- The withdrawal of a tuner's last claim: IDLE, the settle timer stopped, the adapter flushed, the tune,
the seek and the check ended, STANDBY issued (R70, R91). -/
def idleTuner (t : TunerId) (p : Part) : Part :=
  let r := p.tuner t
  let p := p.setTuner t { r with state := .idle, settle := false, adapter := flush r.adapter,
                                 acked := false, done := false, note := none, seek := none }
  issue t .standby (p.setFollow t (p.follow t).ended)

/-- A tuner left without claims goes IDLE; one in FAULT stays there (R70). -/
def idleIfFree (t : TunerId) (p : Part) : Part :=
  if (p.tuner t).claims.isEmpty && (p.tuner t).state != .idle && (p.tuner t).state != .fault then idleTuner t p
  else p

/-- Detaches a zone from its tuners; FRONT's followers, while they follow, with it (R70, R28). -/
def detach (z : ZoneId) (p : Part) : Part :=
  let clear (q : Part) (w : ZoneId) : Part := q.setZone w { q.zone w with att := none, att2 := none, held := none }
  let p := clear p z
  if z == .front then
    [ZoneId.rearCabin, ZoneId.cargo].foldl (fun q w => if (q.zone w).state == .off then q else clear q w) p
  else p

/-- Attaches a zone to a tuner; FRONT's followers take it from FRONT at their render block (R75, R28). -/
def attach (z : ZoneId) (t : TunerId) (t2 : Option TunerId) (p : Part) : Part :=
  p.setZone z { p.zone z with att := some t, att2 := t2, held := none }

/-- Takes a claimant's claims, provisional copies with them, off a tuner's list; a seek and a tune's note
for the claimant's zone go with them. -/
def dropClaim (w : Claimant) (t : TunerId) (p : Part) : Part :=
  let r := p.tuner t
  p.setTuner t { r with
    claims := r.claims.filter fun c => c.who != w
    note := if r.note.bind claimantOf == some w then none else r.note
    seek := match r.seek with
      | some k => if claimantOf k.zone == some w then none else some k
      | none => none }

/-- A claim that no zone listens by is given up: it leaves the lists, and a tuner left without claims goes
IDLE (R70). -/
def giveUp (w : Claimant) (p : Part) : Part := idleIfFree .b (idleIfFree .a (dropClaim w .b (dropClaim w .a p)))

end Sys2Proof.Machine
end

