-- ==== Sys2Proof/Machine/Memory.lean ====
section
/-! DEFINITION. The Table Store's protection of table memory: checks of guarded units, poisoning and its
clearing, the scrubber (R169, R170), and what the Station Manager does with a poisoned entry (R84). -/

namespace Sys2Proof.Machine

/-! ### Changed marks and the removal of a station entry -/

/-- Sets an index's changed mark; STATION_CHANGED is posted when it changes from clear to set (R79). -/
def setMark (i : Nat) (p : Part) : Part :=
  if (p.tst.stations.getD i {}).mark then p
  else (p.updStation i fun s => { s with mark := true }).post .stationChanged

/-- Every zone whose station index names `i` has it absent; its channel and code stay (R78). -/
def unnameStation (i : Nat) (p : Part) : Part :=
  ZoneId.all.foldl (fun q z => if (q.zone z).station == some i then
    q.setZone z { q.zone z with station := none } else q) p

/-- The poisoning and the standing memory errors of an entry cleared: its units are written anew (R169). -/
def cleanEntry (table entry : Nat) (p : Part) : Part :=
  { p with tst := { p.tst with
      poisoned := p.tst.poisoned.filter fun u => !(u.table == table && u.entry == entry)
      latent := p.tst.latent.filter fun u => !(u.unit.table == table && u.unit.entry == entry) } }

/-- The same for one unit of an entry. -/
def cleanUnit (u : MemUnit) (p : Part) : Part :=
  { p with tst := { p.tst with poisoned := p.tst.poisoned.filter (· != u)
                               latent := p.tst.latent.filter fun x => x.unit != u } }

/-- The same for every entry of a table (R165). -/
def cleanTable (table : Nat) (p : Part) : Part :=
  { p with tst := { p.tst with poisoned := p.tst.poisoned.filter fun u => u.table != table
                               latent := p.tst.latent.filter fun u => u.unit.table != table } }

/-- The Station Manager removes an entry: the index is left free and unpoisoned with its mark set, and no
zone names it (R78, R79, R84). -/
def removeStation (i : Nat) (p : Part) : Part :=
  let p := p.updStation i fun s => { s with entry := none }
  unnameStation i (setMark i (cleanEntry tblStations i p))

/-- Whether a zone holds a listening claim. -/
def Part.listening (p : Part) (z : ZoneId) : Bool :=
  match claimantOf z with
  | some w => (p.holding w).isSome
  | none => false

/-- Whether a zone references a station index: it holds a listening claim, and its index is that (R78). -/
def Part.refersTo (p : Part) (z : ZoneId) (i : Nat) : Bool := p.listening z && (p.zone z).station == some i

/-- The zone with a listening claim that references a station index, if any (R78). -/
def Part.listenerOf (p : Part) (i : Nat) : Option ZoneId :=
  [ZoneId.front, .hpLeft, .hpRight].find? fun z => p.refersTo z i

/-- The watch station set to none; its WATCH claim is given up (R83, R92). -/
def clearWatch (p : Part) : Part :=
  giveUp .watch { p with stm := { p.stm with watch := none, watchState := .inactive } }

/-- The entry rebuilt from the tuner that serves its referencer (R84). -/
def rebuiltStation (code : Nat) (c : Chan) : Station :=
  { code := code, band := c.band, items := [{ freq := c.freq }], learned := true }

/-- The entry at an index rebuilt from the tuner that serves its referencer: with the code heard or, with none
heard, the one given (R84). DESIGN CHOICE (log entry 52): it is removed where neither gives a code, and it is stored
without a look at the other entries, one of which may hold the same code or frequency. -/
def rebuildStation (i : Nat) (t : Option TunerId) (zoneCode : Option Nat) (p : Part) : Part :=
  match t.bind fun t => (p.tuner t).chan, (t.bind fun t => (p.tuner t).heard).or zoneCode with
  | some c, some k =>
    let q := p.updStation i fun s => { s with entry := some (rebuiltStation k c) }
    setMark i (cleanEntry tblStations i q)
  | _, _ => removeStation i p

/-- A poisoned STATIONS entry: rebuilt if a listening zone or the bulletin record references it, removed
otherwise, the watch station with it (R84). DESIGN CHOICE (log entry 76): of several referencers it is rebuilt for the
first of FRONT, HP_LEFT, HP_RIGHT and the bulletin record, and (log entry 95) a removal posts STATION_CHANGED before
WATCH_LOST. -/
def stationPoisoned (i : Nat) (p : Part) : Part :=
  match p.listenerOf i with
  | some z => rebuildStation i (claimantOf z |>.bind p.holding) (p.zone z).code p
  | none =>
    if p.stm.bulletin.latch == .prompted && p.stm.bulletin.station == some i then
      rebuildStation i (some p.stm.bulletin.tuner) none p
    else
      let q := removeStation i p
      if q.stm.watch == some i then
        let q := if q.stm.watchState == .covered then q.post .watchLost else q
        clearWatch q
      else q

/-! ### Checks -/

/-- The check of a guarded unit as it is read: a single-bit error is corrected and reported; a double-bit
error poisons the unit, the owner is told by `tell`, and the error is reported; a unit already poisoned is not
reported again. An error that the read does not meet stays (R169, R170). -/
def checkWith (tell : Part → Part) (u : MemUnit) (p : Part) : Part :=
  match p.tst.latent.find? fun x => x.unit == u && p.meets x with
  | none => p
  | some x =>
    let p := { p with tst := { p.tst with latent := p.tst.latent.filter fun y => y.unit != u } }
    if p.tst.poisoned.contains u then p
    else if x.double then
      let p := { p with tst := { p.tst with poisoned := p.tst.poisoned ++ [u] } }
      (tell p).fault .uncorrectable (some u.table) (some u.entry)
    else p.fault .corrected (some u.table) (some u.entry)

/-- The owner of a unit found poisoned is told at once: the Station Manager acts on its entry (R84), the Call
Processor makes the uplink code anew (R148), and the other owners read the poisoning (Table 10.2). -/
def tellOwner (u : MemUnit) (p : Part) : Part :=
  if u.table == tblStations then stationPoisoned u.entry p
  else if u.table == tblCall then recodeUplink p
  else p

/-- The check of a guarded unit as it is read (R169). -/
def checkUnit (u : MemUnit) (p : Part) : Part := checkWith (tellOwner u) u p

/-- The check of a STATIONS entry as the Station Manager reads it (R84, R169). -/
def checkStation (i : Nat) (p : Part) : Part := checkWith (stationPoisoned i) ⟨tblStations, i, 0⟩ p

/-- The check of a unit of a table whose owner takes the poisoning up as it next reads the entry (Table 10.2). -/
def checkPlain (u : MemUnit) (p : Part) : Part := checkWith (fun q => q) u p

/-- The parts of an entry of a table: a CURVES entry by field, a render entry as its head and its four
contributions, any other entry whole (section 10.2). -/
def partsOf (table : Nat) : List Nat :=
  if table == tblCurves then [0, 1]
  else if table == tblRenderA || table == tblRenderB then [0, 1, 2, 3, 4]
  else [0]

/-- The check of every guarded unit of an entry, its units in their order (log entry 81). -/
def checkEntry (table entry : Nat) (p : Part) : Part :=
  (partsOf table).foldl (fun q k => checkUnit ⟨table, entry, k⟩ q) p

/-- The checks of the units in which the standing errors that `read` picks lie. DESIGN CHOICE (log entry 81): they are
made, and the errors met are reported, in the order in which these came about. -/
def checkUpsets (read : Upset → Bool) (p : Part) : Part :=
  (p.tst.latent.filter read).foldl (fun q u => checkUnit u.unit q) p

/-- The checks an owner's read of whole tables makes: of each unit of them in which an error stands (R169). -/
def ownerReads (tables : List Nat) : Part → Part := checkUpsets fun u => tables.contains u.unit.table

/-- The checks of a read of every entry of a table but one (R169). -/
def readOthers (table i : Nat) : Part → Part := checkUpsets fun u => u.unit.table == table && u.unit.entry != i

/-- The checks of a read of a whole table that has only single-bit errors corrected: an uncorrectable one makes its
entry unreadable to the read and waits for its check (R84, R169). -/
def correctReads (table : Nat) : Part → Part := checkUpsets fun u => u.unit.table == table && !u.double

/-- A memory error comes about in a unit; a second one in the same unit makes a double-bit error. -/
def addUpset (s : Store) (u : Upset) : Store :=
  if s.latent.any fun x => x.unit == u.unit then
    { s with latent := s.latent.map fun x => if x.unit == u.unit then
      { x with double := true, inUse := x.inUse || u.inUse } else x }
  else { s with latent := s.latent ++ [u] }

/-! ### The scrubber -/

/-- The entries of the 14 loaded tables in directory order (Table 9.3). -/
def tableSizes : List Nat := [24, 33, 6, 6, 2, 7, 32, 32, 48, 1, 16, 4, 1, 2]

/-- The table and index of the nth entry of a pass (R170). -/
def scrubTarget : List Nat → Nat → Nat → Option (Nat × Nat)
  | [], _, _ => none
  | n :: rest, table, pos => if pos < n then some (table, pos) else scrubTarget rest (table + 1) (pos - n)

/-- One visit of the scrubber: the entry at its position is checked and the position moves on; after the
last entry the pass ends (R170). -/
def scrubStep (p : Part) : Part :=
  match scrubTarget tableSizes 0 p.tst.scrubPos with
  | none => { p with tst := { p.tst with scrubbing := false, scrubPos := 0 } }
  | some (table, entry) =>
    let p := checkEntry table entry p
    if p.tst.scrubPos + 1 < 214 then { p with tst := { p.tst with scrubPos := p.tst.scrubPos + 1 } }
    else { p with tst := { p.tst with scrubbing := false, scrubPos := 0 } }

/-- Render blocks are taken once the part has joined the ring, but not in DORMANT (R175, R178). -/
def Part.running (p : Part) : Bool := p.rif.joined && p.pwc.mode != .dormant

/-- SCRUB_PASS_START: a pass begins at the first entry of INGRESS (R170). -/
def scrubPassStart (p : Part) : Part :=
  if p.running then { p with tst := { p.tst with scrubbing := true, scrubPos := 0 } } else p

/-- SCRUB_VISIT: the errors that have come about stand in their units; during a pass the scrubber visits
one entry (R169, R170). -/
def scrubVisit (upsets : List Upset) (p : Part) : Part :=
  let p := { p with tst := upsets.foldl addUpset p.tst }
  if p.running && p.tst.scrubbing then scrubStep p else p

end Sys2Proof.Machine
end

