-- ==== Sys2Proof/Machine/Arbiter.lean ====
section
/-! DEFINITION. The Tuner Controller's decisions over claims: the abandonment of a frequency-following switch (R89,
R90), withdrawal, displacement and the allocation arbiter (R67 to R70), entry to FAULT and to REDUCED. -/

namespace Sys2Proof.Machine

/-! ### Reading and storing the list item of a frequency -/

/-- The entry that holds a channel, if one does, is checked as it is read (R169). -/
def readHolder (c : Chan) (p : Part) : Part :=
  match p.holderOf c with
  | some i => checkStation i p
  | none => p

/-- Stores a last quality and the present ring time into the item of a channel, if an entry holds it (R85). -/
def storeQuality (c : Chan) (q : Nat) (p : Part) : Part :=
  let p := readHolder c p
  match p.holderOf c with
  | none => p
  | some i =>
    p.updStation i fun s => { s with entry := s.entry.map fun e =>
      { e with items := e.items.map fun it =>
          if it.freq == c.freq then { it with quality := some q, heard := some p.rif.ringTime } else it } }

/-- Sets a zone's station index to the entry that holds the channel, or absent, and its programme code from
that entry (R71). -/
def nameStation (z : ZoneId) (c : Chan) (p : Part) : Part :=
  let p := readHolder c p
  let i := p.holderOf c
  p.setZone z { p.zone z with station := i, code := (i.bind p.station).map (·.code) }

/-! ### Frequency-following switches, as claims see them -/

/-- Whether a tuner is the weak tuner of a seamless switch (R89, R90). -/
def Part.switching (p : Part) (t : TunerId) : Bool :=
  (p.follow t).state == .switchVerify || (p.follow t).state == .switchFade

/-- The crossfade of a switch ends: every zone is attached to one tuner alone, but for a follower in OFF, whose
record stays as it is (R28, R90). -/
def leaveFade (p : Part) : Part :=
  ZoneId.all.foldl (fun q z => if z.follows && (q.zone z).state == .off then q
    else q.setZone z { q.zone z with att2 := none }) p

/-- The abandonment of tuner `t`'s switch: the crossfade ends, the zones hear the weak tuner alone, the
candidate's quality is stored, the provisional claims are withdrawn, the candidate tuner goes IDLE if
free, and the weak tuner is back in MONITOR with its timer restarted (R89, R90). -/
def abandonSwitch (t : TunerId) (p : Part) : Part :=
  if p.switching t then
    let u := t.other
    let p := match (p.tuner u).chan with
      | some c => storeQuality c (p.tuner u).qs p
      | none => p
    let p := leaveFade p
    let p := p.setFollow t { (p.follow t).ended with lowTimer := true }
    let p := p.setTuner u { p.tuner u with claims := (p.tuner u).claims.filter fun c => !c.prov }
    idleIfFree u p
  else p

/-- Abandons any switch that tuner `t` takes part in, as the weak or as the candidate tuner. -/
def abandonSwitches (t : TunerId) (p : Part) : Part := abandonSwitch t.other (abandonSwitch t p)

/-! ### Withdrawal -/

/-- The withdrawal of a claimant's claim: its zone is detached and leaves the grant order, a switch left
without listeners is abandoned, and a tuner left without claims goes IDLE (R67, R70, R90). -/
def withdraw (w : Claimant) (p : Part) : Part :=
  let p := dropClaim w .b (dropClaim w .a p)
  let p := match w.zone? with
    | some z => detach z { p with tuc := { p.tuc with grants := p.tuc.grants.erase z } }
    | none => p
  let free (q : Part) (t : TunerId) : Part := if (q.tuner t).listened then q else abandonSwitch t q
  let p := free (free p .a) .b
  idleIfFree .b (idleIfFree .a p)

/-- The withdrawal of a zone's listening claim, if it can have one. -/
def withdrawZone (z : ZoneId) (p : Part) : Part :=
  match claimantOf z with
  | some w => withdraw w p
  | none => p

/-- A scan ends: SCAN_DONE with the found count and the aborted flag (R87, section 12.3). -/
def endScan (aborted : Bool) (p : Part) : Part :=
  match p.stm.scan with
  | none => p
  | some s =>
    { p with stm := { p.stm with scan := none } }.post .scanDone (bandCode s.band)
      (some (256 * codeOfBool aborted + s.found))

/-- What the owner of a displaced claim does (R69). The background cycle keeps its position. -/
def displaceOwner (w : Claimant) (p : Part) : Part :=
  match w with
  | .hpLeft => detach .hpLeft (p.queueReport .left (some .tunerBusy))
  | .hpRight => detach .hpRight (p.queueReport .right (some .tunerBusy))
  | .front => detach .front p
  | .watch =>
    { p with stm := { p.stm with watchState := .uncovered } }.post .watchLost
  | .scan => endScan true p
  | .bulletin | .background => p

/-- The displacement of every claim on a tuner, strongest first, before the claimant's tune starts; a
switch and a check of the tuner end first (R69, R90, R91). -/
def displaceAll (t : TunerId) (p : Part) : Part :=
  let p := abandonSwitches t p
  let cs := (p.tuner t).claims
  let p := p.setTuner t { p.tuner t with claims := [], note := none, seek := none }
  let p := { p with tuc := { p.tuc with
      grants := p.tuc.grants.filter fun z => !cs.any fun c => c.who.zone? == some z } }
  let p := p.setFollow t (p.follow t).ended
  cs.foldl (fun q c => displaceOwner c.who q) p

/-! ### The arbiter -/

/-- A tuner serves a channel: PLAYING there with a listening, BULLETIN or WATCH claim, and not the
candidate tuner of a switch in SWITCH_VERIFY (R67, R89). -/
def Part.serves (p : Part) (t : TunerId) (c : Chan) : Bool :=
  let r := p.tuner t
  r.state == .playing && r.chan == some c
    && r.claims.any (fun k => k.who.listens || k.who == .bulletin || k.who == .watch)
    && (p.follow t.other).state != .switchVerify

/-- IDLE with a bus address (R68). -/
def Part.idleFree (p : Part) (t : TunerId) : Bool := (p.tuner t).state == .idle && p.hasAddress t

/-- A tuner, not in FAULT, holding only WATCH, SCAN or BACKGROUND claims weaker than the claimant's (R68). -/
def Part.weakerOnly (p : Part) (t : TunerId) (w : Claimant) : Bool :=
  let r := p.tuner t
  !r.claims.isEmpty && r.state != .fault
    && r.claims.all fun c => 4 ≤ strength c.who && strength w < strength c.who

/-- The strength of a tuner's strongest claim; 7 with none. -/
def Tuner.strongest (r : Tuner) : Nat := (r.claims.map fun c => strength c.who).foldl min 7

/-- The tuner preemption takes for LISTEN-FRONT and BULLETIN: the one holding the most recent LISTEN-HP
claim, with no BULLETIN and no LISTEN-FRONT, not in FAULT and not excluded (R68). -/
def Part.preemptable (p : Part) (w : Claimant) (excluded : Option TunerId) : Option TunerId :=
  if w == .front || w == .bulletin then
    match (p.tuc.grants.getLast?.bind claimantOf).bind p.holding with
    | some t =>
      let r := p.tuner t
      if !r.claimedBy .bulletin && !r.claimedBy .front && r.state != .fault && excluded != some t then some t
      else none
    | none => none
  else none

/-- The arbiter's decision: the tuner, and whether the claim shares it; none when it is refused. The four
ways are tried in order on the claims that stand; every request is refused outside ACTIVE (R68). -/
def Part.arbitrate (p : Part) (w : Claimant) (c : Chan) (excluded : Option TunerId) (mayShare : Bool) :
    Option (TunerId × Bool) :=
  if !p.isActive then none
  else if mayShare && p.serves .a c then some (.a, true)
  else if mayShare && p.serves .b c then some (.b, true)
  else if p.idleFree .a then some (.a, false)
  else if p.idleFree .b then some (.b, false)
  else if p.weakerOnly .a w
      && (!p.weakerOnly .b w || (p.tuner .b).strongest ≤ (p.tuner .a).strongest) then some (.a, false)
  else if p.weakerOnly .b w then some (.b, false)
  else (p.preemptable w excluded).map fun t => (t, false)

/-- A claim joins a tuner's list; a listening claim sharing the weak tuner of a switch gets its provisional
copy on the candidate tuner (R89). -/
def addClaim (w : Claimant) (t : TunerId) (p : Part) : Part :=
  let p := match w.zone? with
    | some z => if z == .front then p else { p with tuc := { p.tuc with grants := p.tuc.grants.erase z ++ [z] } }
    | none => p
  let p := setClaims t (⟨w, false⟩ :: (p.tuner t).claims) p
  if w.listens && p.switching t then setClaims t.other (⟨w, true⟩ :: (p.tuner t.other).claims) p else p

/-- Grants a claim as decided: on a taken tuner the standing claims are displaced and a tune starts, noted
for the zone of a listening claim; the zone is attached (R58, R68, R75). -/
def grant (w : Claimant) (c : Chan) (t : TunerId) (shared : Bool) (p : Part) : Part :=
  let p := if shared then p else displaceAll t p
  let p := addClaim w t p
  let p := match w.zone? with
    | some z => attach z t (if (p.follow t).state == .switchFade then some t.other else none) p
    | none => p
  if shared then p else tuneStart t c w.zone? false p

/-- A zone's listening claim as decided: the old claim is withdrawn, the new one stands, and the zone's
channel and station are set (R70 to R72). -/
def grantZone (z : ZoneId) (c : Chan) (t : TunerId) (shared : Bool) (p : Part) : Part :=
  match claimantOf z with
  | none => p
  | some w =>
    let p := grant w c t shared (withdraw w p)
    nameStation z c (p.setZone z { p.zone z with chan := some c })

/-! ### Entry of a tuner to FAULT, and of the part to REDUCED -/

/-- Detaches the zone of a listening claimant. -/
def detachClaimant (w : Claimant) (p : Part) : Part :=
  match w.zone? with
  | some z => detach z p
  | none => p

/-- A tuner's claims, all of them, withdrawn without the owners' displacement notices: the zones are
detached, a running scan of the tuner is left to the caller. -/
def releaseAll (t : TunerId) (p : Part) : Part :=
  let cs := (p.tuner t).claims
  let p := p.setTuner t { p.tuner t with claims := [], note := none, seek := none }
  let p := { p with tuc := { p.tuc with
      grants := p.tuc.grants.filter fun z => !cs.any fun c => c.who.zone? == some z } }
  cs.foldl (fun q c => detachClaimant c.who q) p

/-- The Tuner Controller's part of a tuner's entry to FAULT (R56): switches end first, the pending command
is discarded, the adapter flushed, the claims withdrawn, TUNER_FAULT posted, the fault reported. A scan
on the tuner ends without SCAN_DONE. -/
def enterFault (t : TunerId) (p : Part) : Part :=
  let p := releaseAll t (abandonSwitches t p)
  let r := p.tuner t
  let p := p.setTuner t { r with state := .fault, settle := false, adapter := flush r.adapter, retry := none,
                                 acked := false, done := false }
  let p := p.setFollow t (p.follow t).ended
  let p := { p with tuc := { p.tuc with queue := p.tuc.queue.filter fun x => x.1 != t } }
  let p := match p.stm.scan with
    | some s => if s.tuner == t then { p with stm := { p.stm with scan := none } } else p
    | none => p
  (p.post .tunerFault (tunerCode t)).fault .tuner (some (tunerCode t))

/-- The Tuner Controller and Station Manager on entry to REDUCED: switches and checks end, every claim is
withdrawn, a scan ends aborted, STANDBY goes to each tuner not in FAULT (R70, R98). -/
def releaseTuners (p : Part) : Part :=
  let p := abandonSwitch .b (abandonSwitch .a p)
  let p := releaseAll .b (releaseAll .a p)
  let stop (q : Part) (t : TunerId) : Part :=
    if (q.tuner t).state == .fault then q.setFollow t (q.follow t).ended else idleTuner t q
  endScan true (stop (stop p .a) .b)

end Sys2Proof.Machine
end

