-- ==== Sys2Proof/Machine/Prompts.lean ====
section
/-! DEFINITION. The Announcement Unit (chapter 6): tags, pushes, preemption, starts and ends of prompts, and
the chime generator's segments. -/

namespace Sys2Proof.Machine

/-! ### Tags -/

/-- Whether a tag is held by the playing record or a waiting record. -/
def Anu.tagHeld (a : Anu) (tag : Nat) : Bool :=
  a.waiting.any (fun r => r.tag == tag) || a.playing.any fun r => r.tag == tag

/-- The value after a tag counter's, wrapping from 65535 to 32768 (R100). -/
def nextTag (n : Nat) : Nat := if n = 65535 then 32768 else n + 1

/-- The first tag not in use from `n` on (R100); 13 tags at most are in use, so 14 tries find one. -/
def freeTag (a : Anu) : Nat → Nat → Nat
  | 0, n => n
  | fuel + 1, n => if a.tagHeld n then freeTag a fuel (nextTag n) else n

/-- Assigns a part tag: the tag, and the unit with its counter at the value after it (R100). -/
def assignTag (a : Anu) : Nat × Anu :=
  let n := freeTag a 14 a.tagCounter
  (n, { a with tagCounter := nextTag n })

/-! ### The chime generator's segments -/

/-- The generator stopped (R111). -/
def Chime.stopped : Chime := {}

/-- The generator at the start of a segment: the copy of its fields, phase 0, the increment of its
frequency; `played` render blocks of it have begun (R110, R111). -/
def Chime.begun (s : Segment) (played : Nat) : Chime :=
  { segment := some s, played := played, phase := 0, increment := phaseIncrement s.freq }

/-- What is to begin next at segment index `seg` of pass `pass` of a pattern: a pass and a segment index, or
none when the pattern has completed. A segment index that the pattern no longer has ends the pass. A RING
does not complete, and its pass number stays at 255 (R110). -/
def nextSegment (pat : Pattern) (ring : Bool) (pass seg : Nat) : Option (Nat × Nat) :=
  if seg < pat.count then some (pass, seg)
  else if ring then some (min 255 (pass + 1), 0)
  else if pass < pat.repeats then some (pass + 1, 0)
  else none

/-! ### Ends of prompts -/

/-- The entry of the bulletin record, if it names one, is checked as it is read (R169). -/
def readBulletin (p : Part) : Part :=
  match p.stm.bulletin.station with
  | some i => checkStation i p
  | none => p

/-- The bulletin's prompt is gone for a reason of the Announcement Unit's: the latch becomes SPENT while the
entry's bulletin-active flag is set and NONE otherwise, and the BULLETIN claim is withdrawn (R94). DESIGN CHOICE (log
entry 53): a record without a station reference gives NONE. -/
def bulletinGone (p : Part) : Part :=
  if p.stm.bulletin.latch == .prompted then
    let p := readBulletin p
    let b := p.stm.bulletin
    let active := match b.station.bind p.station with
      | some e => e.active
      | none => false
    withdraw .bulletin { p with stm := { p.stm with bulletin := { b with latch := if active then .spent else .none } } }
  else p

/-- The owner of a RING or BULLETIN record that the Announcement Unit removes is told: the Call Processor's
ring tag becomes absent, the Station Manager sets its latch (R109, R131). -/
def tellPrompt (r : Prompt) (p : Part) : Part :=
  match r.cls with
  | .ring => { p with clp := { p.clp with ringTag := none } }
  | .bulletin => bulletinGone p
  | _ => p

/-- The playing record leaves, and the generator stops. -/
def stopPlaying (p : Part) : Part :=
  { p with anu := { p.anu with playing := none, chime := Chime.stopped } }

/-- Removes the record holding a tag, playing or waiting; the records behind it close up (R107, R108). -/
def removePrompt (tag : Nat) (p : Part) : Part :=
  let p := if p.anu.playing.any fun r => r.tag == tag then stopPlaying p else p
  { p with anu := { p.anu with waiting := p.anu.waiting.filter fun r => r.tag != tag } }

/-- The record holding a tag. -/
def Anu.find (a : Anu) (tag : Nat) : Option Prompt :=
  match a.playing with
  | some r => if r.tag == tag then some r else a.waiting.find? fun w => w.tag == tag
  | none => a.waiting.find? fun w => w.tag == tag

/-- The playing prompt ends with PROMPT_ENDED; its owner is told where `tell` is set (R106, R109, R110). -/
def endPlaying (tell : Bool) (p : Part) : Part :=
  match p.anu.playing with
  | none => p
  | some r =>
    let p := (stopPlaying p).post .promptEnded r.tag
    if tell then tellPrompt r p else p

/-- While more than `n` records wait, the record at the back is removed with PROMPT_DROPPED and its owner
told (R101, R102, R105). -/
def dropBack (n : Nat) (p : Part) : Part :=
  if n < p.anu.waiting.length then
    match p.anu.waiting.getLast? with
    | none => p
    | some r =>
      let p := { p with anu := { p.anu with waiting := p.anu.waiting.dropLast } }
      tellPrompt r (p.post .promptDropped r.tag)
  else p

/-! ### Starts -/

/-- The playing record enters segment `seg` of pass `pass` of its pattern, or, at a poisoned pattern entry,
no segment: the generator then gives silence (R110). The entry is read, and checked, as it begins. -/
def beginSegment (n pass seg played : Nat) (p : Part) : Part :=
  let p := checkEntry tblChimes n p
  if p.unitPoisoned tblChimes n 0 then
    { p with anu := { p.anu with chime := Chime.stopped } }
  else
    let pat := p.tst.chimes.getD n {}
    let s := pat.segments.getD seg {}
    { p with anu := { p.anu with
        chime := Chime.begun s played
        playing := p.anu.playing.map fun r => { r with pass := pass, segment := seg } } }

/-- A record as it waits again: its elapsed time and pattern position are those of its start (R99). -/
def Prompt.rewound (r : Prompt) : Prompt := { r with elapsed := 0, pass := 1, segment := 0 }

/-- The record as it starts: elapsed time 0, pass 1, segment 0; a RING takes the ring pattern of CALL_CFG as
its source at each start (R99, R110). -/
def startedRecord (p : Part) (r : Prompt) : Prompt :=
  { r with elapsed := 0, pass := 1, segment := 0,
           source := if r.cls == .ring then .pattern p.callCfg.ringPattern else r.source }

/-- A record becomes the playing record and PROMPT_STARTED is posted; a pattern begins (R104, R110). CALL_CFG is
checked as a RING's pattern is read from it (R169). DESIGN CHOICE (log entry 54): where a preempting SAFETY starts
between render blocks, what is left of the block counts as its first segment's first. -/
def startPrompt (r : Prompt) (p : Part) : Part :=
  let p := if r.cls == .ring then checkEntry tblCall 0 p else p
  let r := startedRecord p r
  let p := { p with anu := { p.anu with playing := some r, chime := Chime.stopped } }
  let p := match r.source with
    | .pattern n => beginSegment n 1 0 1 p
    | _ => p
  p.post .promptStarted r.tag

/-- The generator has no segment to play although a pattern prompt plays: its entry was poisoned (R110). -/
def patternSilent (p : Part) : Bool :=
  match p.anu.playing with
  | some r => (match r.source with
    | .pattern _ => p.anu.chime.segment.isNone
    | _ => false)
  | none => false

/-- A SAFETY or CHIME prompt whose pattern entry is poisoned ends at the render block; a RING goes on in
silence (R110). -/
def endIfSilent (p : Part) : Part :=
  match p.anu.playing with
  | some r => if patternSilent p && r.cls != .ring then endPlaying true p else p
  | none => p

/-- Every record is eligible except a BULLETIN while the call is ALERTING or ACTIVE (R104). -/
def eligible (p : Part) (r : Prompt) : Bool :=
  r.cls != .bulletin || !(p.clp.state == .alerting || p.clp.state == .active)

/-- If nothing plays, the first eligible waiting record starts (R104). -/
def startNext (p : Part) : Part :=
  if p.anu.playing.isSome then p
  else
    match p.anu.waiting.find? (eligible p) with
    | none => p
    | some r =>
      endIfSilent (startPrompt r
        { p with anu := { p.anu with waiting := p.anu.waiting.filter fun w => w.tag != r.tag } })

/-! ### Pushes -/

/-- A record that joins the waiting queue: at the head, after the back record is dropped when 12 wait, or at
the back (R101). -/
def joinQueue (r : Prompt) (head : Bool) (p : Part) : Part :=
  if head then
    let p := dropBack 11 p
    { p with anu := { p.anu with waiting := r :: p.anu.waiting } }
  else { p with anu := { p.anu with waiting := p.anu.waiting ++ [r] } }

/-- The stopped prompt of a preemption: a NAV is removed with PROMPT_DROPPED, any other goes back to the head
of the queue, the back record being dropped when 13 then wait (R102). -/
def setBack (r : Prompt) (p : Part) : Part :=
  let p := stopPlaying p
  if r.cls == .nav then p.post .promptDropped r.tag
  else dropBack 12 { p with anu := { p.anu with waiting := r.rewound :: p.anu.waiting } }

/-- Places a record that has passed its checks (R101, R102). DESIGN CHOICE (log entry 55): a preempting SAFETY whose
pattern entry is poisoned plays in silence until the next render block ends it. -/
def placePrompt (r : Prompt) (p : Part) : Part :=
  if r.cls == .safety then
    match p.anu.playing with
    | some old =>
      if old.cls != .safety then startPrompt r (setBack old p) else joinQueue r true p
    | none => joinQueue r true p
  else joinQueue r r.front p

/-- A BULLETIN that plays when the call enters ALERTING or ACTIVE returns to the head of the queue without a
notice; the back record is dropped when 13 then wait (R105). -/
def setBackBulletin (p : Part) : Part :=
  match p.anu.playing with
  | some r =>
    if r.cls == .bulletin then
      let p := stopPlaying p
      dropBack 12 { p with anu := { p.anu with waiting := r.rewound :: p.anu.waiting } }
    else p
  | none => p

/-- The RING prompt, playing or waiting, ends with PROMPT_ENDED when the call leaves ALERTING (R109). -/
def endRing (p : Part) : Part :=
  match (p.anu.playing.toList ++ p.anu.waiting).find? fun r => r.cls == .ring with
  | none => p
  | some r => (removePrompt r.tag p).post .promptEnded r.tag

/-- The Station Manager ends its bulletin prompt, queued or playing, with PROMPT_ENDED; the latch becomes
NONE and the BULLETIN claim is withdrawn (R94, R107). -/
def endBulletin (p : Part) : Part :=
  let b := p.stm.bulletin
  if b.latch == .prompted then
    let p := (removePrompt b.tag p).post .promptEnded b.tag
    withdraw .bulletin { p with stm := { p.stm with bulletin := { b with latch := .none } } }
  else p

/-- A record, if it is a BULLETIN, is removed with PROMPT_DROPPED and the Station Manager told (R112). -/
def dropBulletin (p : Part) (r : Prompt) : Part :=
  if r.cls == .bulletin then tellPrompt r ((removePrompt r.tag p).post .promptDropped r.tag) else p

/-- On entry to REDUCED every BULLETIN record is removed with PROMPT_DROPPED and the Station Manager
told (R112). -/
def dropBulletins (p : Part) : Part := (p.anu.playing.toList ++ p.anu.waiting).foldl dropBulletin p

/-! ### The render block -/

/-- The playing pattern moves on at a render block: within its segment, or to the next segment or pass, or
to its end (R110). `played` is how many blocks of a new segment have begun. -/
def advancePattern (played : Nat) (p : Part) : Part :=
  match p.anu.playing with
  | none => p
  | some r =>
    match r.source, p.anu.chime.segment with
    | .pattern n, some s =>
      if p.anu.chime.played < s.duration then
        { p with anu := { p.anu with chime := { p.anu.chime with played := p.anu.chime.played + 1 } } }
      else
        let p := checkEntry tblChimes n p
        if p.unitPoisoned tblChimes n 0 then
          endIfSilent { p with anu := { p.anu with chime := Chime.stopped } }
        else
          match nextSegment (p.tst.chimes.getD n {}) (r.cls == .ring) r.pass (r.segment + 1) with
          | some (pass, seg) => beginSegment n pass seg played p
          | none => endPlaying true p
    | _, _ => p

/-- The elapsed time after a render block: raised by 1, and stopping at 600,000 for a prompt with no maximum
duration (R106). -/
def elapsedAfter (r : Prompt) : Nat :=
  match r.maxDuration with
  | some _ => r.elapsed + 1
  | none => min 600000 (r.elapsed + 1)

/-- Whether the elapsed time has reached the maximum duration (R106). -/
def timeUp (r : Prompt) (elapsed : Nat) : Bool :=
  match r.maxDuration with
  | some m => m ≤ elapsed
  | none => false

/-- The advance of the playing prompt at a render block: its time, then its pattern; it ends if either has
run out (R104, R106, R110). -/
def advancePlaying (p : Part) : Part :=
  match p.anu.playing with
  | none => p
  | some r =>
    let e := elapsedAfter r
    let p := { p with anu := { p.anu with playing := some { r with elapsed := e } } }
    if timeUp r e then endPlaying true p
    else endIfSilent (advancePattern 1 p)

/-- ANU_RENDER_BLOCK: the playing prompt advances, and if then none plays, the next one starts (R104). -/
def anuBlock (p : Part) : Part := if p.running then startNext (advancePlaying p) else p

/-- PROMPT_DURATION_EXPIRY: at the render block at which the elapsed time reaches the maximum duration, the
prompt ends with PROMPT_ENDED (R106). -/
def promptExpiry (p : Part) : Part :=
  match p.anu.playing with
  | none => p
  | some r => if p.running && timeUp r (elapsedAfter r) then endPlaying true p else p

/-- CHIME_SEGMENT_END: at the render block after a segment's last one, the next segment or pass begins, or
the pattern completes and the prompt ends (R110). The block itself is counted by ANU_RENDER_BLOCK. -/
def chimeSegmentEnd (p : Part) : Part :=
  match p.anu.chime.segment with
  | some s => if p.running && s.duration ≤ p.anu.chime.played then advancePattern 0 p else p
  | none => p

end Sys2Proof.Machine
end

