-- ==== Sys2Proof/Machine/Stations.lean ====
section
/-! DEFINITION. The Station Manager (chapter 5): channels, the filing of service packets, the background
cycle, band scans, the watch, bulletins and the capture queue. -/

namespace Sys2Proof.Machine

/-! ### Channels -/

/-- The bottom channel of a band (scope 4.4). -/
def bandBottom : Band → Nat
  | .fm => 8750
  | .am => 522

/-- The top channel of a band (scope 4.4). -/
def bandTop : Band → Nat
  | .fm => 10800
  | .am => 1710

/-- The channel step of a band (scope 4.4). -/
def bandStep : Band → Nat
  | .fm => 10
  | .am => 9

/-- A valid channel: an FM multiple of 10 from 8750 to 10800, or 522 plus a multiple of 9 up to 1710 (R71). -/
def validFreq (b : Band) (f : Nat) : Bool :=
  bandBottom b ≤ f && f ≤ bandTop b && (f - bandBottom b) % bandStep b == 0

/-- The next channel up or down, wrapping at the ends of the band (R74). -/
def nextFreq (b : Band) (up : Bool) (f : Nat) : Nat :=
  if up then (if bandTop b < f + bandStep b then bandBottom b else f + bandStep b)
  else (if f < bandBottom b + bandStep b then bandTop b else f - bandStep b)

/-! ### Items and references -/

/-- A last quality as compared: UNKNOWN ranks below 0 (R71, R80). -/
def qualityRank : Option Nat → Int
  | some q => q
  | none => -1

/-- The item of highest last quality, the earliest among equals (R71). -/
def bestItem (items : List Item) : Option Item :=
  items.foldl (fun b i => match b with
    | none => some i
    | some x => if qualityRank x.quality < qualityRank i.quality then some i else some x) none

/-- The index of the entry with a programme code. -/
def Part.indexOfCode (p : Part) (c : Nat) : Option Nat :=
  p.tst.stations.findIdx? fun s => match s.entry with
    | some e => e.code == c
    | none => false

/-- The lowest free index (R78). DESIGN CHOICE (log entry 83): one whose in-use field cannot be read is passed over. -/
def Part.freeIndex (p : Part) : Option Nat :=
  (p.tst.stations.zipIdx.find? fun x => x.1.entry.isNone && !p.poisonPending tblStations x.2).map (·.2)

/-- The tuner of a zone's listening claim. -/
def Part.zoneTuner (p : Part) (z : ZoneId) : Option TunerId := (claimantOf z).bind p.holding

/-- A zone is attached to a tuner: in a crossfade to two (R75, R90). -/
def Zone.attachedTo (r : Zone) (t : TunerId) : Bool := r.att == some t || r.att2 == some t

/-- Whether an entry is referenced: by a zone with a listening claim, by the watch station, or by the bulletin
record while its prompt is queued or playing. References by zones attached to tuner `ignore`, and by a record sourced
from it, are not counted (R78, R80). -/
def Part.referenced (p : Part) (i : Nat) (ignore : Option TunerId) : Bool :=
  ([ZoneId.front, .hpLeft, .hpRight].any fun z =>
      p.refersTo z i && !ignore.any (p.zone z).attachedTo)
    || p.stm.watch == some i
    || (p.stm.bulletin.latch == .prompted && p.stm.bulletin.station == some i
        && some p.stm.bulletin.tuner != ignore)

/-- Whether filing a packet from tuner `t` may remove an entry: not a favourite, not referenced but by way of
`t`, and readable (R80, R84). -/
def Part.removable (p : Part) (i : Nat) (t : TunerId) : Bool :=
  match p.station i with
  | some e => e.favourite.isNone && !p.referenced i (some t) && !p.poisonPending tblStations i
  | none => false

/-- Whether the other tuner is playing a channel that an entry holds which a listening zone on that tuner
references: filing a packet from `t` never takes it (R78). DESIGN CHOICE (log entry 23): an IDENT of such a
frequency is not filed at all and is counted as unfiled. -/
def Part.guardedFrom (p : Part) (i : Nat) (c : Chan) (t : TunerId) : Bool :=
  (p.tuner t.other).state == .playing && (p.tuner t.other).chan == some c
    && [ZoneId.front, .hpLeft, .hpRight].any fun z =>
      p.refersTo z i && (p.zone z).attachedTo t.other

/-! ### Filing -/

/-- Changes an entry and sets its changed mark (R79). -/
def changeStation (i : Nat) (f : Station → Station) (p : Part) : Part :=
  setMark i (p.updStation i fun s => { s with entry := s.entry.map f })

/-- A channel is taken from entry `i` in filing a packet of tuner `t`: out of its list, or the entry removed
with its last item; none when it must stay (step 1 of R80, R78). -/
def takeChannel (i : Nat) (c : Chan) (t : TunerId) (p : Part) : Option Part :=
  match p.station i with
  | none => none
  | some e =>
    if p.guardedFrom i c t then none
    else if (e.items.filter fun it => it.freq != c.freq).isEmpty then
      if p.removable i t then some (removeStation i p) else none
    else some (changeStation i (fun e => { e with items := e.items.filter fun it => it.freq != c.freq }) p)

/-- The place of the item that a full list replaces: the lowest last quality among those no tuner is tuned to,
the later among equals (step 2 of R80). -/
def replaceable (p : Part) (e : Station) : Option Nat :=
  let free := e.items.zipIdx.filter fun x =>
    TunerId.all.all fun t => p.tunedTo t != some ⟨e.band, x.1.freq⟩
  (free.foldl (fun b x => match b with
    | none => some x
    | some y => if qualityRank x.1.quality ≤ qualityRank y.1.quality then some x else some y) none).map (·.2)

/-- The channel joins the list of the entry of its code: at the end, or in the place of an item of a full list,
or dropped and counted (step 2 of R80). -/
def addChannel (i : Nat) (it : Item) (p : Part) : Part :=
  match p.station i with
  | none => p
  | some e =>
    if e.items.any fun x => x.freq == it.freq then p
    else if e.items.length < 12 then changeStation i (fun e => { e with items := e.items ++ [it] }) p
    else match replaceable p e with
      | some k => changeStation i (fun e => { e with items := e.items.set k it }) p
      | none => { p with stm := { p.stm with dropped := count16 p.stm.dropped 1 } }

/-- The best item quality of an entry, as eviction compares it (step 4 of R80). -/
def evictionRank (e : Station) : Int :=
  (e.items.map fun it => qualityRank it.quality).foldl max (-1)

/-- The age of an entry in an eviction tie: DESIGN CHOICE (log entry 45), of its most recently heard item; an
absent time is oldest (step 4 of R80). -/
def evictionAge (now : Nat) (e : Station) : Nat :=
  (e.items.map fun it => match it.heard with
    | some h => timeSince now h
    | none => 4294967296).foldl min 4294967296

/-- The entry to evict: neither a favourite nor referenced nor unreadable, of lowest best quality, then oldest,
then of the highest index (step 4 of R80, R84). -/
def evictable (p : Part) : Option Nat :=
  let now := p.rif.ringTime
  let cands := p.tst.stations.zipIdx.filterMap fun x => match x.1.entry with
    | some e => if e.favourite.isNone && !p.referenced x.2 none && !p.poisonPending tblStations x.2
        then some (evictionRank e, evictionAge now e, x.2) else none
    | none => none
  (cands.foldl (fun b x => match b with
    | none => some x
    | some y => if x.1 < y.1 || (x.1 == y.1 && y.2.1 ≤ x.2.1) then some x else some y) none).map (·.2.2)

/-- A new entry at index `i`, its mark set (step 3 of R80). -/
def createStation (i : Nat) (e : Station) (p : Part) : Part :=
  setMark i (cleanEntry tblStations i (p.updStation i fun s => { s with entry := some e }))

/-- The entry's bulletin flags take the packet's; a change sets the mark (R79, R80). -/
def setFlags (i : Nat) (cap act : Bool) (p : Part) : Part :=
  match p.station i with
  | some e =>
    if e.capable == cap && e.active == act then p
    else changeStation i (fun e => { e with capable := cap, active := act }) p
  | none => p

/-- Every zone attached to a tuner by a listening claim takes an entry's index and code (R78). -/
def zonesTake (t : TunerId) (i code : Nat) (p : Part) : Part :=
  [ZoneId.front, .hpLeft, .hpRight].foldl (fun q z =>
    if (q.zone z).attachedTo t && q.listening z then
      q.setZone z { q.zone z with station := some i, code := some code } else q) p

/-- Step 1 of R80: the channel is taken from another entry that holds it; none when it must stay there. -/
def freeChannel (t : TunerId) (ch : Chan) (c : Nat) (p : Part) : Option Part :=
  match p.holderOf ch with
  | none => some p
  | some h => if (p.station h).all fun e => e.code == c then some p else takeChannel h ch t p

/-- Steps 2 to 4 of R80: the index an IDENT is filed under and the part, or none when it is not filed. -/
def fileUnder (t : TunerId) (ch : Chan) (c : Nat) (cap act : Bool) (p : Part) : Option (Nat × Part) :=
  let it : Item := { freq := ch.freq, quality := some (p.tuner t).qs, heard := some p.rif.ringTime }
  match p.indexOfCode c with
  | some i =>
    if (p.station i).any fun e => e.band == ch.band then some (i, setFlags i cap act (addChannel i it p)) else none
  | none =>
    let e : Station := { code := c, band := ch.band, items := [it], capable := cap, active := act, learned := true }
    match p.freeIndex, evictable p with
    | some i, _ => some (i, createStation i e p)
    | none, some i => some (i, createStation i e (removeStation i p))
    | none, none => none

/-- Steps 1 to 4 of R80 for an IDENT with code `c` from tuner `t` on a channel: the index it is filed under and
the part, or none when one of the cases in which it is not filed arises. -/
def fileSteps (t : TunerId) (ch : Chan) (c : Nat) (cap act : Bool) (p : Part) : Option (Nat × Part) :=
  if c = 0 then none else (freeChannel t ch c p).bind (fileUnder t ch c cap act)

/-- A bulletin record sourced from the tuner follows it to the entry its IDENT is filed under (step 1 of R80). -/
def recordFollows (t : TunerId) (i : Nat) (p : Part) : Part :=
  let b := p.stm.bulletin
  if b.latch == .prompted && b.tuner == t && b.station.isSome then
    { p with stm := { p.stm with bulletin := { b with station := some i } } }
  else p

/-- The filing of an IDENT: counted as unfiled with nothing changed, or filed, the zones on the tuner taking
the entry's index and a bulletin record sourced from it following it; with the index it is filed under (R78,
R80). -/
def fileIdent (t : TunerId) (c : Nat) (cap act : Bool) (p : Part) : Option Nat × Part :=
  match (p.tuner t).chan.bind fun ch => fileSteps t ch c cap act p with
  | none => (none, { p with stm := { p.stm with unfiled := count16 p.stm.unfiled 1 } })
  | some (i, q) => (some i, zonesTake t i c (recordFollows t i q))

/-- One frequency of a FREQS packet, for the entry at index `i` (R82). DESIGN CHOICE (log entry 87): one that R78 guards
stays where it is and is counted as dropped. -/
def fileFreq (t : TunerId) (i : Nat) (b : Band) (f : Nat) (p : Part) : Part :=
  let drop : Part := { p with stm := { p.stm with dropped := count16 p.stm.dropped 1 } }
  if !validFreq b f then p
  else match p.station i with
  | none => drop
  | some e =>
    if e.items.any fun it => it.freq == f then p
    else if p.tunedTo t.other == some ⟨b, f⟩ && (p.tuner t.other).heard.isSome then drop
    else if 12 ≤ e.items.length then drop
    else match p.holderOf ⟨b, f⟩ with
      | none => changeStation i (fun e => { e with items := e.items ++ [{ freq := f }] }) p
      | some h =>
        let it := ((p.station h).bind fun e => e.items.find? fun x => x.freq == f).getD { freq := f }
        match takeChannel h ⟨b, f⟩ t p with
        | none => drop
        | some q => changeStation i (fun e => { e with items := e.items ++ [it] }) q

/-- The filing of a FREQS packet (R82). -/
def fileFreqs (t : TunerId) (fs : List Nat) (p : Part) : Part :=
  let r := p.tuner t
  match r.chan, r.heard.bind p.indexOfCode with
  | some ch, some i =>
    if (p.station i).any fun e => e.band == ch.band then fs.foldl (fun q f => fileFreq t i ch.band f q) p
    else { p with stm := { p.stm with dropped := count16 p.stm.dropped fs.length } }
  | _, _ => { p with stm := { p.stm with dropped := count16 p.stm.dropped fs.length } }

/-- The eight characters of a label assembly with all four segments present (R82). -/
def fullLabel (segs : List (Option (Byte × Byte))) : Option (List Byte) :=
  if segs.all Option.isSome then some (segs.flatMap fun s => match s with
    | some x => [x.1, x.2]
    | none => []) else none

/-- The filing of a LABEL packet (R82). DESIGN CHOICE (log entry 46): a full assembly that is kept is written again
at each segment that changes it, so that a new label comes in by its segments. -/
def fileLabel (t : TunerId) (n : Nat) (c1 c2 : Byte) (p : Part) : Part :=
  match (p.tuner t).heard with
  | none => p
  | some code =>
    let segs := (p.stm.labels.get t).set n (some (c1, c2))
    let p := { p with stm := { p.stm with labels := p.stm.labels.set t segs } }
    match fullLabel segs, p.indexOfCode code with
    | some l, some i =>
      if (p.station i).any fun e => e.label == some l then p
      else changeStation i (fun e => { e with label := some l }) p
    | _, _ => p

/-! ### Capture -/

/-- A checked packet is copied to the capture queue if a capture names its tuner (R95, R96). DESIGN CHOICE (log entry
77): a copy that both reaches the trigger and brings the count to 0 posts CAPTURE_READY before CAPTURE_DONE. -/
def captureCopy (t : TunerId) (pk : Packet) (p : Part) : Part :=
  let s := p.stm
  if s.capTuner == some t && 0 < s.capCount then
    if 32 ≤ s.capQueue.length then { p with stm := { s with captureLosses := count16 s.captureLosses 1 } }
    else
      let q := s.capQueue ++ [{ tuner := t, time := p.rif.ringTime, packet := pk }]
      let p := { p with stm := { s with capQueue := q, capCount := s.capCount - 1, capTimer := true } }
      let p := if q.length == p.radioCfg.captureTrigger then p.post .captureReady else p
      if s.capCount == 1 then p.post .captureDone else p
  else p

/-- CAPTURE_IDLE_TIMEOUT: the idle timer stops, and CAPTURE_READY is posted if packets wait (R96). -/
def captureIdle (p : Part) : Part :=
  if p.running && p.stm.capTimer then
    let p := { p with stm := { p.stm with capTimer := false } }
    if p.stm.capQueue.isEmpty then p else p.post .captureReady
  else p

/-! ### The background cycle -/

/-- The visits of the cycle in index and list order, with their positions (R86). -/
def allVisits (p : Part) : List (Nat × Nat × Chan) :=
  p.tst.stations.zipIdx.flatMap fun x => match x.1.entry with
    | some e => e.items.zipIdx.map fun y => (x.2, y.2, ⟨e.band, y.1.freq⟩)
    | none => []

/-- The next visit from the cycle position on, wrapping, passing over what tuner `avoid` is tuned to (R86). -/
def nextVisit (avoid : TunerId) (p : Part) : Option (Nat × Nat × Chan) :=
  let vs := (allVisits p).filter fun v => p.tunedTo avoid != some v.2.2
  (vs.find? fun v => p.stm.bgIndex < v.1 || (p.stm.bgIndex == v.1 && p.stm.bgItem ≤ v.2.1)).or vs.head?

/-- The next visit once the entry it names has been checked: where the check changes the entry, the next one from
the position is sought again, at most `n` times (R86, R169). -/
def findVisit (avoid : TunerId) : Nat → Part → Option (Nat × Nat × Chan) × Part
  | 0, p => (none, p)
  | n + 1, p =>
    match nextVisit avoid p with
    | none => (none, p)
    | some v =>
      let q := checkStation v.1 p
      if nextVisit avoid q == some v then (some v, q) else findVisit avoid n q

/-- The next visit: each of the 48 entries is checked at most once before it is found. -/
def readVisit (avoid : TunerId) (p : Part) : Option (Nat × Nat × Chan) × Part := findVisit avoid 49 p

/-- The cycle position names the visit that is made. -/
def atVisit (v : Nat × Nat × Chan) (p : Part) : Part :=
  { p with stm := { p.stm with bgIndex := v.1, bgItem := v.2.1 } }

/-- The Station Manager keeps a BACKGROUND claim standing while it may: it is withdrawn when cycling is
disabled, and asked for when a tuner is IDLE and a frequency is listed that no tuner is tuned to (R86). -/
def keepBackground (p : Part) : Part :=
  match p.holding .background with
  | some _ => if p.radioCfg.background && p.isActive then p else withdraw .background p
  | none =>
    if p.radioCfg.background && p.isActive
        && (allVisits p).any fun v => TunerId.all.all fun t => p.tunedTo t != some v.2.2 then
      match TunerId.all.find? p.idleFree with
      | none => p
      | some t =>
        let x := readVisit t.other p
        match x.1 with
        | none => x.2
        | some v => grant .background v.2.2 t false (atVisit v x.2)
    else p

/-- BACKGROUND_DWELL_END: the tuner's quality is stored, the position moves on and the next visit begins, or
the claim is withdrawn when nothing remains (R86). -/
def backgroundDwellEnd (p : Part) : Part :=
  match p.holding .background with
  | none => p
  | some t =>
    let r := p.tuner t
    if p.running && r.state == .playing && r.done then
      let p := match r.chan with
        | some c => storeQuality c r.qs p
        | none => p
      let p := { p with stm := { p.stm with bgItem := p.stm.bgItem + 1 } }
      let x := readVisit t.other p
      match x.1 with
      | some v => tuneStart t v.2.2 none false (atVisit v x.2)
      | none => withdraw .background x.2
    else p

/-! ### Band scans -/

/-- The scan moves to the next channel up, or ends above the top (R87). -/
def scanMove (p : Part) : Part :=
  match p.stm.scan with
  | none => p
  | some s =>
    let f := ((p.tuner s.tuner).chan.map (·.freq)).getD (bandBottom s.band) + bandStep s.band
    if f ≤ bandTop s.band then
      tuneStart s.tuner ⟨s.band, f⟩ none false
        { p with stm := { p.stm with scan := some { s with reports := 0, dwelling := false } } }
    else endScan false (withdraw .scan p)

/-- The judgement of a scan step after its reports: dwell at or above the threshold, move on below it (R87). -/
def scanJudge (p : Part) : Part :=
  match p.stm.scan with
  | none => p
  | some s =>
    if p.radioCfg.scanThreshold ≤ (p.tuner s.tuner).qs then
      { p with stm := { p.stm with scan := some { s with dwelling := true } } }
    else scanMove p

/-- An IDENT taken in a dwell of the scan on its tuner ends the dwell and is counted (R87). -/
def scanIdent (t : TunerId) (p : Part) : Part :=
  match p.stm.scan with
  | none => p
  | some s =>
    if s.tuner == t && s.dwelling then
      scanMove { p with stm := { p.stm with scan := some { s with found := s.found + 1 } } }
    else p

/-- SCAN_JUDGE_TIMEOUT: the step is judged below the threshold (R87). -/
def scanJudgeTimeout (p : Part) : Part :=
  match p.stm.scan with
  | none => p
  | some s => if p.running && (p.tuner s.tuner).done && !s.dwelling then scanMove p else p

/-- SCAN_DWELL_TIMEOUT: the dwell runs out and the scan moves on (R87). -/
def scanDwellTimeout (p : Part) : Part :=
  match p.stm.scan with
  | none => p
  | some s => if p.running && s.dwelling then scanMove p else p

/-! ### The watch -/

/-- FRONT's station entry while FRONT is PLAYING on RADIO. -/
def frontStation (p : Part) : Option Nat :=
  let z := p.zone .front
  if z.state == .playing && z.source == .radio then z.station else none

/-- The bulletin station: FRONT's entry when FRONT is PLAYING on RADIO and that entry is bulletin-capable,
otherwise the watch station (R92). -/
def bulletinStation (p : Part) : Option Nat :=
  ((frontStation p).filter fun i => (p.station i).any (·.capable)).or p.stm.watch

/-- A tuner is PLAYING a frequency of an entry with a listening claim (R92). -/
def listenerPlays (p : Part) (i : Nat) : Bool :=
  TunerId.all.any fun t =>
    let r := p.tuner t
    r.state == .playing && r.listening
      && match r.chan, p.station i with
        | some c, some e => e.holds c
        | _, _ => false

/-- The condition of the watch (R92). -/
def watchCondition (p : Part) : WatchState :=
  match p.stm.watch with
  | none => .inactive
  | some i =>
    if !p.radioCfg.bulletins || !p.isActive || bulletinStation p != some i then .inactive
    else if listenerPlays p i || (p.holding .watch).isSome then .covered
    else .uncovered

/-- Asks the arbiter for a WATCH claim at the entry's frequency of highest last quality; the entry is checked as it
is read (R92, R169). -/
def askWatch (p : Part) : Part :=
  match p.stm.watch with
  | none => p
  | some i =>
    let p := checkStation i p
    if watchCondition p == .uncovered then
      match p.station i with
      | none => p
      | some e =>
        match bestItem e.items with
        | none => p
        | some it =>
          let c : Chan := ⟨e.band, it.freq⟩
          match p.arbitrate .watch c none true with
          | some (t, shared) => grant .watch c t shared p
          | none => p
    else p

/-- FRONT's station entry is checked as it is read (R169). -/
def readFront (p : Part) : Part :=
  match frontStation p with
  | some j => checkStation j p
  | none => p

/-- What a watch's condition is judged by is checked as it is read: RADIO_CFG, whose bulletins flag it needs, FRONT's
entry and the watch entry (R92, R169; log entry 14). DESIGN CHOICE (log entry 89): in this order. -/
def readWatched (p : Part) : Part :=
  match p.stm.watch with
  | none => p
  | some i => checkStation i (readFront (checkPlain ⟨tblRadio, 0, 0⟩ p))

/-- The notice of a change of the watch's condition (R92). -/
def watchNotice (old new : WatchState) (p : Part) : Part :=
  match old, new with
  | .covered, .uncovered => p.post .watchLost
  | .uncovered, .covered => p.post .watchRestored
  | _, _ => p

/-- The watch takes its condition as it stands, with the notice of the change (R92). -/
def judgeWatch (p : Part) : Part :=
  let c := watchCondition p
  watchNotice p.stm.watchState c { p with stm := { p.stm with watchState := c } }

/-- The WATCH claim is given up when the watch is INACTIVE or a listener covers it (R92). -/
def dropWatch (p : Part) : Part :=
  if (watchCondition p == .inactive || p.stm.watch.any (listenerPlays p)) && (p.holding .watch).isSome then
    giveUp .watch p
  else p

/-- Brings the watch up to date: a claim without use is given up, the change of the condition is judged, and an
UNCOVERED watch asks for its claim as it becomes active and where `ask` is set. A watch that becomes active and is
covered by that claim at once posts nothing (R92; log entry 21). -/
def keepWatch (ask : Bool) (p : Part) : Part :=
  let p := readWatched p
  let old := p.stm.watchState
  let p := judgeWatch (dropWatch p)
  if p.stm.watchState == .uncovered && (ask || old == .inactive) then
    let p := askWatch p
    if old == .inactive then { p with stm := { p.stm with watchState := watchCondition p } } else judgeWatch p
  else p

/-- WATCH_RETRY: while UNCOVERED the WATCH claim is asked for again (R92). -/
def watchRetry (p : Part) : Part :=
  if p.running && p.stm.watchState == .uncovered then keepWatch true p else p

/-! ### Bulletins -/

/-- A bulletin start: the BULLETIN claim shares the tuner and the prompt is pushed at the back; a full queue, or an
empty set of bulletin zones, refuses it and leaves no claim (R93, R101, R103; log entry 48). -/
def bulletinStart (t : TunerId) (i : Nat) (p : Part) : Part :=
  match (p.tuner t).chan with
  | none => p
  | some c =>
    if 12 ≤ p.anu.waiting.length || p.radioCfg.bulletinZones.isEmpty then p
    else
      let p := grant .bulletin c t true p
      let tag := (assignTag p.anu).1
      let cfg := p.radioCfg
      let r : Prompt := { tag := tag, cls := .bulletin, source := .tuner t, zones := cfg.bulletinZones,
                          level := cfg.bulletinLevel, maxDuration := some 300000, front := false }
      let p := placePrompt r { p with anu := (assignTag p.anu).2 }
      { p with stm := { p.stm with bulletin := { latch := .prompted, tag := tag, tuner := t, station := some i } } }

/-- Whether a blind check of the tuner is in any of its three states (R91). -/
def Part.checkingNow (p : Part) (t : TunerId) : Bool :=
  match (p.follow t).state with
  | .checkMeasure | .checkVerify | .checkReturn => true
  | _ => false

/-- Whether a bulletin-active flag that is clear ends the prompt: that of the entry the IDENT is filed under, or
of the record's entry; with neither the prompt plays on (R83, R94). -/
def bulletinOver (filed : Option Nat) (p : Part) : Bool :=
  match (filed.or p.stm.bulletin.station).bind p.station with
  | some e => !e.active
  | none => false

/-- An IDENT from tuner `t`, filed under an index or not, as bulletin detection takes it (R93, R94). -/
def bulletinIdent (t : TunerId) (filed : Option Nat) (p : Part) : Part :=
  let b := p.stm.bulletin
  let plays (i : Nat) : Bool := match (p.tuner t).chan, p.station i with
    | some c, some e => e.holds c
    | _, _ => false
  match b.latch with
  | .prompted => if b.tuner == t && bulletinOver filed p then endBulletin p else p
  | .spent =>
    match bulletinStation p with
    | some i =>
      if (p.tuner t).state == .playing && plays i && !(p.station i).any (·.active) then
        { p with stm := { p.stm with bulletin := { b with latch := .none } } }
      else p
    | none => p
  | .none =>
    match bulletinStation p, (p.tuner t).chan with
    | some i, some c =>
      if p.radioCfg.bulletins && p.isActive && filed.isSome && (p.tuner t).state == .playing && !p.checkingNow t
          && plays i && p.serves t c && (p.station i).any (·.active) then bulletinStart t i p
      else p
    | _, _ => p

/-! ### What the Station Manager keeps up -/

/-- No prompted bulletin, no watch and no background cycling stands or is asked for (R86, R92, R94). -/
def Part.calm (p : Part) : Bool :=
  p.stm.bulletin.latch != .prompted && p.stm.watch.isNone && p.stm.watchState == .inactive
    && (p.holding .watch).isNone && (p.holding .background).isNone && !p.radioCfg.background

/-- Nothing of what the Station Manager keeps up stands or is asked for: the part is calm, and no low-quality timer
runs (R88). -/
def Part.quiet (p : Part) : Bool := p.calm && !(p.follow .a).lowTimer && !(p.follow .b).lowTimer

/-- The entry that frequency following looks in is checked as it is read (R88, R169). -/
def readFollowed (t : TunerId) (p : Part) : Part :=
  match (p.tuner t).heard.bind p.indexOfCode with
  | some i => checkStation i p
  | none => p

/-- What is read to keep things up is checked: RADIO_CFG, and, for a low-quality timer that runs, the entry that its
tuner's eligibility rests on; nothing is read where there is nothing to keep up (R169; log entry 14). DESIGN CHOICE (log
entry 89): in this order, tuner A's entry before B's. -/
def readKept (p : Part) : Part :=
  let timed (q : Part) (t : TunerId) : Part := if (q.follow t).lowTimer then readFollowed t q else q
  if p.quiet then p else timed (timed (checkPlain ⟨tblRadio, 0, 0⟩ p) .a) .b

/-- A tuner is eligible for frequency following (R88). -/
def Part.eligible (p : Part) (t : TunerId) : Bool :=
  let r := p.tuner t
  p.radioCfg.afEnable && p.isActive && r.state == .playing && r.listening && !r.claimedBy .bulletin
    && r.seek.isNone
    && match r.chan, r.heard.bind p.indexOfCode with
      | some c, some i => (p.station i).any fun e => e.holds c
      | _, _ => false

/-- A tuner that is not eligible has its low-quality timer stopped (R88). -/
def stopTimer (t : TunerId) (p : Part) : Part :=
  if p.eligible t then p else p.setFollow t { p.follow t with lowTimer := false }

/-- A tuner has become IDLE since `before`, as the Tuner Controller reports (R70, R92). -/
def becameIdle (before p : Part) : Bool :=
  TunerId.all.any fun t => (p.tuner t).state == .idle && (before.tuner t).state != .idle

/-- No poisoning has come or gone and no station entry has changed. -/
def undisturbed (before p : Part) : Bool :=
  p.tst.poisoned == before.tst.poisoned
    && p.tst.stations.map StationSlot.entry == before.tst.stations.map StationSlot.entry

/-- The watch, then the BACKGROUND claim, in at most `n` rounds. Where the cycle gives up its claim and so leaves a
tuner IDLE, the watch asks for it, and where the checks that the cycle makes have changed an entry, the watch is judged
again (R70, R86, R92). -/
def keepRounds : Nat → Bool → Part → Part
  | 0, _, p => p
  | n + 1, ask, p =>
    let p := keepWatch ask p
    let q := keepBackground p
    if undisturbed p q && !becameIdle p q then q else keepRounds n (becameIdle p q) q

/-- The watch and the BACKGROUND claim brought up to date. Each of the 48 entries is found poisoned at most once, and
the cycle leaves its tuner once, so that the rounds come to their end before they run out. -/
def keepClaims (ask : Bool) (p : Part) : Part := keepRounds 64 ask p

/-- After a command that may change claims, tuners, zones, stations or configuration, with the part `before` it: a
prompt is ended when bulletins have been disabled, the watch is brought up to date, the BACKGROUND claim is kept,
and the low-quality timers of tuners that are not eligible stop (R86, R88, R92, R94). -/
def stmSettle (before p : Part) : Part :=
  let p := readKept p
  let p := if p.stm.bulletin.latch == .prompted && !p.radioCfg.bulletins then endBulletin p else p
  stopTimer .b (stopTimer .a (keepClaims (becameIdle before p) p))

/-- The part after checks of table entries, settled where a check has changed what the tables give (R169). -/
def settleRead (before p : Part) : Part :=
  if undisturbed before p then p else noteReports before (stmSettle before p)

end Sys2Proof.Machine
end

