-- ==== Sys2Proof/Machine/Tuners.lean ====
section
/-! DEFINITION. The Tuner Controller's events (chapter 4) and frequency following (section 5.4): link
acknowledgements, reception quality, the completion of tunes, seeks, TUNE and SEEK for a zone, the rate
adapter's input, seamless switches and blind checks, and the intake of service packets. -/

namespace Sys2Proof.Machine

/-! ### Reception quality -/

/-- The raw score of a report (R60). -/
def rawScore (cfg : RadioCfg) (fs mp adj : Nat) : Nat :=
  (clampInt 0 100 (2 * ((fs : Int) - cfg.fsFloor) - ((mp / 8 : Nat) : Int) - ((adj / 16 : Nat) : Int))).toNat

/-- One smoothing step (R61). -/
def smooth (s q : Nat) : Nat := s - s / 8 + 2 * q

/-- The separation at a reported quality (R62). -/
def sepOf (cfg : ScoreCfg) (pilot : Bool) (qs : Nat) : Nat :=
  if !pilot || qs ≤ cfg.blendLo then 0
  else if cfg.blendHi ≤ qs then 100
  else (qs - cfg.blendLo) * 100 / (cfg.blendHi - cfg.blendLo)

/-- The soft mute at a reported quality (R63). -/
def softMuteOf (cfg : ScoreCfg) (qs : Nat) : Nat :=
  if cfg.muteHi ≤ qs then 0 else min cfg.muteMax ((cfg.muteHi - qs) * cfg.muteSlope)

/-- A tuner's scores after a raw score and a pilot flag are applied, by the scoring fields in force (R57, R60 to R63). -/
def Tuner.scored (cfg : ScoreCfg) (q : Nat) (pilot : Bool) (r : Tuner) : Tuner :=
  let s := smooth r.s q
  { r with q := q, s := s, pilot := pilot, sep := sepOf cfg pilot (s / 16), softMute := softMuteOf cfg (s / 16)
           scoring := cfg }

/-! ### Zones on a tuner -/

/-- The zones attached to a tuner by a listening claim (R75). -/
def Part.zonesOn (p : Part) (t : TunerId) : List ZoneId :=
  [ZoneId.front, .hpLeft, .hpRight].filter fun z => (p.zone z).att == some t && p.listening z

/-- The zones of a tuner take a channel (R90, R91). -/
def zonesTune (t : TunerId) (c : Chan) (p : Part) : Part :=
  (p.zonesOn t).foldl (fun q z => q.setZone z { q.zone z with chan := some c }) p

/-- RADIO is ready on a tuner: PLAYING and primed (R19). -/
def Part.tunerReady (p : Part) (t : TunerId) : Bool :=
  (p.tuner t).state == .playing && (p.tuner t).adapter.primed

/-- The readiness of the zones on a tuner is held as it stands while a check is away; FRONT's followers take it
from FRONT at their render block (R19, R28). One that is held already stays. DESIGN CHOICE (log entry 75): a zone of
whose readiness nothing is held as the check goes on to CHECK_RETURN, since it was let go in CHECK_VERIFY or the zone
came to share the tuner there, has it held as it stands at that move. -/
def holdZones (t : TunerId) (p : Part) : Part :=
  let ready := p.tunerReady t
  [ZoneId.front, .hpLeft, .hpRight].foldl (fun q z => if (q.zone z).att == some t then
    q.setZone z { q.zone z with held := some ((q.zone z).held.getD ready) } else q) p

/-! ### Seeks -/

/-- A seek ends at the tuner's frequency: PLAYING, the zone takes it, SEEK_DONE with the value (R74). -/
def endSeek (t : TunerId) (k : Seek) (found : Bool) (p : Part) : Part :=
  let p := p.setTuner t { p.tuner t with state := .playing, seek := none }
  match (p.tuner t).chan with
  | none => p
  | some c =>
    let p := nameStation k.zone c (p.setZone k.zone { p.zone k.zone with chan := some c })
    p.post .seekDone (zoneCode k.zone) (if found then some c.freq else none)

/-- The next step of a seek: the next channel in its direction, or, where that is the start frequency, the
return there (R74). -/
def seekStep (t : TunerId) (k : Seek) (c : Chan) (p : Part) : Part :=
  let f := nextFreq c.band k.up c.freq
  let p := p.setTuner t { p.tuner t with seek := some { k with reports := 0, returning := f == k.start } }
  tuneStart t { c with freq := f } none false p

/-- The judgement of a seek's step: it stops at or above the threshold (R74). -/
def seekJudge (t : TunerId) (k : Seek) (p : Part) : Part :=
  if p.radioCfg.seekThreshold ≤ (p.tuner t).qs then endSeek t k true p
  else match (p.tuner t).chan with
    | some c => seekStep t k c p
    | none => p

/-- SEEK_JUDGE_TIMEOUT: three reports have not been applied within 30 ms of a step's completion, and the
judgement fails (R74). -/
def seekJudgeTimeout (t : TunerId) (p : Part) : Part :=
  match (p.tuner t).seek, (p.tuner t).chan with
  | some k, some c => if p.running && (p.tuner t).done && !k.returning then seekStep t k c p else p
  | _, _ => p

/-! ### Blind checks -/

/-- A blind check starts (R91). -/
def startCheck (t : TunerId) (cand home : Chan) (p : Part) : Part :=
  let r := p.tuner t
  let p := holdZones t p
  let p := p.setFollow t { state := .checkMeasure, lastCheck := some p.rif.ringTime, cand := cand.freq,
                           home := home.freq, code := r.heard.getD 0, preScore := r.qs }
  tuneStart t cand none true p

/-- The check enters CHECK_RETURN: the tuner is tuned back to the home frequency in CHECKING, and the zones
take it again, their readiness held (R19, R91; log entry 75). -/
def returnHome (t : TunerId) (p : Part) : Part :=
  match (p.tuner t).chan with
  | none => p
  | some c =>
    let home : Chan := ⟨c.band, (p.follow t).home⟩
    let p := zonesTune t home (holdZones t p)
    let p := p.setFollow t { p.follow t with state := .checkReturn }
    tuneStart t home none true p

/-- The end of the measurement: the average is stored as the candidate's last quality; the tuner stays on the
candidate if the average is high enough, and returns otherwise (R91). -/
def checkAverage (t : TunerId) (p : Part) : Part :=
  let p := ownerReads [tblRadio] p
  match (p.tuner t).chan with
  | none => p
  | some c =>
    let f := p.follow t
    let avg := f.sum / 5
    let p := storeQuality c avg p
    if f.preScore + p.radioCfg.afMargin ≤ avg then
      let p := p.setTuner t { p.tuner t with state := .playing }
      zonesTune t c (p.setFollow t { f with state := .checkVerify })
    else returnHome t p

/-- A check is over (R88, R91). -/
def endCheck (t : TunerId) (p : Part) : Part := p.setFollow t (p.follow t).ended

/-- BLIND_CHECK_MEASURE_TIMEOUT: the average is taken with the missing reports as 0 (R91). -/
def checkMeasureTimeout (t : TunerId) (p : Part) : Part :=
  if p.running && (p.follow t).state == .checkMeasure && (p.tuner t).done then checkAverage t p else p

/-- CHECK_VERIFY_TIMEOUT: 500 ms pass without the code (R91). -/
def checkVerifyTimeout (t : TunerId) (p : Part) : Part :=
  if p.running && (p.follow t).state == .checkVerify then returnHome t p else p

/-- An IDENT as a check on its tuner takes it (R91). A check left before its average is due stores a free
value as the average (log entry 4). -/
def checkIdent (t : TunerId) (code : Nat) (p : Part) : Part :=
  let f := p.follow t
  match f.state, (p.tuner t).chan with
  | .checkMeasure, some c =>
    if code = f.code then p
    else
      let avg := min 100 (Config.unmeasuredAverage p.draws)
      returnHome t (storeQuality c avg { p with draws := p.draws + 1 })
  | .checkVerify, _ =>
    if code = f.code then (endCheck t p).post .afSwitched (tunerCode t) else returnHome t p
  | _, _ => p

/-! ### Tunes complete -/

/-- What a completed tune brings about, by the tuner's state (R59, R74, R91). -/
def completed (t : TunerId) (p : Part) : Part :=
  let r := p.tuner t
  match r.state, r.seek with
  | .tuning, some k => if k.returning then endSeek t k false p else p
  | .tuning, none =>
    let p := p.setTuner t { r with state := .playing, note := none }
    match r.note, r.chan with
    | some z, some c => p.post .tuneDone (zoneCode z) (some c.freq)
    | _, _ => p
  | .checking, _ =>
    if (p.follow t).state == .checkReturn then endCheck t (p.setTuner t { r with state := .playing }) else p
  | _, _ => p

/-- A tune completes: the settle timer stops (R59). -/
def completeTune (t : TunerId) (p : Part) : Part :=
  completed t (p.setTuner t { p.tuner t with settle := false, done := true })

/-- A further report after a tune's completion, as a seek, a scan or a check counts it (R74, R87, R91). -/
def countReport (t : TunerId) (p : Part) : Part :=
  let r := p.tuner t
  match r.seek with
  | some k =>
    let k := { k with reports := k.reports + 1 }
    let p := p.setTuner t { r with seek := some k }
    if k.reports == 3 && !k.returning then seekJudge t k p else p
  | none =>
    let scanning := match p.stm.scan with
      | some s => if s.tuner == t && !s.dwelling then some s else none
      | none => none
    match scanning with
    | some s =>
      let p := { p with stm := { p.stm with scan := some { s with reports := s.reports + 1 } } }
      if s.reports + 1 == 3 then scanJudge p else p
    | none =>
      let f := p.follow t
      if f.state == .checkMeasure then
        let f := { f with sum := f.sum + r.q, reports := f.reports + 1 }
        let p := p.setFollow t f
        if f.reports == 5 then checkAverage t p else p
      else p

/-- A tuner is in MONITOR: its own following is, and it is not the candidate tuner of a switch, whose state is that of
the switch until both return to MONITOR (R88, R90). -/
def Part.monitoring (p : Part) (t : TunerId) : Bool := (p.follow t).state == .monitor && !p.switching t.other

/-- In MONITOR an eligible tuner's timer starts below the threshold and stops at or above it; a tuner that is
not eligible has its timer stopped; the entry that it rests on is checked as it is read (R88, R169). -/
def watchQuality (t : TunerId) (p : Part) : Part :=
  let p := readFollowed t p
  if p.eligible t then
    if p.monitoring t then
      p.setFollow t { p.follow t with lowTimer := (p.tuner t).qs < p.radioCfg.afThreshold }
    else p
  else p.setFollow t { p.follow t with lowTimer := false }

/-- The tuner takes audio, reports and packets: not in IDLE and not in FAULT (R60, R64, R77). -/
def Tuner.working (r : Tuner) : Bool := r.state == .tuning || r.state == .playing || r.state == .checking

/-- QUALITY_REPORT: disregarded in IDLE and FAULT and before the acknowledge; otherwise applied, and a tune
awaiting completion completes if it is flagged SETTLED (R59 to R63). RADIO_CFG takes effect with it (R57). -/
def qualityReport (t : TunerId) (fs mp adj : Nat) (settled pilot : Bool) (p : Part) : Part :=
  if !(p.tuner t).working || !(p.tuner t).acked then p
  else
    let p := ownerReads [tblRadio] p
    let r := p.tuner t
    let p := p.setTuner t (r.scored p.radioCfg.scoring (rawScore p.radioCfg fs mp adj) pilot)
    let p := if r.done then countReport t p else if settled then completeTune t p else p
    watchQuality t p

/-- SETTLE_TIMEOUT: one smoothing step with Q forced to 0, the pilot flag cleared, the timeout counted, and the
tune completes (R59); the fields in force are those of the last report (R57). -/
def settleTimeout (t : TunerId) (p : Part) : Part :=
  if p.running && (p.tuner t).settle then
    let p := ownerReads [tblRadio] p
    let r := (p.tuner t).scored (p.scoring t) 0 false
    completeTune t (p.setTuner t { r with settleTimeouts := count16 r.settleTimeouts 1 })
  else p

/-- QUALITY_STORE: the quality of a tuner that PLAYS for a listening, BULLETIN or WATCH claim of its own is stored
(R85); a provisional copy does not count (log entry 47). -/
def qualityStore (t : TunerId) (p : Part) : Part :=
  let r := p.tuner t
  if p.running && r.state == .playing && r.done
      && r.claims.any (fun c => c.own && (c.who.listens || c.who == .bulletin || c.who == .watch)) then
    match r.chan with
    | some c => storeQuality c r.qs (settleRead p (readHolder c p))
    | none => p
  else p

/-! ### Seamless switches -/

/-- The entry that frequency following looks in: that of the code heard, holding the tuner's frequency (R88). -/
def Part.followed (p : Part) (t : TunerId) : Option Station :=
  ((p.tuner t).heard.bind p.indexOfCode).bind p.station

/-- Whether an item is a candidate for tuner `t` on channel `c` (R88). -/
def isCandidate (p : Part) (t : TunerId) (c : Chan) (it : Item) : Bool :=
  it.freq != c.freq
    && (match it.quality, it.heard with
      | some q, some h => (p.tuner t).qs + p.radioCfg.afMargin ≤ q && timeSince p.rif.ringTime h ≤ p.radioCfg.afAge
      | _, _ => false)
    && p.tunedTo t.other != some ⟨c.band, it.freq⟩

/-- The best candidate: of highest quality, the earliest among equals (R88). -/
def Part.candidate (p : Part) (t : TunerId) : Option Chan :=
  match (p.tuner t).chan, p.followed t with
  | some c, some e => (bestItem (e.items.filter (isCandidate p t c))).map fun it => ⟨c.band, it.freq⟩
  | _, _ => none

/-- The other tuner can be borrowed: IDLE with a bus address, or holding only WATCH, SCAN or BACKGROUND
claims (R88). -/
def Part.borrowable (p : Part) (u : TunerId) : Bool :=
  p.idleFree u
    || (!(p.tuner u).claims.isEmpty && (p.tuner u).state != .fault
        && (p.tuner u).claims.all fun c => 4 ≤ strength c.who)

/-- A seamless switch begins: the other tuner's claims are displaced, it holds provisional copies of the weak
tuner's listening claims and is tuned to the candidate (R89). -/
def startSwitch (t : TunerId) (cand : Chan) (p : Part) : Part :=
  let p := displaceAll t.other p
  let copies := ((p.tuner t).claims.filter fun c => c.who.listens).map fun c => { c with prov := true }
  let p := setClaims t.other copies p
  let p := p.setFollow t { state := .switchVerify, lastCheck := (p.follow t).lastCheck, cand := cand.freq }
  tuneStart t.other cand none false p

/-- The interval between blind checks has passed (R88). -/
def Part.mayCheck (p : Part) (t : TunerId) : Bool :=
  match (p.follow t).lastCheck with
  | none => true
  | some l => p.radioCfg.afBlindInterval ≤ timeSince p.rif.ringTime l

/-- AF_HOLD_EXPIRY: the low-quality timer has run for af_hold; a candidate is looked for and tried by a seamless
switch or a blind check; with no way open the timer restarts (R88). -/
def afHoldExpiry (t : TunerId) (p : Part) : Part :=
  if !(p.running && (p.follow t).lowTimer && p.monitoring t) then p
  else
    let p := readFollowed t (ownerReads [tblRadio] p)
    if !p.eligible t then p
    else match p.candidate t, (p.tuner t).chan with
    | some cand, some home =>
      if p.borrowable t.other then startSwitch t cand p
      else if p.mayCheck t then startCheck t cand home p
      else p
    | _, _ => p

/-- An IDENT as a switch verifying on its tuner takes it (R89). -/
def switchIdent (u : TunerId) (code : Nat) (p : Part) : Part :=
  let t := u.other
  if (p.follow t).state == .switchVerify then
    if (p.tuner t).heard != some code then abandonSwitch t p
    else if (p.tuner t).qs + p.radioCfg.afMargin ≤ (p.tuner u).qs then
      p.setFollow t { p.follow t with verified := true }
    else abandonSwitch t p
  else p

/-- SWITCH_VERIFY_TIMEOUT: the verification window expires (R89). -/
def switchVerifyTimeout (t : TunerId) (p : Part) : Part :=
  if p.running && (p.follow t).state == .switchVerify then abandonSwitch t p else p

/-- Every zone that sounds from a tuner: those attached to it by their listening claims, and FRONT's followers
that are not OFF (R28, R90). -/
def Part.zonesFading (p : Part) (t : TunerId) : List ZoneId :=
  p.zonesOn t ++ [ZoneId.rearCabin, .cargo].filter fun z => (p.zone z).att == some t && (p.zone z).state != .off

/-- The switch goes to SWITCH_FADE at step 1, at a render block, every zone on the weak tuner attached to both
(R89, R90). DESIGN CHOICE (log entry 70): a readiness still held after a blind check stays held through the fade. -/
def beginFade (t : TunerId) (p : Part) : Part :=
  let p := (p.zonesFading t).foldl (fun q z => q.setZone z { q.zone z with att2 := some t.other }) p
  p.setFollow t { p.follow t with state := .switchFade, step := 1 }

/-- A completed switch: the provisional claims become the zones' claims, the zones move to the candidate tuner
and take its frequency, the weak tuner is freed, both tuners are back in MONITOR, AF_SWITCHED is posted (R90). -/
def completeSwitch (t : TunerId) (p : Part) : Part :=
  let u := t.other
  let moved := p.zonesFading t
  let p := setClaims u ((p.tuner u).claims.map fun c => { c with prov := false }) p
  let p := setClaims t ((p.tuner t).claims.filter fun c => !c.who.listens) p
  let p := moved.foldl (fun q z => attach z u none q) p
  let p := match (p.tuner u).chan with
    | some c => moved.foldl (fun (q : Part) z => q.setZone z { q.zone z with chan := some c }) p
    | none => p
  let p := (p.setFollow t (p.follow t).ended).setFollow u (p.follow u).ended
  (idleIfFree t p).post .afSwitched (tunerCode u)

/-- AF_FADE_STEP: at a render block a verified switch with a primed candidate begins its fade; a fade's step
rises by one up to 32, and at the block after step 32 the switch completes (R89, R90). -/
def afFadeStep (t : TunerId) (p : Part) : Part :=
  if !p.running then p
  else match (p.follow t).state with
    | .switchVerify =>
      if (p.follow t).verified && (p.tuner t.other).adapter.primed then beginFade t p else p
    | .switchFade =>
      if (p.follow t).step < 32 then p.setFollow t { p.follow t with step := (p.follow t).step + 1 }
      else completeSwitch t p
    | _ => p

/-- AF_SWITCH_COMPLETE: the render block after step 32 (R90). -/
def afSwitchComplete (t : TunerId) (p : Part) : Part :=
  if p.running && (p.follow t).state == .switchFade && (p.follow t).step == 32 then completeSwitch t p else p

/-! ### TUNE and SEEK for a zone -/

/-- The zone's tuner is free to move: no listening or BULLETIN claim besides the zone's own, and no seamless
switch (R72). -/
def Part.freeToMove (p : Part) (w : Claimant) (t : TunerId) : Bool :=
  (p.tuner t).claims.all (fun c => c.who == w || 4 ≤ strength c.who)
    && !p.switching t && !p.switching t.other

/-- The WATCH, SCAN and BACKGROUND claims on a tuner are displaced, and a check and a seek on it end, before
its zone retunes it (R72, R91). -/
def clearOwn (w : Claimant) (t : TunerId) (p : Part) : Part :=
  let cs := (p.tuner t).claims.filter fun c => c.who != w
  let p := p.setTuner t { p.tuner t with claims := (p.tuner t).claims.filter (fun c => c.who == w), seek := none }
  cs.foldl (fun q c => displaceOwner c.who q) (endCheck t p)

/-- A zone on RADIO waits for its tuner on a channel (R72). -/
def zonePending (z : ZoneId) (c : Chan) (p : Part) : Part :=
  nameStation z c (p.setZone z { p.zone z with source := .radio, chan := some c, state := .pending })

/-- The decision of a TUNE for a zone that is on (R72). -/
def decideTune (z : ZoneId) (w : Claimant) (c : Chan) (p : Part) : Result × Part :=
  let own := p.holding w
  let p := match own with
    | some t => abandonSwitch t p
    | none => p
  if own.any fun t => p.serves t c then
    (.ok, (p.setZone z { p.zone z with source := .radio, chan := some c }).post .tuneDone (zoneCode z) (some c.freq))
  else
    match own.filter (p.freeToMove w) with
    | some t => (.ok, zonePending z c (tuneStart t c (some z) false (attach z t none (clearOwn w t p))))
    | none =>
      match p.arbitrate w c own true with
      | none => (.tunerBusy, p)
      | some (t, shared) =>
        let p := zonePending z c (grant w c t shared (withdraw w p))
        (.ok, if shared then p.post .tuneDone (zoneCode z) (some c.freq) else p)

/-- TUNE for a zone to a channel (R71, R72). DESIGN CHOICE (log entry 86): ZONE_ROLE comes before the arguments'
refusals, and POWER after them. -/
def tuneZone (z : ZoneId) (c : Chan) (p : Part) : Result × Part :=
  match claimantOf z with
  | none => (.zoneRole, p)
  | some w =>
    if (p.zone z).state == .off then (.ok, p.setZone z { p.zone z with source := .radio, chan := some c })
    else if !p.isActive then (.power, p)
    else decideTune z w c p

/-- TUNE by station index, whose in-use field is read and so checked where it is free (R169, R170): BAD_ENTRY while a
poisoning waits for that check, of a free index too (log entry 83); NOT_FOUND for a free index; otherwise the frequency
of highest last quality (R71, R84). -/
def tuneStation (z : ZoneId) (i : Nat) (p : Part) : Result × Part :=
  let q := checkStation i p
  if p.poisonPending tblStations i then (.badEntry, q)
  else match (q.station i).bind fun e => (bestItem e.items).map fun it => (⟨e.band, it.freq⟩ : Chan) with
    | some c => tuneZone z c q
    | none => (.notFound, q)

/-- A seek starts on a tuner, which the zone's claim holds (R73, R74). -/
def startSeek (z : ZoneId) (t : TunerId) (up : Bool) (start : Chan) (p : Part) : Part :=
  let p := attach z t none p
  let p := p.setZone z { p.zone z with state := .pending }
  seekStep t { zone := z, up := up, start := start.freq } start p

/-- SEEK for a zone (R73). DESIGN CHOICE (log entry 86): STATE comes before POWER where both apply. -/
def seekZone (z : ZoneId) (up : Bool) (p : Part) : Result × Part :=
  match claimantOf z, (p.zone z).chan with
  | none, _ => (.zoneRole, p)
  | some _, none => (.state, p)
  | some w, some zc =>
    if (p.zone z).state == .off || (p.zone z).source != .radio then (.state, p)
    else if !p.isActive then (.power, p)
    else
      let own := p.holding w
      let p := match own with
        | some t => abandonSwitch t p
        | none => p
      let seeking := own.filter fun t => (p.tuner t).seek.any fun k => k.zone == z
      let start := (seeking.bind fun t => (p.tuner t).chan).getD zc
      match own.filter (p.freeToMove w) with
      | some t => (.ok, startSeek z t up start (clearOwn w t p))
      | none =>
        match p.arbitrate w start own false with
        | none => (.tunerBusy, p)
        | some (t, _) => (.ok, startSeek z t up start (addClaim w t (displaceAll t (withdraw w p))))

/-! ### The rate adapter's input and its trim -/

/-- A stereo sample from the front-end joins the FIFO; the adapter is primed when the fill first reaches 128;
a full FIFO discards the sample, counted as an overflow and reported as a slip (R64, R66). -/
def tunerAudioSample (t : TunerId) (l r : Sample) (p : Part) : Part :=
  let u := p.tuner t
  if !u.working || !u.done then p
  else
    let a := u.adapter
    if a.fifo.length < 256 then
      let fifo := a.fifo ++ [(l, r)]
      p.setTuner t { u with adapter := { a with fifo := fifo, primed := a.primed || 128 ≤ fifo.length } }
    else
      (p.setTuner t { u with overflows := count16 u.overflows 1 }).fault .slip (some (tunerCode t))

/-- The trim after a render block at a fill (R65). -/
def trimAfter (trim : Int) (fill : Nat) : Int := clampInt (-8192) 8192 (trim + ((fill : Int) - 128) * 2)

/-- ADAPTER_TRIM_ADJUST: at each render block a primed adapter adjusts its trim from its fill (R65). -/
def adapterTrimAdjust (t : TunerId) (p : Part) : Part :=
  let u := p.tuner t
  if p.running && u.adapter.primed then
    p.setTuner t { u with adapter := { u.adapter with trim := trimAfter u.adapter.trim u.adapter.fifo.length } }
  else p

/-! ### The command link's transactions -/

/-- The acknowledge of a TUNE starts the settle timer of the tune in progress, unless a newer command waits
(R55, R59). -/
def ackTune (t : TunerId) (cmd : LinkCmd) (p : Part) : Part :=
  let r := p.tuner t
  match cmd with
  | .tune c =>
    if r.working && r.chan == some c && !r.done && !(p.tuc.queue.any fun x => x.1 == t) then
      p.setTuner t { r with acked := true, settle := true }
    else p
  | .standby => p

/-- The link is free, and the next pending command starts (R55). -/
def freeLink (p : Part) : Part := { p with tuc := startLink { p.tuc with link := none } }

/-- LINK_ACK: the transaction on the link is acknowledged (R55, R59). -/
def linkAck (p : Part) : Part :=
  match p.tuc.link with
  | none => p
  | some (t, cmd) => freeLink (ackTune t cmd (p.setTuner t { p.tuner t with missed := 0 }))

/-- A tuner's entry to FAULT, its bulletin prompt ended with it (R56, R94). DESIGN CHOICE (log entry 88): the
prompt first, so that PROMPT_ENDED is posted before TUNER_FAULT. -/
def tunerFault (t : TunerId) (p : Part) : Part :=
  let b := p.stm.bulletin
  enterFault t (if b.latch == .prompted && b.tuner == t then endBulletin p else p)

/-- LINK_NO_ACK: at the first missing acknowledge the tuner waits to resend its command, or the newer one; at
the second it enters FAULT (R56). -/
def linkNoAck (p : Part) : Part :=
  match p.tuc.link with
  | none => p
  | some (t, cmd) =>
    let r := p.tuner t
    let p := p.setTuner t { r with missed := min 2 (r.missed + 1), missedAcks := count16 r.missedAcks 1 }
    if r.missed = 0 then
      let newer := (p.tuc.queue.find? fun x => x.1 == t).map (·.2)
      let p := { p with tuc := { p.tuc with queue := p.tuc.queue.filter fun x => x.1 != t } }
      freeLink (p.setTuner t { p.tuner t with retry := some (newer.getD cmd) })
    else freeLink (tunerFault t p)

/-- ACK_RETRY_WAIT_EXPIRY: the 2 ms wait is over and the tuner's command is issued again (R56), DESIGN CHOICE (log
entry 49): at the back of the pending commands. -/
def ackRetryWaitExpiry (t : TunerId) (p : Part) : Part :=
  match (p.tuner t).retry with
  | some cmd => if p.running then issue t cmd (p.setTuner t { p.tuner t with retry := none }) else p
  | none => p

/-! ### Service packets -/

/-- The programme code heard is set; a change empties the label assembly (R77). Code 0 is no code. -/
def hear (t : TunerId) (code : Nat) (p : Part) : Part :=
  let h := if code = 0 then none else some code
  if (p.tuner t).heard == h then p
  else
    let p := p.setTuner t { p.tuner t with heard := h }
    { p with stm := { p.stm with labels := p.stm.labels.set t (List.replicate 4 none) } }

/-- A packet taken with its check passed: filed, copied, and, for an IDENT, handed to frequency following and
to bulletin detection (R77). Filing reads the station table: what can be corrected is corrected first, so that filing
writes no index anew whose error is unreported, and an uncorrectable error makes its entry unreadable till filing is
done and the entry is checked (R84, R169; log entry 14). DESIGN CHOICE (log entry 95): the notice of the filing,
STATION_CHANGED, comes before the capture's. -/
def takePacket (t : TunerId) (pk : Packet) (p : Part) : Part :=
  let p := correctReads tblStations p
  match pk with
  | .ident code cap act =>
    let x := fileIdent t code cap act (hear t code p)
    let p := captureCopy t pk (ownerReads [tblStations] x.2)
    scanIdent t (bulletinIdent t x.1 (switchIdent t code (checkIdent t code p)))
  | .label n c1 c2 => captureCopy t pk (ownerReads [tblStations] (fileLabel t n c1 c2 p))
  | .freqs fs => captureCopy t pk (ownerReads [tblStations] (fileFreqs t fs p))

/-- SERVICE_PACKET: disregarded unless the tuner works and its tune has completed; dropped and counted with
its check-passed flag clear (R77). -/
def servicePacket (t : TunerId) (checkPassed : Bool) (pk : Packet) (p : Part) : Part :=
  if !(p.tuner t).working || !(p.tuner t).done then p
  else if checkPassed then takePacket t pk (ownerReads [tblRadio] p)
  else { p with stm := { p.stm with checkFails := p.stm.checkFails.set t (count16 (p.stm.checkFails.get t) 1) } }

end Sys2Proof.Machine
end

