-- ==== Sys2Proof/Machine/Calls.lean ====
section
/-! DEFINITION. The Call Processor (chapter 8): call requests, seat admission, the path signature and the
canceller contexts, voice meters, the talker, and the uplink code. -/

namespace Sys2Proof.Machine

/-! ### The uplink code -/

/-- The uplink code computed anew; in ACTIVE, CALL_CFG is checked as it is read (R148, R169). -/
def setUplink (p : Part) : Part :=
  recodeUplink (if p.clp.state == .active then checkEntry tblCall 0 p else p)

/-! ### Contexts -/

/-- A context's state, changed by `f`; CANCELLER is posted when the state of the talker's context, or of the
last talker's while there is no talker, changes (R147). -/
def changeContext (k : Seat) (f : SeatRt → SeatRt) (p : Part) : Part :=
  let old := p.seat k
  let new := f old
  let q := p.setSeat k new
  if old.context != new.context && k == p.carried then q.post .canceller (seatCode k) else q

/-- The ERLE window in progress discarded (R146). -/
def SeatRt.noWindow (s : SeatRt) : SeatRt := { s with windowOpen := false, micSum := 0, resSum := 0, refSum := 0 }

/-- A context that enters TRAINING with a cleared filter and a recorded signature (R144, R145). -/
def SeatRt.trained (sig : Signature) (s : SeatRt) : SeatRt :=
  { s.noWindow with context := .training, filterClear := true, erle := 0, convTimer := 0, divTimer := 0,
                    sig := some sig }

/-- A context that enters RESET (Table 8.7). -/
def SeatRt.cleared (s : SeatRt) : SeatRt :=
  { s.noWindow with context := .reset, filterClear := true, erle := 0, convTimer := 0, divTimer := 0,
                    divCount := 0, sig := none }

/-- A change of the path signature: it becomes the current one, and every context that is TRAINING or CONVERGED
is cleared (R145). -/
def setSignature (sig : Signature) (p : Part) : Part :=
  if p.clp.sig = sig then p
  else
    let p := { p with clp := { p.clp with sig := sig } }
    setUplink (Seat.all.foldl (fun q k =>
      if (q.seat k).context == .reset then q else changeContext k (SeatRt.trained sig) q) p)

/-! ### Admission -/

/-- The admitted seats (Table 8.5). -/
def admittedOf (p : Part) : PerSeat Bool :=
  let c := p.clp
  let on := c.state == .active || c.state == .held
  let z (w : ZoneId) := c.zones.get w
  { driver := on && (c.isPrivate || z .front || z .driver)
    passenger := on && !c.isPrivate && z .front
    rearLeft := on && !c.isPrivate && (z .hpLeft || z .rearCabin)
    rearRight := on && !c.isPrivate && (z .hpRight || z .rearCabin) }

/-- A seat that loses admission: its context enters RESET, and if it was the talker the talker becomes absent
(R139, R143). DESIGN CHOICE (log entry 95): CANCELLER is posted before CALL_TALKER. -/
def unadmit (k : Seat) (p : Part) : Part :=
  let p := changeContext k SeatRt.cleared p
  if p.clp.talker == some k then
    { p with clp := { p.clp with talker := none, aboveGate := none } }.post .callTalker
  else p

/-- Admission recomputed: a seat that becomes admitted enters TRAINING with the current signature (R139). -/
def readmit (p : Part) : Part :=
  let before := p.clp.admitted
  let now := admittedOf p
  let p := { p with clp := { p.clp with admitted := now } }
  let one (q : Part) (k : Seat) : Part :=
    if now.get k && !before.get k then changeContext k (SeatRt.trained q.clp.sig) q
    else if before.get k && !now.get k then unadmit k q
    else q
  setUplink (Seat.all.foldl one p)

/-- A new call zone set: the signature changes with it, and admission is recomputed (R135 to R137). DESIGN CHOICE
(log entry 58): the signature first, so that a CONVERGED talker which loses admission posts CANCELLER twice. -/
def setCallZones (zs : ZoneSet) (p : Part) : Part :=
  let p := { p with clp := { p.clp with zones := zs } }
  readmit (setSignature { p.clp.sig with zones := zs } p)

/-- The default zones of CALL_CFG, less any headphone zone that is OFF (R132). -/
def connectZones (p : Part) : ZoneSet :=
  .of fun z => p.callCfg.defaultZones.get z && !(z.rearSeat?.isSome && (p.zone z).state == .off)

/-- A headphone zone that enters OFF leaves the call (R137). -/
def leaveCall (z : ZoneId) (p : Part) : Part :=
  if p.clp.zones.get z then setCallZones (p.clp.zones.set z false) p else p

/-! ### Call requests -/

/-- A POWER_DOWN ramp runs (R174). -/
def Part.ramping (p : Part) : Bool := p.pwc.ramp.isSome

/-- CALL_ALERT with its zone set: the result, the RING prompt's tag, the part (R131, R103). -/
def callAlert (zs : Option ZoneSet) (p : Part) : Result × Option Nat × Part :=
  match zs with
  | none => (.badValue, none, p)
  | some z =>
    if z.isEmpty then (.badValue, none, p)
    else if p.clp.state != .idle then (.state, none, p)
    else if p.ramping then (.power, none, p)
    else
      let p := ownerReads [tblCall] p
      let p := setBackBulletin { p with clp := { p.clp with state := .alerting } }
      let tag := (assignTag p.anu).1
      let r : Prompt := { tag := tag, cls := .ring, source := .pattern p.callCfg.ringPattern, zones := z,
                          level := p.callCfg.level, maxDuration := none, front := true }
      let p := placePrompt r { p with anu := (assignTag p.anu).2 }
      (.ok, some tag, { p with clp := { p.clp with ringTag := some tag } })

/-- CALL_CONNECT (R132). DESIGN CHOICE (log entry 95): the RING prompt ends, with PROMPT_ENDED, before the contexts
change, with CANCELLER. -/
def callConnect (p : Part) : Result × Part :=
  if p.clp.state == .idle || p.clp.state == .alerting then
    if p.ramping then (.power, p)
    else
      let p := endRing (ownerReads [tblCall] p)
      let p := { p with clp := { p.clp with state := .active, ringTag := none, isPrivate := false,
                                            talker := none, aboveGate := none } }
      (.ok, setCallZones (connectZones p) (setBackBulletin p))
  else (.state, p)

/-- Every ERLE window in progress is discarded, as the contexts freeze (R146). -/
def dropWindows (p : Part) : Part :=
  Seat.all.foldl (fun q k => q.setSeat k (q.seat k).noWindow) p

/-- CALL_HOLD (R133). -/
def callHold (p : Part) : Result × Part :=
  if p.clp.state == .active then
    (.ok, setUplink (dropWindows { p with clp := { p.clp with state := .held } }))
  else (.state, p)

/-- CALL_RESUME (R133). -/
def callResume (p : Part) : Result × Part :=
  if p.clp.state == .held then
    (.ok, setUplink (setBackBulletin { p with clp := { p.clp with state := .active } }))
  else (.state, p)

/-- The end of a call from ALERTING, ACTIVE or HELD (R134, R143). DESIGN CHOICE (log entry 95): CANCELLER is posted
before CALL_TALKER. -/
def endCall (p : Part) : Part :=
  let p := endRing p
  let p := Seat.all.foldl (fun q k => changeContext k SeatRt.cleared q) p
  let p := if p.clp.talker.isSome then p.post .callTalker else p
  let p := { p with clp := { p.clp with
      state := .idle, isPrivate := false, zones := ZoneSet.empty, admitted := .of fun _ => false,
      ringTag := none, talker := none, lastTalker := .driver, aboveGate := none } }
  setUplink (setSignature { p.clp.sig with zones := ZoneSet.empty } p)

/-- CALL_END (R134). -/
def callEnd (p : Part) : Result × Part := (.ok, if p.clp.state == .idle then p else endCall p)

/-- CALL_PRIVATE (R135). -/
def callPrivate (value : Option Bool) (p : Part) : Result × Part :=
  match value with
  | none => (.badValue, p)
  | some v =>
    if !(p.clp.state == .active || p.clp.state == .held) then (.state, p)
    else if p.clp.isPrivate == v then (.ok, p)
    else if v then
      (.ok, setCallZones (ZoneSet.single .driver) { p with clp := { p.clp with isPrivate := true } })
    else
      let p := ownerReads [tblCall] p
      (.ok, setCallZones (connectZones p) { p with clp := { p.clp with isPrivate := false } })

/-- CALL_ZONES, checked in the order of Table 8.4 (R136). -/
def callZones (zs : Option ZoneSet) (p : Part) : Result × Part :=
  match zs with
  | none => (.badValue, p)
  | some z =>
    if z.cargo then (.badValue, p)
    else if !(p.clp.state == .active || p.clp.state == .held) then (.state, p)
    else if p.clp.isPrivate then (.privateCall, p)
    else if (z.hpLeft && (p.zone .hpLeft).state == .off) || (z.hpRight && (p.zone .hpRight).state == .off) then
      (.state, p)
    else if z = p.clp.zones then (.ok, p)
    else (.ok, setCallZones z p)

/-- CALL_JOIN for a rear seat (R137). -/
def callJoin (r : RearSeat) (p : Part) : RearResult × Part :=
  if p.clp.isPrivate then (.privateCall, p)
  else if !(p.clp.state == .active || p.clp.state == .held) || (p.zone r.zone).state == .off then (.state, p)
  else if p.clp.zones.get r.zone then (.done, p)
  else (.done, setCallZones (p.clp.zones.set r.zone true) p)

/-- CALL_LEAVE for a rear seat (R137). -/
def callLeave (r : RearSeat) (p : Part) : RearResult × Part :=
  if p.clp.zones.get r.zone then (.done, setCallZones (p.clp.zones.set r.zone false) p) else (.state, p)

/-! ### The talker -/

/-- The candidate of lowest level, the lower seat among equals (R142). -/
def bestTalker (p : Part) : Option Seat :=
  (Seat.all.filter fun k => p.clp.admitted.get k && (p.seat k).v ≤ p.callCfg.gateLevel).foldl
    (fun b k => match b with
      | none => some k
      | some j => if (p.seat k).v < (p.seat j).v then some k else some j) none

/-- The talker changes: its above-gate time stops, a seat becomes the last talker, CALL_TALKER is posted (R142). -/
def setTalker (k : Option Seat) (p : Part) : Part :=
  { p with clp := { p.clp with talker := k, aboveGate := none, lastTalker := k.getD p.clp.lastTalker } }.post
    .callTalker

/-- The above-gate time after the talker's own meter update (R142). -/
def gateTime (level gate : Nat) (time : Option Nat) : Option Nat :=
  if level ≤ gate then none else some (time.getD 0)

/-- The judgement of the talker at a meter update of seat `k` (R142). -/
def judgeTalker (k : Seat) (p : Part) : Part :=
  let cfg := p.callCfg
  match p.clp.talker with
  | none => match bestTalker p with
    | some b => setTalker (some b) p
    | none => p
  | some t =>
    let time := if t = k then gateTime (p.seat t).v cfg.gateLevel p.clp.aboveGate else p.clp.aboveGate
    let p := { p with clp := { p.clp with aboveGate := time } }
    let held := match time with
      | some n => cfg.talkerHold ≤ n
      | none => false
    match bestTalker p with
    | some b =>
      if b != t && ((p.seat b).v + cfg.switchMargin ≤ (p.seat t).v || held) then setTalker (some b) p else p
    | none => if held then setTalker none p else p

/-- METER_UPDATE: a seat's window ends, its level is stored, a new window starts, and the talker is judged if
the seat is admitted and the call is ACTIVE (R141, R142). DESIGN CHOICE (log entry 64): where the SEATS entry has become
poisoned in the window, its sum stands for a window of 16 blocks, the power-on value. -/
def meterUpdate (k : Seat) (p : Part) : Part :=
  let s := p.seat k
  if !(p.running && s.meterOpen) then p
  else
    let p := ownerReads [tblSeats, tblCall] p
    let p := p.setSeat k { p.seat k with v := meterLevel s.meterSum (p.seatCfg k).window, meterSum := 0 }
    if p.clp.state == .active && p.clp.admitted.get k then setUplink (judgeTalker k p) else setUplink p

/-! ### ERLE windows -/

/-- Whether a window counts: enough downlink, and the microphone hears something (R146). -/
def windowCounts (s : SeatRt) : Bool := meterLevel s.refSum 16 ≤ 100 && meterLevel s.micSum 16 ≤ 200

/-- The transition of a context at the end of a counting window (Table 8.8). -/
def contextStep (cfg : CallCfg) (erle : Nat) (s : SeatRt) : SeatRt :=
  match s.context with
  | .training =>
    if cfg.convErle ≤ erle then
      if 256 ≤ s.convTimer + 16 then { s with context := .converged, convTimer := 0, divTimer := 0 }
      else { s with convTimer := s.convTimer + 16 }
    else { s with convTimer := 0 }
  | .converged =>
    if erle < cfg.divErle then
      if 128 ≤ s.divTimer + 16 then
        { s.noWindow with context := .training, filterClear := true, convTimer := 0, divTimer := 0,
                          divCount := count16 s.divCount 1 }
      else { s with divTimer := s.divTimer + 16 }
    else { s with divTimer := 0 }
  | .reset => s

/-- A window's sums start again (R146). -/
def SeatRt.nextWindow (s : SeatRt) : SeatRt := { s with micSum := 0, resSum := 0, refSum := 0 }

/-- ERLE_WINDOW_END: a context's 16 ms window ends; a counting window stores the ERLE and moves the context
(R146, R147). -/
def erleWindowEnd (k : Seat) (p : Part) : Part :=
  let s := p.seat k
  if !(p.running && s.windowOpen && p.clp.state == .active && s.context != .reset) then p
  else
    let p := ownerReads [tblCall] p
    if windowCounts s then
      let e := erleOf s.micSum s.resSum
      setUplink (changeContext k (fun r => contextStep p.callCfg e { r.nextWindow with erle := e }) p)
    else p.setSeat k s.nextWindow

/-! ### The render block -/

/-- At a render block a meter window begins where none runs, and an ERLE window where a context runs in ACTIVE
and none does (R141, R146). -/
def openWindows (active : Bool) (s : SeatRt) : SeatRt :=
  let s := if s.meterOpen then s else { s with meterOpen := true, meterSum := 0 }
  if active && s.context != .reset && !s.windowOpen then { s.nextWindow with windowOpen := true } else s

/-- The Call Processor's render block: the above-gate time counts while the call is ACTIVE, and windows
begin (R141, R142, R146). -/
def clpBlock (p : Part) : Part :=
  let active := p.clp.state == .active
  let time := if active then p.clp.aboveGate.map fun n => count16 n 1 else p.clp.aboveGate
  { p with clp := { p.clp with aboveGate := time
                               seats := .of fun k => openWindows active (p.seat k) } }

/-- RING_TIME_TICK: at each render block the ring time rises by 1 and wraps; the Call Processor's render block
is taken with it (R155). -/
def ringTimeTick (p : Part) : Part :=
  if p.running then
    clpBlock { p with rif := { p.rif with ringTime := (p.rif.ringTime + 1) % 4294967296 } }
  else p

end Sys2Proof.Machine
end

