-- ==== Sys2Proof/Machine/Zones.lean ====
section
/-! DEFINITION. The Zone Mixer (chapter 2): the zone requests, readiness and the zone states, followers, the
targets and the ramps of a render block, and what power modes and the tailgate do to zones. -/

namespace Sys2Proof.Machine

/-! ### Followers -/

/-- The state a follower takes from FRONT's (Table 2.5). -/
def followerState : ZoneState → ZoneState
  | .off | .silent => .silent
  | .pending => .pending
  | .playing => .playing
  | .lost => .lost

/-- A zone's new state; ZONE_LOST is posted as it enters LOST (R22, R28). -/
def enterState (z : ZoneId) (s : ZoneState) (p : Part) : Part :=
  let old := (p.zone z).state
  let q := p.setZone z { p.zone z with state := s }
  if s == .lost && old != .lost then q.post .zoneLost (zoneCode z) else q

/-- A follower takes FRONT's source, radio fields, step and attached tuners, and its state (R28). -/
def followFront (z : ZoneId) (p : Part) : Part :=
  let f := p.zone .front
  let p := p.setZone z { p.zone z with source := f.source, chan := f.chan, station := f.station, code := f.code,
                                       step := f.step, att := f.att, att2 := f.att2, held := f.held }
  enterState z (followerState f.state) p

/-! ### Zone requests -/

/-- A zone switched off: its source stays as its remembered source, its claim is withdrawn, its auto-on mark is
cleared, and a headphone zone leaves the call (R23). -/
def powerOff (z : ZoneId) (p : Part) : Part :=
  if (p.zone z).state == .off then p
  else
    let p := withdrawZone z (p.setZone z { p.zone z with state := .off, autoOn := false })
    if z.rearSeat?.isSome then leaveCall z p else p

/-- A zone with a remembered source of RADIO switched on: SILENT with no remembered frequency; otherwise
PENDING, and in ACTIVE the arbiter is asked for a listening claim (R23). -/
def powerRadio (z : ZoneId) (p : Part) : Part :=
  match (p.zone z).chan, claimantOf z with
  | some c, some w =>
    let p := p.setZone z { p.zone z with state := .pending }
    match p.arbitrate w c none true with
    | some (t, shared) => grantZone z c t shared p
    | none => p
  | _, _ => p.setZone z { p.zone z with state := .silent, source := .none }

/-- A zone in OFF switched on (R23, R28, R29). -/
def powerOnZone (z : ZoneId) (p : Part) : Part :=
  if z.follows then followFront z p
  else if z == .driver then p.setZone z { p.zone z with state := .silent }
  else match (p.zone z).source with
    | .none => p.setZone z { p.zone z with state := .silent }
    | .radio => powerRadio z p
    | .media _ => p.setZone z { p.zone z with state := .pending }

/-- HP_LEFT, HP_RIGHT and CARGO stay OFF outside ACTIVE (R23, R38). -/
def needsActive : ZoneId → Bool
  | .hpLeft | .hpRight | .cargo => true
  | _ => false

/-- ZONE_POWER for a zone (R23, R28, R29, R33). -/
def zonePower (z : ZoneId) (on : Bool) (p : Part) : Result × Part :=
  if on && needsActive z && !p.isActive then (.power, p)
  else
    let p := if z == .cargo then p.setZone z { p.zone z with autoOn := false } else p
    if !on then (.ok, powerOff z p)
    else if (p.zone z).state == .off then (.ok, powerOnZone z p)
    else (.ok, p)

/-- ZONE_SOURCE RADIO for a zone that is on (R24). DESIGN CHOICE (log entry 86): POWER comes first, before the OK of
the source that the zone has and before STATE. -/
def sourceRadio (z : ZoneId) (w : Claimant) (p : Part) : Result × Part :=
  if !p.isActive then (.power, p)
  else if (p.zone z).source == .radio && (p.zone z).state != .lost then (.ok, p)
  else match (p.zone z).chan with
    | none => (.state, p)
    | some c =>
      match p.arbitrate w c none true with
      | none => (.tunerBusy, p)
      | some (t, shared) =>
        let p := grantZone z c t shared p
        (.ok, p.setZone z { p.zone z with source := .radio, state := .pending })

/-- ZONE_SOURCE for a zone; a source code outside the list comes first (R24, R157). -/
def zoneSource (z : ZoneId) (src : Option Source) (p : Part) : Result × Part :=
  match src, claimantOf z with
  | none, _ => (.badValue, p)
  | some _, none => (.zoneRole, p)
  | some s, some w =>
    if (p.zone z).state == .off then (.ok, p.setZone z { p.zone z with source := s })
    else match s with
      | .none => (.ok, withdraw w (p.setZone z { p.zone z with source := .none, state := .silent }))
      | .media m =>
        if (p.zone z).source == .media m then (.ok, p)
        else (.ok, withdraw w (p.setZone z { p.zone z with source := .media m, state := .pending }))
      | .radio => sourceRadio z w p

/-- A step stored for a zone: a headphone zone's is limited to its seat's maximum (R25, R119). -/
def storeStep (z : ZoneId) (step : Nat) (p : Part) : Result × Part :=
  match z.rearSeat? with
  | some r =>
    let m := p.rlu.maxCopy.get r
    if m < step then (.clamped, p.setZone z { p.zone z with step := m })
    else (.ok, p.setZone z { p.zone z with step := step })
  | none => (.ok, p.setZone z { p.zone z with step := step })

/-- ZONE_VOLUME for a zone (R25). DESIGN CHOICE (log entry 41): a zone that takes no volume is refused first,
whatever the step. -/
def zoneVolume (z : ZoneId) (step : Nat) (p : Part) : Result × Part :=
  if !z.ownSource then (.zoneRole, p)
  else if 40 < step then (.badValue, p)
  else storeStep z step p

/-- The follow offset of a zone written into its ZONES entry (R26). -/
def writeOffset (z : ZoneId) (n : Nat) (p : Part) : Part :=
  { p with tst := { p.tst with zones := p.tst.zones.set z { p.tst.zones.get z with followOffset := n } } }

/-- ZONE_OFFSET for a zone; the merge of the field checks the entry first (R26, R169). DESIGN CHOICE (log entry
86): ZONE_ROLE comes before BAD_ENTRY. -/
def zoneOffset (z : ZoneId) (off : Int) (p : Part) : Result × Part :=
  if !z.follows then (.zoneRole, p)
  else
    let p := checkEntry tblZones (zoneCode z) p
    if p.unitPoisoned tblZones (zoneCode z) 0 then (.badEntry, p)
    else
      let n := clampInt 0 96 off
      (if n = off then .ok else .clamped, writeOffset z n.toNat p)

/-- CABIN_OFFSET: REAR_CABIN's follow offset moves by 4 codes within 0 to 96 (R124). -/
def cabinOffset (up : Bool) (p : Part) : RearResult × Part :=
  let p := checkEntry tblZones (zoneCode .rearCabin) p
  if p.unitPoisoned tblZones (zoneCode .rearCabin) 0 then (.state, p)
  else
    let old : Int := (p.tst.zones.get .rearCabin).followOffset
    let off := if up then old + 4 else old - 4
    let n := clampInt 0 96 off
    (if n = off then .done else .clamped, writeOffset .rearCabin n.toNat p)

/-- ZONE_MUTE for a zone (R27). -/
def zoneMute (z : ZoneId) (value : Option Bool) (p : Part) : Result × Part :=
  match value with
  | none => (.badValue, p)
  | some v => (.ok, p.setZone z { p.zone z with mute := v })

/-! ### Readiness -/

/-- A channel has a slot in the ingress map (R18). -/
def mapped (p : Part) (ch : Option Nat) : Bool :=
  match ch with
  | some c => (p.ingressSlot c).isSome
  | none => false

/-- A media source is ready (R18). -/
def mediaReady (p : Part) (k : Nat) : Bool :=
  let e := p.tst.sources.getD k {}
  mapped p e.left && mapped p e.right && !p.unitPoisoned tblSources k 0 && !p.rif.loss

/-- RADIO is ready for a zone; while a check holds the zone's readiness, as held (R19). -/
def radioReady (p : Part) (z : ZoneId) : Bool :=
  match (p.zone z).att with
  | none => false
  | some t => p.tunerReady t || (p.zone z).held.getD false

/-- A zone's source is ready. -/
def zoneReady (p : Part) (z : ZoneId) : Bool :=
  match (p.zone z).source with
  | .none => false
  | .radio => radioReady p z
  | .media k => mediaReady p k.val

/-- The held readiness is let go once the tuner is PLAYING and primed again (R19). -/
def letGo (p : Part) (z : ZoneId) : Part :=
  if (p.zone z).held.isSome && (p.zone z).att.any p.tunerReady then p.setZone z { p.zone z with held := none }
  else p

/-- The state a zone with its own source moves to by its readiness (R22). -/
def nextState (r : Zone) (ready : Bool) : ZoneState :=
  match r.state with
  | .pending => if ready then .playing else if r.source == .radio && r.att.isNone then .lost else .pending
  | .playing => if ready then .playing else .lost
  | .lost => if ready then .playing else .lost
  | s => s

/-- One zone's move at a render block (R22, R28). -/
def moveZone (p : Part) (z : ZoneId) : Part :=
  if z.ownSource then
    let q := letGo p z
    enterState z (nextState (q.zone z) (zoneReady p z)) q
  else if z.follows && (p.zone z).state != .off then followFront z p
  else p

/-! ### Targets -/

/-- Speed compensation (R31). -/
def compOf (p : Part) : Nat :=
  let f := p.zoneCfg .front
  min f.compMax (p.zmx.speed / 10 * f.compStep)

/-- The duck row of a prompt class (Table 2.6, the rows in the order of R34). -/
def duckRow : PromptClass → Nat
  | .nav => 0
  | .chime => 1
  | .safety => 2
  | .bulletin => 3
  | .ring => 4

/-- The rows present (Table 2.6). -/
def presentRows (p : Part) : List Nat :=
  (match p.anu.playing with
    | some r => [duckRow r.cls]
    | none => [])
  ++ (if p.clp.state == .active || p.clp.state == .held then [if p.clp.isPrivate then 6 else 5] else [])

/-- A row present is poisoned, so that its activity mutes the entertainment of every zone (R34). -/
def duckMuted (p : Part) : Bool := (presentRows p).any fun r => p.unitPoisoned tblDucks r 0

/-- The duck term: the largest value among the present rows (R34). -/
def duckOf (p : Part) (z : ZoneId) : Nat := ((presentRows p).map fun r => p.duckCode r z).foldl max 0

/-- The rear-quiet term (R32). -/
def rearQuiet (p : Part) (z : ZoneId) : Nat :=
  if z == .rearCabin && ((p.zone .hpLeft).state == .playing || (p.zone .hpRight).state == .playing) then
    (p.zoneCfg .rearCabin).rearQuiet
  else 0

/-- The source trim term (Table 2.7). -/
def sourceTrim (p : Part) (s : Source) : Nat :=
  match s with
  | .media k => (p.tst.sources.getD k.val {}).trim
  | .radio => p.radioCfg.trim
  | .none => 0

/-- The soft mute term: of the attached tuner, or of the one being left (Table 2.7). -/
def softMuteTerm (p : Part) (r : Zone) : Nat :=
  match r.source, r.att with
  | .radio, some t => (p.tuner t).softMute
  | _, _ => 0

/-- An attached tuner is not PLAYING (R35). -/
def tunerAway (p : Part) (r : Zone) : Bool :=
  r.source == .radio && (r.att.any (fun t => (p.tuner t).state != .playing)
    || r.att2.any fun t => (p.tuner t).state != .playing)

/-- The entertainment target (R34, R35). -/
def entTarget (p : Part) (z : ZoneId) : Nat :=
  let r := p.zone z
  let cfg := p.zoneCfg z
  let curve := p.curveCode cfg.headphoneCurve r.step
  if p.ramping || r.state != .playing || r.mute || z == .driver || tunerAway p r || curve == mute
      || duckMuted p then mute
  else codeSum [curve, sourceTrim p r.source, softMuteTerm p r, rearQuiet p z,
    if z.follows then cfg.followOffset else 0, duckOf p z, if cfg.speedComp then -(compOf p : Int) else 0]

/-- The prompt target (R36). -/
def prmTarget (p : Part) (z : ZoneId) : Nat :=
  match p.anu.playing with
  | none => mute
  | some q =>
    if p.ramping || !q.zones.get z || (p.zone z).state == .off then mute
    else codeSum [q.level, (p.zoneCfg z).promptOffset,
      if p.clp.state == .active && q.cls == .nav && p.clp.zones.get z then p.callCfg.navDuck else 0]

/-- The call target (R37). -/
def callTarget (p : Part) (z : ZoneId) : Nat :=
  if p.ramping || p.clp.state != .active || !p.clp.zones.get z || (p.zone z).state == .off then mute
  else codeSum [p.callCfg.level, (p.zoneCfg z).callOffset]

/-- A level with its new target, ramped (R7). -/
def Level.toward (l : Level) (up down target : Nat) : Level := ⟨target, ramp up down target l.applied⟩

/-- The call level: cut when its target is MUTE, ramped otherwise (R8). -/
def Level.call (l : Level) (up down target : Nat) : Level :=
  if target = mute then ⟨mute, mute⟩ else l.toward up down target

/-- A zone's targets and applied codes after a render block (R7, R8, R35 to R37). -/
def mixZone (p : Part) (z : ZoneId) : Zone :=
  let r := p.zone z
  let cfg := p.zoneCfg z
  { r with ent := r.ent.toward cfg.attack cfg.release (entTarget p z)
           prm := r.prm.toward cfg.attack cfg.release (prmTarget p z)
           call := r.call.call cfg.attack cfg.release (callTarget p z) }

/-- All targets and applied codes after a render block. -/
def mixZones (p : Part) : Part := { p with zmx := { p.zmx with zones := .of (mixZone p) } }

/-- The SOURCES entries and cargo-auto as a render block takes them; a poisoned entry gives no channel and the
power-on flag (R17, R20). -/
def takeTables (p : Part) : Part :=
  { p with zmx := { p.zmx with
      sources := p.tst.sources.zipIdx.map fun x => if p.unitPoisoned tblSources x.2 0 then {} else x.1
      cargoAuto := (p.zoneCfg .cargo).cargoAuto } }

/-- ZMX_RENDER_BLOCK: readiness is judged, the zones move, the targets are computed and the applied codes ramp;
a POWER_DOWN ramp counts the block. The SOURCES entries and cargo-auto are in force from now as they stand (R17,
R20, R22, R35 to R37, R174). DESIGN CHOICE (log entry 61): the zones move, and post their ZONE_LOST, in the order of
their ids. -/
def zmxBlock (p : Part) : Part :=
  if !p.running then p
  else
    let p := ownerReads [tblSources, tblZones, tblCurves, tblDucks, tblRadio, tblCall] p
    let p := takeTables { p with pwc := { p.pwc with ramp := p.pwc.ramp.map (· + 1) } }
    mixZones (ZoneId.all.foldl moveZone p)

/-! ### The tailgate and the power modes -/

/-- CARGO at a change of tailgate position (R33). -/
def cargoAuto (open? : Bool) (p : Part) : Part :=
  if open? then
    if p.cargoAuto && (p.zone .cargo).state == .off && p.isActive then
      let p := powerOnZone .cargo p
      p.setZone .cargo { p.zone .cargo with autoOn := true }
    else p
  else if (p.zone .cargo).autoOn then powerOff .cargo p
  else p

/-- A zone is on RADIO and PENDING or PLAYING (R38). -/
def Zone.onAir (r : Zone) : Bool := r.source == .radio && (r.state == .pending || r.state == .playing)

/-- The zones on entry to REDUCED: HP_LEFT, HP_RIGHT and CARGO to OFF, the other zones on RADIO that are PENDING
or PLAYING to LOST, and REAR_CABIN, unless it is OFF, with such a FRONT (R38). DESIGN CHOICE (log entry 69):
FRONT's ZONE_LOST is posted before REAR_CABIN's. -/
def zonesReduced (p : Part) : Part :=
  let p := powerOff .cargo (powerOff .hpRight (powerOff .hpLeft p))
  let front := (p.zone .front).onAir
  let cabin := (p.zone .rearCabin).onAir || front && (p.zone .rearCabin).state != .off
  let p := if front then enterState .front .lost p else p
  if cabin then enterState .rearCabin .lost p else p

end Sys2Proof.Machine
end

