-- ==== Sys2Proof/Machine/Render.lean ====
section
/-! DEFINITION. The Render Matrix (chapter 3): bank sums, delay lines and outputs, the tailgate and its trim
ramps, and the bank exchange. -/

namespace Sys2Proof.Machine

/-! ### Bank sums -/

/-- The side sample a contribution takes from the zone buses; zone 6 or 7 gives 0 (R42). -/
def sideSample (bus : PerZone (Sample × Sample)) (c : Contribution) : Sample :=
  match zoneOf c.zone with
  | none => 0
  | some z =>
    let b := bus.get z
    match c.side with
    | .l => b.1
    | .r => b.2
    | .mid => midOf b.1 b.2

/-- The products of an entry's contributions; a poisoned contribution adds 0 (R42, R51). -/
def renderTerms (p : Part) (bank : BankId) (i : Nat) (e : RenderEntry) : List (Sample × Nat) :=
  (e.contribs.take e.count).zipIdx.map fun x =>
    if p.unitPoisoned (bankTable bank) i (x.2 + 1) then (0, mute) else (sideSample p.zmx.bus x.1, x.1.applied)

/-- The round-sum of a bank's entry before saturation; 0 for a disabled entry and for one whose head is poisoned
(R42, R51). -/
def rawBankSum (p : Part) (bank : BankId) (i : Nat) (e : RenderEntry) : Int :=
  if !e.enabled || p.unitPoisoned (bankTable bank) i 0 then 0 else roundSum (products (renderTerms p bank i e))

/-- The saturated bank sums of a bank, in index order (R42). -/
def bankSums (p : Part) (bank : BankId) : List Sample :=
  (p.bank bank).zipIdx.map fun x => saturate (rawBankSum p bank x.2 x.1)

/-! ### Delay lines and outputs -/

/-- A bank sum pushed into a delay line, which holds the current sum and the 480 before it (R43). -/
def pushLine (line : List Sample) (x : Sample) : List Sample := (x :: line).take 481

/-- The read of a bank for an output: the bank sum formed `delay` frames earlier (R43). -/
def readLine (line : List Sample) (delay : Nat) : Sample := line.getD delay 0

/-- The delayed reads of a bank, in index order (R43). DESIGN CHOICE (log entry 51): each line is read at the delay
its entry stores, also while the entry's head is poisoned. -/
def bankReads (lines : List (List Sample)) (es : List RenderEntry) : List Sample :=
  lines.zipWith (fun l e => readLine l e.delay) es

/-- The lines of a bank. -/
def Rmx.lines (r : Rmx) : BankId → List (List Sample)
  | .a => r.linesA
  | .b => r.linesB

/-- The output clip counters after a frame: the active bank's saturations are counted (R44). -/
def countClips (p : Part) : List Nat :=
  p.rmx.clips.zipWith (fun c x => if clips (rawBankSum p p.rmx.active x.2 x.1) then count16 c 1 else c)
    (p.bank p.rmx.active).zipIdx

/-- The outputs of a frame: the active bank's reads, or their crossfade with the retiring bank's (R44, R48). -/
def outputsOf (r : Rmx) (bank : BankId → List RenderEntry) : List Sample :=
  let new := bankReads (r.lines r.active) (bank r.active)
  match r.crossfade with
  | none => new
  | some k => (bankReads (r.lines r.active.other) (bank r.active.other)).zipWith (crossfade (bankWeight k)) new

/-- The Render Matrix at a ring frame (R42 to R44, R48). -/
def renderFrame (p : Part) : Part :=
  let r := { p.rmx with linesA := p.rmx.linesA.zipWith pushLine (bankSums p .a)
                        linesB := p.rmx.linesB.zipWith pushLine (bankSums p .b)
                        clips := countClips p }
  { p with rmx := { r with outputs := outputsOf r p.bank } }

/-! ### Trims -/

/-- A contribution's code in the column in force (R45). -/
def columnTrim (tailgateOpen : Bool) (c : Contribution) : Nat := if tailgateOpen then c.trimOpen else c.trimClosed

/-- Every contribution of an entry with its applied trim at its code in the column in force; a contribution field
beyond the count holds none, and reads 0 (R40, R182). -/
def settleTrims (tailgateOpen : Bool) (e : RenderEntry) : RenderEntry :=
  { e with contribs := e.contribs.zipIdx.map fun x =>
      { x.1 with applied := if x.2 < e.count then columnTrim tailgateOpen x.1 else 0 } }

/-- One render block of an entry's trims (R9, R45). A poisoned contribution has no trim that ramps (R51). -/
def rampEntry (p : Part) (bank : BankId) (i : Nat) (e : RenderEntry) : RenderEntry :=
  { e with contribs := e.contribs.zipIdx.map fun x =>
      if x.2 < e.count && !p.unitPoisoned (bankTable bank) i (x.2 + 1) then
        { x.1 with applied := trimRamp (columnTrim p.rmx.tailgateOpen x.1) x.1.applied }
      else x.1 }

/-- One render block of a bank's trims. -/
def rampBank (bank : BankId) (p : Part) : Part :=
  p.setBank bank ((p.bank bank).zipIdx.map fun x => rampEntry p bank x.2 x.1)

/-! ### The bank exchange -/

/-- An entry fails validation: poisoned, a delay above 480, or a contribution that names zone 6 or 7 (R46). DESIGN
CHOICE (log entry 43): a poisoned contribution field beyond the count fails too. -/
def entryFails (p : Part) (bank : BankId) (i : Nat) (e : RenderEntry) : Bool :=
  p.entryPoisoned (bankTable bank) i || 480 < e.delay || (e.contribs.take e.count).any fun c => 5 < c.zone

/-- The index of the first entry of a bank that fails validation (R46). -/
def firstFailing (p : Part) (bank : BankId) : Option Nat :=
  ((p.bank bank).zipIdx.find? fun x => entryFails p bank x.2 x.1).map (·.2)

/-- The validation of the inactive bank: the entries are read and checked in index order up to the first that fails,
whose index it gives (R46, R169). -/
def validateFrom (bank : BankId) : List Nat → Part → Option Nat × Part
  | [], p => (none, p)
  | i :: rest, p =>
    let p := checkEntry (bankTable bank) i p
    if entryFails p bank i ((p.bank bank).getD i {}) then (some i, p) else validateFrom bank rest p

/-- BANK_SWAP: the result, the byte of its owner body, and the part (R46, R47). -/
def bankSwap (p : Part) : Result × Option Nat × Part :=
  if p.rmx.crossfade.isSome then (.busy, none, p)
  else
    let new := p.rmx.active.other
    let x := validateFrom new (List.range (p.bank new).length) p
    match x.1 with
    | some i => (.badBank, some i, x.2)
    | none =>
      let p := x.2
      let p := { p with rmx := { p.rmx with active := new, crossfade := some 0 } }
      (.ok, some (bankCode new), setSignature { p.clp.sig with bank := new } p)

/-- The end of the crossfade: STEADY, BANK_SWAPPED with the active bank (R48). -/
def endCrossfade (p : Part) : Part :=
  { p with rmx := { p.rmx with crossfade := none } }.post .bankSwapped (bankCode p.rmx.active)

/-- The crossfade at a render block: the step rises by one up to 16, and at the block after step 16 the
crossfade ends (R48). -/
def stepCrossfade (p : Part) : Part :=
  match p.rmx.crossfade with
  | none => p
  | some k => if k < 16 then { p with rmx := { p.rmx with crossfade := some (k + 1) } } else endCrossfade p

/-- RMX_RENDER_BLOCK: the trims ramp and the crossfade moves on (R9, R45, R48). -/
def rmxBlock (p : Part) : Part :=
  if p.running then stepCrossfade (rampBank .b (rampBank .a (ownerReads [tblRenderA, tblRenderB] p))) else p

/-- BANK_CROSSFADE_END: the render block after step 16 (R48). -/
def bankCrossfadeEnd (p : Part) : Part :=
  if p.running && p.rmx.crossfade == some 16 then endCrossfade p else p

/-! ### The tailgate -/

/-- A tailgate position taken from a VEHICLE_STATE: a change sets the column in force, and the Zone Mixer and
the Call Processor are told (R45, R33, R145). DESIGN CHOICE (log entry 85): the Zone Mixer first, so that CARGO's
ZONE_LOST is posted before CANCELLER. -/
def takeTailgate (isOpen : Bool) (p : Part) : Part :=
  if p.rmx.tailgateOpen == isOpen then p
  else
    let p := cargoAuto isOpen { p with rmx := { p.rmx with tailgateOpen := isOpen } }
    setSignature { p.clp.sig with openCol := isOpen } p

end Sys2Proof.Machine
end

