-- ==== Sys2Proof/Machine/Audio.lean ====
section
/-! DEFINITION. The audio of a ring frame, block by block: rate adapters and blend (R62, R65), the chime sample
(R111), the zone buses (R6), the outputs, the seat signals, contexts and meters (R140, R141, R144, R146), and
the uplink (R148). -/

namespace Sys2Proof.Machine

/-! ### Rate adapters and radio signals -/

/-- One side of an adapter's output between its two oldest samples (R65). -/
def interpolate (s0 s1 : Sample) (phase : Nat) : Sample := s0 + ((s1 - s0) * phase + 8388608) / 16777216

/-- A primed adapter at a ring frame: its output pair, or none for an underflow (R65). -/
def adapterOutput (a : Adapter) : Option (Sample × Sample) :=
  match a.fifo with
  | s0 :: s1 :: _ => some (interpolate s0.1 s1.1 a.phase, interpolate s0.2 s1.2 a.phase)
  | _ => none

/-- The read position moves on: 2^24 + T is added to the phase, and a sample is removed for each 2^24 (R65). -/
def advanceAdapter (a : Adapter) (out : Sample × Sample) : Adapter :=
  let x := ((a.phase : Int) + 16777216 + a.trim).toNat
  { a with last := out, phase := x % 16777216, fifo := a.fifo.drop (x / 16777216) }

/-- A tuner's adapter at a ring frame; an underflow repeats the last pair, is counted, and is reported as a slip
(R65, R66). -/
def adapterFrame (t : TunerId) (p : Part) : Part :=
  let r := p.tuner t
  if r.adapter.primed then
    match adapterOutput r.adapter with
    | some out => p.setTuner t { r with adapter := advanceAdapter r.adapter out }
    | none => (p.setTuner t { r with underflows := count16 r.underflows 1 }).fault .slip (some (tunerCode t))
  else p

/-- The blend of a pair at a separation (R62). -/
def blend (sep : Nat) (pair : Sample × Sample) : Sample × Sample :=
  let m := pair.1 + pair.2
  let d := ((sep : Int) * (pair.1 - pair.2)).tdiv 100
  ((m + d) / 2, (m - d) / 2)

/-- A tuner's radio signal: its blended last pair, or 0, 0 while its adapter is not primed (R75). -/
def radioSignal (p : Part) (t : TunerId) : Sample × Sample :=
  let r := p.tuner t
  if r.adapter.primed then blend r.sep r.adapter.last else (0, 0)

/-- The radio signal of a zone: of its tuner, or the crossfade of the tuner left and the one joined (R75, R90). DESIGN
CHOICE (log entry 84): a zone that is attached to no tuner has 0, 0 at once, also while its applied code still ramps. -/
def zoneRadio (p : Part) (r : Zone) : Sample × Sample :=
  match r.att, r.att2 with
  | some t, some u =>
    let w := switchWeight (p.follow t).step
    let old := radioSignal p t
    let new := radioSignal p u
    (crossfade w old.1 new.1, crossfade w old.2 new.2)
  | some t, none => radioSignal p t
  | none, _ => (0, 0)

/-! ### Sources -/

/-- The sample of an input channel; 0 where none is named (R4, R152). -/
def channelSample (p : Part) (ch : Option Nat) : Sample :=
  match ch with
  | some c => p.rif.channels.getD c 0
  | none => 0

/-- The samples of a media source, by its channels as at the last render block; while its entry is poisoned they
are free values (R17, log entry 3). -/
def mediaSignal (p : Part) (k : Nat) : Sample × Sample :=
  if p.unitPoisoned tblSources k 0 then
    (saturate (Config.poisonedMedia p.draws k false), saturate (Config.poisonedMedia p.draws k true))
  else
    let e := p.zmx.sources.getD k {}
    (channelSample p e.left, channelSample p e.right)

/-- The sample of a mono source: PHONE_DOWN at index 4, NAV_VOICE at index 5; 0 while poisoned (R17). -/
def monoSignal (p : Part) (k : Nat) : Sample :=
  if p.unitPoisoned tblSources k 0 then 0 else channelSample p (p.zmx.sources.getD k {}).left

/-- The entertainment signal of a zone (R6, R75). -/
def entSignal (p : Part) (r : Zone) : Sample × Sample :=
  match r.source with
  | .none => (0, 0)
  | .radio => zoneRadio p r
  | .media k => mediaSignal p k.val

/-- The signal of the playing prompt (R106). DESIGN CHOICE (log entry 40): with none playing it is 0, 0 at once,
also while a zone's prompt applied code still ramps to 384. -/
def promptSignal (p : Part) : Sample × Sample :=
  match p.anu.playing with
  | none => (0, 0)
  | some r => match r.source with
    | .navVoice => (monoSignal p 5, monoSignal p 5)
    | .pattern _ => (p.anu.sample, p.anu.sample)
    | .tuner t => radioSignal p t

/-- The chime generator at a ring frame: its sample is formed and its phase moves on (R111). -/
def chimeFrame (a : Anu) : Anu :=
  match a.chime.segment with
  | none => { a with sample := 0 }
  | some s =>
    { a with sample := scale (toneSample a.chime.phase) s.level
             chime := { a.chime with phase := (a.chime.phase + a.chime.increment) % 4294967296 } }

/-! ### Zone buses -/

/-- The two round-sums of a zone's bus before saturation (R6). -/
def rawBus (p : Part) (z : ZoneId) : Int × Int :=
  let r := p.zone z
  let e := entSignal p r
  let q := promptSignal p
  let c := monoSignal p 4
  (roundSum (products [(e.1, r.ent.applied), (q.1, r.prm.applied), (c, r.call.applied)]),
   roundSum (products [(e.2, r.ent.applied), (q.2, r.prm.applied), (c, r.call.applied)]))

/-- How many sides of a bus saturate. -/
def busClips (b : Int × Int) : Nat := codeOfBool (clips b.1) + codeOfBool (clips b.2)

/-- The zone buses of a frame, saturated and counted (R5, R6). -/
def zoneFrame (p : Part) : Part :=
  { p with zmx := { p.zmx with
      bus := .of fun z => (saturate (rawBus p z).1, saturate (rawBus p z).2)
      zones := .of fun z => { p.zone z with clip := count16 (p.zone z).clip (busClips (rawBus p z)) } } }

/-! ### Seats -/

/-- A seat's signal: its microphone, or the floor mean of its two, scaled by its gain (R140). -/
def seatSignal (cfg : SeatCfg) (mics : List Sample) : Sample :=
  let a := mics.getD cfg.mic1 0
  let x := match cfg.mic2 with
    | some m => midOf a (mics.getD m 0)
    | none => a
  scale x cfg.gain

/-- The reference zone of a seat's context (R144). -/
def referenceZone (c : Clp) : Seat → ZoneId
  | .driver => if c.isPrivate then .driver else .front
  | .passenger => .front
  | .rearLeft => if c.zones.hpLeft then .hpLeft else .rearCabin
  | .rearRight => if c.zones.hpRight then .hpRight else .rearCabin

/-- The reference sample of a seat's context, the MID of its reference zone's bus (R144). -/
def referenceSample (p : Part) (k : Seat) : Sample :=
  let b := p.zmx.bus.get (referenceZone p.clp k)
  midOf b.1 b.2

/-- The echo estimate: 0 in RESET and with a cleared filter, otherwise a free value (R144, log entry 2). -/
def estimateOf (p : Part) (k : Seat) : Int :=
  let s := p.seat k
  if s.context == .reset || s.filterClear then 0 else Config.echoEstimate p.draws k

/-- The square of a sample, as the window sums take it. -/
def square (x : Sample) : Nat := x.natAbs * x.natAbs

/-- A seat at a ring frame: its signal, its residual, the sums of the windows that run, and its filter, which
adapts while the context runs in ACTIVE (R140, R141, R144, R146). -/
def seatFrame (p : Part) (mics : List Sample) (k : Seat) : SeatRt :=
  let s := p.seat k
  let x := seatSignal (p.seatCfg k) mics
  let e := saturate (x - estimateOf p k)
  let ref := referenceSample p k
  let adapts := s.context != .reset && p.clp.state == .active
  { s with
    signal := x
    residual := e
    meterSum := if s.meterOpen then s.meterSum + square x else s.meterSum
    micSum := if s.windowOpen then s.micSum + square x else s.micSum
    resSum := if s.windowOpen then s.resSum + square e else s.resSum
    refSum := if s.windowOpen then s.refSum + square ref else s.refSum
    filterClear := s.filterClear && !adapts }

/-- The Call Processor at a ring frame: the seats, and the uplink sample (R140 to R148). -/
def callFrame (mics : List Sample) (p : Part) : Part :=
  let seats := PerSeat.of (seatFrame p mics)
  { p with clp := { p.clp with seats := seats
                               uplink := scale (seats.get p.carried).residual p.clp.uplinkCode } }

/-! ### The frame -/

/-- The tables, the render banks apart, whose entries the blocks read at a ring frame (R169). -/
def frameTables : List Nat := [tblIngress, tblEgress, tblSources, tblSeats]

/-- The render banks: what a frame's read finds in them takes effect from the next frame (R51, R169). DESIGN CHOICE (log
entry 94): the inactive bank is read as the active one is, as its sums are formed and its trims ramp (R42, R43, R45). -/
def renderTables : List Nat := [tblRenderA, tblRenderB]

/-- The audio of one ring frame, each block in turn; the count of free values moves on (R4, R62 to R65, R106,
R111, R42 to R44, R140 to R148). DESIGN CHOICE (log entry 74): tuner A's adapter comes before B's, and with it its
slip's report. -/
def audioFrame (mics : List Sample) (p : Part) : Part :=
  let p := adapterFrame .b (adapterFrame .a p)
  let p := zoneFrame { p with anu := chimeFrame p.anu }
  let p := callFrame mics (renderFrame p)
  { p with draws := p.draws + 1 }

end Sys2Proof.Machine
end

