-- ==== Sys2Proof/Machine/Reads.lean ====
section
/-! DEFINITION. The table directory and the byte forms of every table's entries (Tables 9.3, 12.6 and 12.8), and
TABLE_READ (R163), TABLE_SHARE (R162) and COUNTERS_READ (R50). -/

namespace Sys2Proof.Machine

/-- An owner's answer to a request: its result, its owner body, and the part after it (R157, R158). -/
structure Answer where
  result : Result
  body : List Byte := []
  part : Part

/-- An answer with no owner body. -/
def answer (a : Result × Part) : Answer := { result := a.1, part := a.2 }

/-! ### The directory -/

/-- The entries of the 18 tables in directory order (Table 9.3). -/
def directory : List Nat := tableSizes ++ [2, 6, 13, 1]

/-- The bytes of each field of a table's entries, at most (Tables 12.6 and 12.8). -/
def fieldSizes : Nat → List Nat
  | 0 => [1]
  | 1 => [1]
  | 2 => [1, 1, 2]
  | 3 => [1, 1, 1, 1, 1, 1, 1, 2, 1, 1, 1]
  | 4 => [42, 40]
  | 5 => [2, 2, 2, 2, 2, 2]
  | 6 => [1, 2, 1, 8, 8, 8, 8]
  | 7 => [1, 2, 1, 8, 8, 8, 8]
  | 8 => [1, 2, 1, 8, 19, 19, 1, 1]
  | 9 => [1, 2, 4, 2, 2, 2, 3, 2, 2, 4, 4, 3, 1]
  | 10 => [2, 6, 6, 6, 6, 6, 6, 6, 6]
  | 11 => [2, 2, 1]
  | 12 => [2, 1, 1, 1, 1, 1, 2, 2, 2, 1, 1]
  | 13 => [1, 1, 1]
  | 14 => [1, 3, 8, 4, 4, 2, 5, 2]
  | 15 => [1, 1, 3, 1, 2, 1, 1, 4, 4, 4, 1, 2]
  | 16 => [2, 1, 1, 1, 2, 4, 1, 4, 2]
  | 17 => [1, 1, 1, 2, 2, 2, 3, 2, 3, 12, 12, 12, 12]
  | _ => []

/-- A mask is not empty and names only fields of the table (R163, R164). -/
def maskOk (table mask : Nat) : Bool := mask != 0 && mask < 2 ^ (fieldSizes table).length

/-- The members of a list whose positions a mask names. -/
def selected {α : Type} (mask : Nat) (l : List α) : List α :=
  (l.zipIdx.filter fun x => mask.testBit x.2).map (·.1)

/-! ### The fields of the loaded tables -/

/-- The fields of a ZONES entry. -/
def zoneCfgFields (c : ZoneCfg) : List (List Byte) :=
  [byte1 c.attack, byte1 c.release, byte1 (codeOfBool c.speedComp), byte1 c.promptOffset, byte1 c.callOffset,
   byte1 (codeOfBool c.headphoneCurve), byte1 c.followOffset, byte2 c.rearQuiet, byte1 (codeOfBool c.cargoAuto),
   byte1 c.compStep, byte1 c.compMax]

/-- A contribution field; the applied trim of one beyond the count reads 0 (R182). -/
def contributionField (count : Nat) (x : Contribution × Nat) : List Byte :=
  byte1 x.1.zone ++ byte1 (sideCode x.1.side) ++ byte2 x.1.trimClosed ++ byte2 x.1.trimOpen
    ++ byte2 (if x.2 < count then x.1.applied else 0)

/-- The fields of a render entry. -/
def renderFields (e : RenderEntry) : List (List Byte) :=
  [byte1 (codeOfBool e.enabled), byte2 e.delay, byte1 e.count] ++ e.contribs.zipIdx.map (contributionField e.count)

/-- A list-item field: the count, then each frequency with its last quality (Table 12.6). -/
def itemsField (items : List Item) : List Byte :=
  byte1 items.length ++ items.flatMap fun i => byte2 i.freq ++ byte1 (codeOfOption i.quality 255)

/-- The fields of a STATIONS entry (Table 12.6). -/
def stationFields (e : Station) (mark : Bool) : List (List Byte) :=
  [byte1 1, byte2 e.code, byte1 (bandCode e.band), e.label.getD (List.replicate 8 0#8), itemsField (e.items.take 6),
   itemsField (e.items.drop 6), byte1 (codeOfOption e.favourite 0),
   byte1 (codeOfBool e.capable + 2 * codeOfBool e.active + 4 * codeOfBool mark + 8 * codeOfBool e.learned)]

/-- The fields of the RADIO_CFG entry. -/
def radioFields (c : RadioCfg) : List (List Byte) :=
  [byte1 c.fsFloor, byte1 c.blendLo ++ byte1 c.blendHi, byte1 c.muteHi ++ byte1 c.muteSlope ++ byte2 c.muteMax,
   byte2 c.trim, byte1 c.seekThreshold ++ byte1 c.scanThreshold,
   byte1 (codeOfOption c.addresses.a 255) ++ byte1 (codeOfOption c.addresses.b 255),
   byte1 (codeOfBool c.afEnable) ++ byte1 (codeOfBool c.background) ++ byte1 (codeOfBool c.bulletins),
   byte1 c.afThreshold ++ byte1 c.afMargin, byte2 c.afHold, byte4 c.afAge, byte4 c.afBlindInterval,
   byte1 (zoneSetCode c.bulletinZones) ++ byte2 c.bulletinLevel, byte1 c.captureTrigger]

/-- The fields of a CHIMES entry. -/
def chimeFields (c : Pattern) : List (List Byte) :=
  (byte1 c.count ++ byte1 c.repeats) ::
    c.segments.map fun s => byte2 s.freq ++ byte2 s.duration ++ byte2 s.level

/-- The fields of a SEATS entry. -/
def seatFields (c : SeatCfg) : List (List Byte) :=
  [byte1 c.mic1 ++ byte1 (codeOfOption c.mic2 255), byte2 c.gain, byte1 c.window]

/-- The fields of the CALL_CFG entry. -/
def callFields (c : CallCfg) : List (List Byte) :=
  [byte2 c.level, byte1 (zoneSetCode c.defaultZones), byte1 c.ringPattern, byte1 c.navDuck, byte1 c.gateLevel,
   byte1 c.switchMargin, byte2 c.talkerHold, byte2 c.gateAtt, byte2 c.uplinkBase, byte1 c.convErle, byte1 c.divErle]

/-- The allowed sources as a byte (Table 12.8). -/
def sourceSetCode (s : SourceSet) : Nat :=
  codeOfBool s.radio + 2 * codeOfBool s.media1 + 4 * codeOfBool s.media2 + 8 * codeOfBool s.media3
    + 16 * codeOfBool s.media4

/-- The fields of an ADMISSION entry. -/
def admissionFields (a : Admission) : List (List Byte) :=
  [[a.flags], byte1 a.maxStep, byte1 (sourceSetCode a.allowed)]

/-! ### The fields of the runtime tables -/

/-- Band and frequency (Table 12.8). -/
def chanField (c : Option Chan) : List Byte :=
  match c with
  | some c => byte1 (bandCode c.band) ++ byte2 c.freq
  | none => byte1 255 ++ byte2 0

/-- The claim list field: a count and seven bytes (Table 12.8). -/
def claimsField (cs : List Claim) : List Byte :=
  byte1 cs.length ++ ((cs.flatMap fun c => byte1 (claimCode c)) ++ List.replicate 7 0#8).take 7

/-- The fields of a TUNER_STATE entry (Table 4.1, R53). -/
def tunerFields (r : Tuner) : List (List Byte) :=
  [byte1 (tunerStateCode r.state), chanField r.chan, claimsField r.claims, byte1 r.q ++ byte2 r.s ++ byte1 r.qs,
   byte1 (codeOfBool r.pilot) ++ byte1 r.sep ++ byte2 r.softMute, byte2 (codeOfOption r.heard 0),
   byte2 r.adapter.fifo.length ++ byteS2 r.adapter.trim ++ byte1 (codeOfBool r.adapter.primed),
   byte1 r.missed ++ byte1 (codeOfBool r.settle)]

/-- A target and its applied code. -/
def levelField (l : Level) : List Byte := byte2 l.target ++ byte2 l.applied

/-- The attached tuners as bits (Table 12.8). -/
def attachedCode (r : Zone) : Nat :=
  (if r.att == some .a || r.att2 == some .a then 1 else 0) + (if r.att == some .b || r.att2 == some .b then 2 else 0)

/-- The fields of a ZONE_STATE entry (Table 2.3). -/
def zoneFields (r : Zone) : List (List Byte) :=
  [byte1 (zoneStateCode r.state), byte1 (sourceCode r.source), chanField r.chan, byte1 (codeOfOption r.station 255),
   byte2 (codeOfOption r.code 0), byte1 r.step, byte1 (codeOfBool r.mute + 2 * codeOfBool r.autoOn),
   levelField r.ent, levelField r.prm, levelField r.call, byte1 (attachedCode r), byte2 r.clip]

/-- The fields of a PROMPT_STATE entry; the time and the position are those of the playing record alone
(Table 6.1). Table 12.8 gives the position bytes 0 for a source other than a pattern; that those of a waiting prompt
with a pattern source are 0 too is the model's choice (DESIGN CHOICE, log entry 56). -/
def promptFields (playing : Bool) (r : Prompt) : List (List Byte) :=
  let patterned := match r.source with
    | .pattern _ => playing
    | _ => false
  [byte2 r.tag, byte1 (classCode r.cls), byte1 (promptSourceCode r.source), byte1 (zoneSetCode r.zones),
   byte2 r.level, byte4 (codeOfOption r.maxDuration 0), byte1 (codeOfBool r.front),
   byte4 (if playing then r.elapsed else 0), if patterned then byte1 r.pass ++ byte1 r.segment else byte2 0]

/-- The record of a PROMPT_STATE entry: 0 the playing one, 1 to 12 the waiting ones (R99). -/
def promptEntry (a : Anu) (i : Nat) : Option Prompt := if i = 0 then a.playing else a.waiting[i - 1]?

/-- A path signature as three bytes (Table 12.8). -/
def signatureField (s : Signature) : List Byte :=
  byte1 (bankCode s.bank) ++ byte1 (codeOfBool s.openCol) ++ byte1 (zoneSetCode s.zones)

/-- A seat's record in CALL_STATE (Table 12.8). DESIGN CHOICE (log entry 63): the column and zone-set bytes of an absent
recorded signature are 0. -/
def seatRecord (s : SeatRt) : List Byte :=
  byte1 s.v ++ byte1 (contextCode s.context) ++ byte1 s.erle ++ byte2 s.convTimer ++ byte2 s.divTimer
    ++ byte2 s.divCount ++ (match s.sig with
      | some g => signatureField g
      | none => byte1 255 ++ byte2 0)

/-- A set of seats as bits. -/
def seatSetCode (s : PerSeat Bool) : Nat :=
  codeOfBool s.driver + 2 * codeOfBool s.passenger + 4 * codeOfBool s.rearLeft + 8 * codeOfBool s.rearRight

/-- The joined seats, as bits: a rear seat whose headphone zone is in the call zone set (R129). -/
def joinedCode (c : Clp) : Nat := 4 * codeOfBool c.zones.hpLeft + 8 * codeOfBool c.zones.hpRight

/-- The fields of the CALL_STATE entry (Table 8.1). The time bytes of a stopped above-gate time, of which the spec
says nothing, are 0 (DESIGN CHOICE, log entry 57). -/
def callStateFields (c : Clp) : List (List Byte) :=
  [byte1 (callStateCode c.state), byte1 (codeOfBool c.isPrivate), byte1 (zoneSetCode c.zones),
   byte1 (seatSetCode c.admitted) ++ byte1 (joinedCode c), byte2 (codeOfOption c.ringTag 0),
   byte1 (codeOfOption (c.talker.map seatCode) 255) ++ byte1 (seatCode c.lastTalker),
   byte1 (codeOfBool c.aboveGate.isSome) ++ byte2 (c.aboveGate.getD 0), byte2 c.uplinkCode, signatureField c.sig]
    ++ c.seats.toList.map seatRecord

/-! ### Entries -/

/-- The fields of an entry, as stored or as built from the runtime records; none for a free STATIONS index
(R162, R163). -/
def entryFields (p : Part) (table i : Nat) : Option (List (List Byte)) :=
  match table with
  | 0 => some [byte1 (codeOfOption (p.tst.ingress.getD i none) 255)]
  | 1 => some [byte1 (codeOfOption (p.tst.egress.getD i none) 255)]
  | 2 =>
    let e := p.tst.sources.getD i {}
    some [byte1 (codeOfOption e.left 255), byte1 (codeOfOption e.right 255), byte2 e.trim]
  | 3 => (zoneOf i).map fun z => zoneCfgFields (p.tst.zones.get z)
  | 4 =>
    let c := p.tst.curves.getD i Curve.powerOn
    some [c.low.flatMap byte2, c.high.flatMap byte2]
  | 5 => some ((p.tst.ducks.getD i (.of fun _ => 0)).toList.map byte2)
  | 6 => some (renderFields (p.tst.renderA.getD i {}))
  | 7 => some (renderFields (p.tst.renderB.getD i {}))
  | 8 =>
    let s := p.tst.stations.getD i {}
    s.entry.map fun e => stationFields e s.mark
  | 9 => some (radioFields p.tst.radio)
  | 10 => some (chimeFields (p.tst.chimes.getD i {}))
  | 11 => (Seat.all[i]?).map fun k => seatFields (p.tst.seats.get k)
  | 12 => some (callFields p.tst.call)
  | 13 => some (admissionFields (p.tst.admission.get (if i = 0 then .left else .right)))
  | 14 => some (tunerFields (p.tuner (if i = 0 then .a else .b)))
  | 15 => (zoneOf i).map fun z => zoneFields (p.zone z)
  | 16 => some (match promptEntry p.anu i with
      | some r => promptFields (i == 0) r
      | none => (fieldSizes 16).map fun n => List.replicate n 0#8)
  | 17 => some (callStateFields p.clp)
  | _ => none

/-- One returned entry: its index byte with the free and POISONED marks, and its selected fields (section 12.3). -/
def entryBytes (p : Part) (table i mask : Nat) (poisoned : Bool) : List Byte :=
  if poisoned then byte1 (i + 128)
  else match entryFields p table i with
    | none => byte1 (i + 64)
    | some fs => byte1 i ++ (selected mask fs).flatten

/-! ### TABLE_READ -/

/-- A changed mark cleared by the CLEAR option (R79). -/
def clearMark (i : Nat) (p : Part) : Part := p.updStation i fun s => { s with mark := false }

/-- The read of one entry: its mark cleared where CLEAR is given, the entry checked, its bytes; its owner then
acts on a poisoning found (R163, R169). -/
def readEntry (table i mask : Nat) (clear : Bool) (p : Part) : List Byte × Part :=
  let found := p.poisonPending table i || p.entryPoisoned table i
  let bytes := entryBytes p table i mask found
  (bytes, checkEntry table i (if clear then clearMark i p else p))

/-- The entries of a read, in index order, as many whole ones as fit in 53 bytes, and the next index to read
from (R163). `acc` holds the bytes so far. -/
def readEntries (table mask : Nat) (marked clear : Bool) : List Nat → List Byte → Part → List Byte × Option Nat × Part
  | [], acc, p => (acc, none, p)
  | i :: rest, acc, p =>
    if marked && !(p.tst.stations.getD i {}).mark then readEntries table mask marked clear rest acc p
    else
      let x := readEntry table i mask clear p
      if acc.length + x.1.length ≤ 53 then readEntries table mask marked clear rest (acc ++ x.1) x.2
      else (acc, some i, p)

/-- The indices of a read. -/
def indexRange (first last : Nat) : List Nat := (List.range (last + 1 - first)).map (first + ·)

/-- TABLE_READ (R163). The options are bit 0 MARKED and bit 1 CLEAR. -/
def tableRead (source table first last mask options : Nat) (p : Part) : Answer :=
  match directory[table]? with
  | none => { result := .badTable, part := p }
  | some n =>
    if source != 0 && !p.tst.shares.getD table false then { result := .access, part := p }
    else if last < first || n ≤ last then { result := .badEntry, part := p }
    else if !maskOk table mask || (options % 4 != 0 && table != tblStations) then { result := .badValue, part := p }
    else if 52 < (selected mask (fieldSizes table)).sum then { result := .badLength, part := p }
    else
      let x := readEntries table mask (options.testBit 0) (options.testBit 1) (indexRange first last) [] p
      { result := .ok, body := byte1 (codeOfOption x.2.1 255) ++ x.1, part := x.2.2 }

/-- TABLE_SHARE (R162); a right outside the two comes first (R157). -/
def tableShare (table right : Nat) (p : Part) : Result × Part :=
  match boolOf right with
  | none => (.badValue, p)
  | some r =>
    if 18 ≤ table then (.badTable, p)
    else (.ok, { p with tst := { p.tst with shares := p.tst.shares.set table r } })

/-! ### COUNTERS_READ -/

/-- The counters of a tuner, in the order of R66. -/
def tunerCounts (r : Tuner) : List Nat := [r.underflows, r.overflows, r.missedAcks, r.settleTimeouts]

/-- The counters of a group, in its stated order (R50, R66, R97, R118, R161, R171). -/
def groupCounts (p : Part) : Nat → Option (List Nat)
  | 0 => some (p.zmx.zones.toList.map (·.clip))
  | 1 => some (p.rmx.clips.take 16)
  | 2 => some (p.rmx.clips.drop 16)
  | 3 => some (tunerCounts (p.tuner .a) ++ tunerCounts (p.tuner .b))
  | 4 => some [p.stm.checkFails.a, p.stm.checkFails.b, p.stm.unfiled, p.stm.dropped, p.stm.captureLosses]
  | 5 => some [p.rlu.lineErrors, p.rlu.overflows, p.rlu.frameErrors, p.rlu.checkErrors, p.rlu.formatErrors]
  | 6 => some [p.rif.badFrames, p.rif.laneErrors, p.rif.overruns, p.rif.replyTimeouts, p.rif.ringLosses]
  | 7 => some p.nfu.counts
  | _ => none

/-- A tuner with its counters 0. -/
def Tuner.uncounted (r : Tuner) : Tuner :=
  { r with underflows := 0, overflows := 0, missedAcks := 0, settleTimeouts := 0 }

/-- The counters of a group cleared (R50). -/
def clearGroup (group : Nat) (p : Part) : Part :=
  match group with
  | 0 => { p with zmx := { p.zmx with zones := .of fun z => { p.zone z with clip := 0 } } }
  | 1 => { p with rmx := { p.rmx with clips := List.replicate 16 0 ++ p.rmx.clips.drop 16 } }
  | 2 => { p with rmx := { p.rmx with clips := p.rmx.clips.take 16 ++ List.replicate 16 0 } }
  | 3 => { p with tuc := { p.tuc with tuners := .of fun t => (p.tuner t).uncounted } }
  | 4 => { p with stm := { p.stm with checkFails := ⟨0, 0⟩, unfiled := 0, dropped := 0, captureLosses := 0 } }
  | 5 => { p with rlu := { p.rlu with lineErrors := 0, overflows := 0, frameErrors := 0, checkErrors := 0,
                                      formatErrors := 0 } }
  | 6 => { p with rif := { p.rif with badFrames := 0, laneErrors := 0, overruns := 0, replyTimeouts := 0,
                                      ringLosses := 0 } }
  | 7 => { p with nfu := { p.nfu with counts := List.replicate 7 0 } }
  | _ => p

/-- COUNTERS_READ: the group's counters returned and cleared, whole (R50). -/
def countersRead (group : Nat) (p : Part) : Answer :=
  match groupCounts p group with
  | none => { result := .badValue, part := p }
  | some cs => { result := .ok, body := cs.flatMap byte2, part := clearGroup group p }

end Sys2Proof.Machine
end

