-- ==== Sys2Proof/Machine/Writes.lean ====
section
/-! DEFINITION. TABLE_WRITE (R164), with the conditions of each table's owner, and TABLE_CLEAR (R165). -/

namespace Sys2Proof.Machine

/-! ### The written fields -/

/-- The bytes a write gives, one place per field: none for a field the mask does not name. -/
abbrev Fields := List (Option (List Byte))

/-- The bytes of field `n`, or those of the entry as it stands. -/
def fieldOr (fs : Fields) (n : Nat) (old : List Byte) : List Byte := (fs.getD n none).getD old

/-- The value of `len` bytes at `pos` of field `n`, or `old` where the field is not named. -/
def partOr (fs : Fields) (n pos len old : Nat) : Nat :=
  match fs.getD n none with
  | some bs => valueAt bs pos len
  | none => old

/-- The value of field `n` whole, or `old`. -/
def valueOr (fs : Fields) (n old : Nat) : Nat :=
  match fs.getD n none with
  | some bs => valueOf bs
  | none => old

/-- Whether field `n` is named. -/
def named (fs : Fields) (n : Nat) : Bool := (fs.getD n none).isSome

/-- NONE is 255 in a one-byte field (R182). -/
def optionOf (n : Nat) : Option Nat := if n = 255 then none else some n

/-- A value is NONE or below a bound. -/
def optBelow (n bound : Nat) : Bool := n == 255 || n < bound

/-- How many bytes a named field takes at the front of the remaining values: those of its table, but for the
list-item fields of STATIONS, whose count comes first (Table 12.6). -/
def fieldLength (table n size : Nat) (vs : List Byte) : Nat :=
  if table == tblStations && (n == 4 || n == 5) then 1 + 3 * (vs.headD 0#8).toNat else size

/-- The values split into the named fields; none if their length does not match them (check 5 of R164). -/
def splitFields (table mask : Nat) : List (Nat × Nat) → List Byte → Option Fields
  | [], vs => if vs.isEmpty then some [] else none
  | (size, n) :: rest, vs =>
    if mask.testBit n then
      let len := fieldLength table n size vs
      if vs.isEmpty || vs.length < len then none
      else (splitFields table mask rest (vs.drop len)).map fun fs => some (vs.take len) :: fs
    else (splitFields table mask rest vs).map fun fs => none :: fs

/-- Every field of the table is named: a full write (R164). -/
def fullMask (table mask : Nat) : Bool := mask == 2 ^ (fieldSizes table).length - 1

/-! ### The owners' conditions -/

/-- INGRESS (R152). -/
def writeIngress (i : Nat) (fs : Fields) (p : Part) : Result × Part :=
  let v := valueOr fs 0 255
  if optBelow v 48 then (.ok, { p with tst := { p.tst with ingress := p.tst.ingress.set i (optionOf v) } })
  else (.badValue, p)

/-- Another entry of EGRESS, not poisoned, holds the slot (R153). -/
def slotHeld (p : Part) (i v : Nat) : Bool :=
  v != 255 && p.tst.egress.zipIdx.any fun x => x.2 != i && x.1 == some v && !p.unitPoisoned tblEgress x.2 0

/-- EGRESS (R153). The other entries are read for a slot, and so checked (R169). -/
def writeEgress (i : Nat) (fs : Fields) (p : Part) : Result × Part :=
  let v := valueOr fs 0 255
  if !optBelow v 48 then (.badValue, p)
  else
    let p := if v == 255 then p else readOthers tblEgress i p
    if slotHeld p i v then (.duplicate, p)
    else (.ok, { p with tst := { p.tst with egress := p.tst.egress.set i (optionOf v) } })

/-- SOURCES (R17). -/
def writeSource (i : Nat) (fs : Fields) (p : Part) : Result × Part :=
  let e := p.tst.sources.getD i {}
  let l := valueOr fs 0 (codeOfOption e.left 255)
  let r := valueOr fs 1 (codeOfOption e.right 255)
  let t := valueOr fs 2 e.trim
  if optBelow l 24 && optBelow r 24 && t ≤ 384 && (i < 4 || (r == 255 && t == 0)) then
    (.ok, { p with tst := { p.tst with sources := p.tst.sources.set i ⟨optionOf l, optionOf r, t⟩ } })
  else (.badValue, p)

/-- ZONES: each field in its range, and 0 or off in an entry it does not apply to (R20). -/
def writeZone (z : ZoneId) (fs : Fields) (p : Part) : Result × Part :=
  let e := p.tst.zones.get z
  let v (n old : Nat) : Nat := valueOr fs n old
  let at' := v 0 e.attack
  let re := v 1 e.release
  let sc := v 2 (codeOfBool e.speedComp)
  let po := v 3 e.promptOffset
  let co := v 4 e.callOffset
  let cu := v 5 (codeOfBool e.headphoneCurve)
  let fo := v 6 e.followOffset
  let rq := v 7 e.rearQuiet
  let ca := v 8 (codeOfBool e.cargoAuto)
  let st := v 9 e.compStep
  let mx := v 10 e.compMax
  let ranges := 1 ≤ at' && at' ≤ 64 && 1 ≤ re && re ≤ 64 && sc ≤ 1 && po ≤ 96 && co ≤ 96 && cu ≤ 1 && fo ≤ 96
    && rq ≤ 384 && ca ≤ 1 && st ≤ 8 && mx ≤ 96
  let roles := (z.follows || fo == 0) && (z == .rearCabin || rq == 0) && (z == .cargo || ca == 0)
    && (z == .front || (st == 0 && mx == 0))
  if ranges && roles then
    let c : ZoneCfg := { attack := at', release := re, speedComp := sc == 1, promptOffset := po, callOffset := co,
                         headphoneCurve := cu == 1, followOffset := fo, rearQuiet := rq, cargoAuto := ca == 1,
                         compStep := st, compMax := mx }
    (.ok, { p with tst := { p.tst with zones := p.tst.zones.set z c } })
  else (.badValue, p)

/-- The gain codes of a field of two-byte codes. -/
def codesOf (bs : List Byte) : List Nat := (List.range (bs.length / 2)).map fun k => valueAt bs (2 * k) 2

/-- No code of a list is greater than the one before it (R30). -/
def descending : List Nat → Bool
  | a :: b :: rest => b ≤ a && descending (b :: rest)
  | _ => true

/-- CURVES: codes up to 384, in order over the fields that are not poisoned once the write is taken; the
poisoning of each named field is cleared (R30). -/
def writeCurve (i : Nat) (fs : Fields) (p : Part) : Result × Part :=
  let e := p.tst.curves.getD i Curve.powerOn
  let low := match fs.getD 0 none with
    | some bs => codesOf bs
    | none => e.low
  let high := match fs.getD 1 none with
    | some bs => codesOf bs
    | none => e.high
  let lowOk := named fs 0 || !p.unitPoisoned tblCurves i 0
  let highOk := named fs 1 || !p.unitPoisoned tblCurves i 1
  if (low ++ high).all (· ≤ 384) && descending ((if lowOk then low else []) ++ (if highOk then high else [])) then
    let p := { p with tst := { p.tst with curves := p.tst.curves.set i ⟨low, high⟩ } }
    let p := if named fs 0 then cleanUnit ⟨tblCurves, i, 0⟩ p else p
    (.ok, if named fs 1 then cleanUnit ⟨tblCurves, i, 1⟩ p else p)
  else (.badValue, p)

/-- DUCKS (R34). -/
def writeDuck (i : Nat) (fs : Fields) (p : Part) : Result × Part :=
  let e := p.tst.ducks.getD i (.of fun _ => 0)
  let r : PerZone Nat := .of fun z => valueOr fs (zoneCode z) (e.get z)
  if r.toList.all (· ≤ 384) then (.ok, { p with tst := { p.tst with ducks := p.tst.ducks.set i r } })
  else (.badValue, p)

/-- A contribution as written: none if a field is outside what a write may store (Table 3.1). -/
def writtenContribution (fs : Fields) (n : Nat) (c : Contribution) : Option Contribution :=
  match fs.getD n none with
  | none => some c
  | some bs =>
    match sideOf (valueAt bs 1 1) with
    | some s =>
      let z := valueAt bs 0 1
      let tc := valueAt bs 2 2
      let tp := valueAt bs 4 2
      if z ≤ 7 && tc ≤ 384 && tp ≤ 384 then some { zone := z, side := s, trimClosed := tc, trimOpen := tp }
      else none
    | none => none

/-- The contributions as written, none if one of them is refused. -/
def writtenContributions (fs : Fields) : Nat → List Contribution → Option (List Contribution)
  | _, [] => some []
  | n, c :: rest => (writtenContribution fs n c).bind fun c' => (writtenContributions fs (n + 1) rest).map (c' :: ·)

/-- The refusal of a write or a clear of a bank, by the swap state and the bank's role (Table 3.2). -/
def bankRefusal (bank : BankId) (p : Part) : Option Result :=
  if p.rmx.crossfade.isSome then some .busy
  else if p.rmx.active == bank then some .activeBank
  else none

/-- RENDER_A and RENDER_B: the swap state and the bank's role decide first; a write sets every applied trim at
its code in the column in force (R40, R41). -/
def writeRender (bank : BankId) (i : Nat) (fs : Fields) (p : Part) : Result × Part :=
  match bankRefusal bank p with
  | some r => (r, p)
  | none =>
    let e := (p.bank bank).getD i {}
    let en := valueOr fs 0 (codeOfBool e.enabled)
    let d := valueOr fs 1 e.delay
    let n := valueOr fs 2 e.count
    match writtenContributions fs 3 e.contribs with
    | some cs =>
      if en ≤ 1 && d ≤ 1023 && n ≤ 4 then
        let e' : RenderEntry := { enabled := en == 1, delay := d, count := n, contribs := cs }
        (.ok, p.setBank bank ((p.bank bank).set i (settleTrims p.rmx.tailgateOpen e')))
      else (.badValue, p)
    | none => (.badValue, p)

/-- The address of a tuner as RADIO_CFG holds it changes while the tuner is not IDLE (R57). -/
def addressBusy (p : Part) (a : PerTuner (Option Nat)) : Bool :=
  TunerId.all.any fun t => a.get t != p.tst.radio.addresses.get t && (p.tuner t).state != .idle

/-- A tuner whose bus address has changed: its pending command is discarded, and STANDBY is issued to a new address;
during a retry wait it is the command resent at the wait's end (R55 to R57; log entry 32). -/
def readdress (old : PerTuner (Option Nat)) (p : Part) (t : TunerId) : Part :=
  if p.tst.radio.addresses.get t == old.get t then p
  else
    let p := { p with tuc := { p.tuc with queue := p.tuc.queue.filter fun x => x.1 != t } }
    issue t .standby p

/-- The RADIO_CFG entry as a write leaves it, its numbers as they are written. -/
def writtenRadio (fs : Fields) (c : RadioCfg) (zones : ZoneSet) : RadioCfg :=
  { fsFloor := valueOr fs 0 c.fsFloor
    blendLo := partOr fs 1 0 1 c.blendLo
    blendHi := partOr fs 1 1 1 c.blendHi
    muteHi := partOr fs 2 0 1 c.muteHi
    muteSlope := partOr fs 2 1 1 c.muteSlope
    muteMax := partOr fs 2 2 2 c.muteMax
    trim := valueOr fs 3 c.trim
    seekThreshold := partOr fs 4 0 1 c.seekThreshold
    scanThreshold := partOr fs 4 1 1 c.scanThreshold
    addresses := ⟨optionOf (partOr fs 5 0 1 (codeOfOption c.addresses.a 255)),
                  optionOf (partOr fs 5 1 1 (codeOfOption c.addresses.b 255))⟩
    afEnable := partOr fs 6 0 1 (codeOfBool c.afEnable) != 0
    background := partOr fs 6 1 1 (codeOfBool c.background) != 0
    bulletins := partOr fs 6 2 1 (codeOfBool c.bulletins) != 0
    afThreshold := partOr fs 7 0 1 c.afThreshold
    afMargin := partOr fs 7 1 1 c.afMargin
    afHold := valueOr fs 8 c.afHold
    afAge := valueOr fs 9 c.afAge
    afBlindInterval := valueOr fs 10 c.afBlindInterval
    bulletinZones := zones
    bulletinLevel := partOr fs 11 1 2 c.bulletinLevel
    captureTrigger := valueOr fs 12 c.captureTrigger }

/-- A bus address is NONE or 8 to 119 (Table 4.3). -/
def addressOk (a : Option Nat) : Bool :=
  match a with
  | some n => 8 ≤ n && n ≤ 119
  | none => true

/-- The conditions of RADIO_CFG (R57, R97). -/
def radioOk (c : RadioCfg) : Bool :=
  c.fsFloor ≤ 127 && c.blendLo < c.blendHi && c.blendHi ≤ 100 && c.muteHi ≤ 100 && c.muteSlope ≤ 16
    && c.muteMax ≤ 384 && c.trim ≤ 384 && c.seekThreshold ≤ 100 && c.scanThreshold ≤ 100
    && addressOk c.addresses.a && addressOk c.addresses.b
    && (c.addresses.a != c.addresses.b || c.addresses.a.isNone)
    && c.afThreshold ≤ 100 && c.afMargin ≤ 100 && 100 ≤ c.afHold && c.afHold ≤ 60000
    && 1000 ≤ c.afAge && c.afAge ≤ 3600000 && 1000 ≤ c.afBlindInterval && c.afBlindInterval ≤ 600000
    && c.bulletinLevel ≤ 384 && 1 ≤ c.captureTrigger && c.captureTrigger ≤ 32

/-- The enable flags of field 6 are 0 or 1. -/
def flagsOk (fs : Fields) : Bool :=
  match fs.getD 6 none with
  | some bs => bs.all (·.toNat ≤ 1)
  | none => true

/-- The scoring fields in force stay until the next report, also where a write ends a poisoning (R57). -/
def keepScoring (p : Part) : Part :=
  { p with tuc := { p.tuc with tuners := .of fun t => { p.tuner t with scoring := p.scoring t } } }

/-- RADIO_CFG (R57, R97). -/
def writeRadio (fs : Fields) (p : Part) : Result × Part :=
  let old := p.tst.radio
  match zoneSetOf (partOr fs 11 0 1 (zoneSetCode old.bulletinZones)) with
  | none => (if addressBusy p (writtenRadio fs old old.bulletinZones).addresses then .state else .badValue, p)
  | some zs =>
    let c := writtenRadio fs old zs
    if addressBusy p c.addresses then (.state, p)
    else if radioOk c && flagsOk fs then
      let p := keepScoring p
      let p := { p with tst := { p.tst with radio := c } }
      (.ok, TunerId.all.foldl (readdress old.addresses) p)
    else (.badValue, p)

/-- A segment as written (R110). -/
def writtenSegment (fs : Fields) (n : Nat) (s : Segment) : Segment :=
  { freq := partOr fs n 0 2 s.freq, duration := partOr fs n 2 2 s.duration, level := partOr fs n 4 2 s.level }

/-- A segment's fields lie in their ranges (R110). -/
def segmentOk (s : Segment) : Bool :=
  (s.freq == 0 || (100 ≤ s.freq && s.freq ≤ 8000)) && 1 ≤ s.duration && s.duration ≤ 2000 && s.level ≤ 384

/-- CHIMES (R110). -/
def writeChime (i : Nat) (fs : Fields) (p : Part) : Result × Part :=
  let e := p.tst.chimes.getD i {}
  let n := partOr fs 0 0 1 e.count
  let r := partOr fs 0 1 1 e.repeats
  let ss := e.segments.zipIdx.map fun x => writtenSegment fs (x.2 + 1) x.1
  if 1 ≤ n && n ≤ 8 && 1 ≤ r && r ≤ 255 && ss.all segmentOk then
    (.ok, { p with tst := { p.tst with chimes := p.tst.chimes.set i ⟨n, r, ss⟩ } })
  else (.badValue, p)

/-- A seat's meter window is restarted from the next render block, its sum discarded (R141). -/
def restartMeter (k : Seat) (p : Part) : Part := p.setSeat k { p.seat k with meterOpen := false, meterSum := 0 }

/-- SEATS (R140, R141). -/
def writeSeat (k : Seat) (fs : Fields) (p : Part) : Result × Part :=
  let e := p.tst.seats.get k
  let m1 := partOr fs 0 0 1 e.mic1
  let m2 := partOr fs 0 1 1 (codeOfOption e.mic2 255)
  let g := valueOr fs 1 e.gain
  let w := valueOr fs 2 e.window
  if m1 ≤ 5 && optBelow m2 6 && m1 != m2 && g ≤ 384 && 4 ≤ w && w ≤ 64 then
    let c : SeatCfg := { mic1 := m1, mic2 := optionOf m2, gain := g, window := w }
    let p := { p with tst := { p.tst with seats := p.tst.seats.set k c } }
    (.ok, if named fs 2 then restartMeter k p else p)
  else (.badValue, p)

/-- CALL_CFG (R130). -/
def writeCall (fs : Fields) (p : Part) : Result × Part :=
  let e := p.tst.call
  match zoneSetOf (valueOr fs 1 (zoneSetCode e.defaultZones)) with
  | none => (.badValue, p)
  | some zs =>
    let c : CallCfg :=
      { level := valueOr fs 0 e.level, defaultZones := zs, ringPattern := valueOr fs 2 e.ringPattern
        navDuck := valueOr fs 3 e.navDuck, gateLevel := valueOr fs 4 e.gateLevel
        switchMargin := valueOr fs 5 e.switchMargin, talkerHold := valueOr fs 6 e.talkerHold
        gateAtt := valueOr fs 7 e.gateAtt, uplinkBase := valueOr fs 8 e.uplinkBase
        convErle := valueOr fs 9 e.convErle, divErle := valueOr fs 10 e.divErle }
    if c.level ≤ 384 && !zs.cargo && c.ringPattern ≤ 15 && c.navDuck ≤ 96 && c.gateLevel ≤ 240
        && c.switchMargin ≤ 240 && 16 ≤ c.talkerHold && c.talkerHold ≤ 5000 && c.gateAtt ≤ 384
        && c.uplinkBase ≤ 384 && c.convErle ≤ 160 && c.divErle ≤ c.convErle then
      (.ok, { p with tst := { p.tst with call := c } })
    else (.badValue, p)

/-- The allowed sources of a byte; none if it names a source outside the five (R119). -/
def sourceSetOf (n : Nat) : Option SourceSet :=
  if n < 32 then some ⟨n.testBit 0, n.testBit 1, n.testBit 2, n.testBit 3, n.testBit 4⟩ else none

/-- The Rear Link Unit takes the copy of a seat's maximum step, and a headphone zone above it is set to it
(R119, R120). -/
def takeMaximum (r : RearSeat) (p : Part) : Part :=
  let m := (p.tst.admission.get r).maxStep
  let p := { p with rlu := { p.rlu with maxCopy := p.rlu.maxCopy.set r m } }
  if m < (p.zone r.zone).step then p.setZone r.zone { p.zone r.zone with step := m } else p

/-- ADMISSION (R119, R120). -/
def writeAdmission (r : RearSeat) (fs : Fields) (p : Part) : Result × Part :=
  let e := p.tst.admission.get r
  let m := valueOr fs 1 e.maxStep
  match sourceSetOf (valueOr fs 2 (sourceSetCode e.allowed)) with
  | none => (.badValue, p)
  | some s =>
    if m ≤ 40 then
      let a : Admission := { flags := BitVec.ofNat 8 (valueOr fs 0 e.flags.toNat), maxStep := m, allowed := s }
      (.ok, takeMaximum r { p with tst := { p.tst with admission := p.tst.admission.set r a } })
    else (.badValue, p)

/-! ### STATIONS -/

/-- The frequencies of a written list-item field; none if its count is above 6. -/
def writtenFreqs (bs : List Byte) : Option (List Nat) :=
  let n := valueAt bs 0 1
  if n ≤ 6 then some ((List.range n).map fun k => valueAt bs (1 + 3 * k) 2) else none

/-- A list-item field after the write: the frequencies written, or the old items. -/
def listedFreqs (fs : Fields) (n : Nat) (old : List Item) : Option (List Nat) :=
  match fs.getD n none with
  | some bs => writtenFreqs bs
  | none => some (old.map (·.freq))

/-- The whole list after the write; none if a count is above 6, or field 5 is written with items while field 4
does not hold 6 (R83). -/
def writtenList (fs : Fields) (items : List Item) : Option (List Nat) :=
  match listedFreqs fs 4 (items.take 6), listedFreqs fs 5 (items.drop 6) with
  | some a, some b => if named fs 5 && !b.isEmpty && a.length != 6 then none else some (a ++ b)
  | _, _ => none

/-- The label of eight bytes: absent when all are 0, otherwise characters 0x20 to 0x7E (Table 12.6). -/
def labelOf (bs : List Byte) : Option (Option (List Byte)) :=
  if bs.all (· == 0#8) then some none
  else if bs.all fun b => 0x20 ≤ b.toNat && b.toNat ≤ 0x7E then some (some bs)
  else none

/-- The entry that a write would leave, with the conditions answered by BAD_VALUE; none where one is broken. A
field not named keeps its value; at a free index it holds none (R83). -/
def writtenStation (fs : Fields) (old : Option Station) : Option Station :=
  let code := valueOr fs 1 (match old with
    | some e => e.code
    | none => 0)
  let band := match fs.getD 2 none with
    | some bs => bandOf (valueOf bs)
    | none => old.map fun (e : Station) => e.band
  let label := match fs.getD 3 none with
    | some bs => labelOf bs
    | none => some (old.bind fun (e : Station) => e.label)
  let items : List Item := match old with
    | some e => e.items
    | none => []
  let fav := valueOr fs 6 (codeOfOption (old.bind fun (e : Station) => e.favourite) 0)
  let flags := valueOr fs 7 (match old with
    | some e => codeOfBool e.capable + 2 * codeOfBool e.active
    | none => 0)
  match (band : Option Band), (label : Option (Option (List Byte))), writtenList fs items with
  | some b, some l, some freqs =>
    if 1 ≤ code && 1 ≤ freqs.length && freqs.length ≤ 12 && freqs.all (validFreq b) && fav ≤ 12 then
      some { code := code, band := b, label := l
             items := freqs.map fun f => (items.find? fun (it : Item) => it.freq == f).getD { freq := f }
             favourite := if fav = 0 then none else some fav
             capable := flags.testBit 0, active := flags.testBit 1
             learned := match old with
               | some e => e.learned
               | none => false }
    else none
  | _, _, _ => none

/-- The other entries. -/
def otherStations (p : Part) (i : Nat) : List Station :=
  p.tst.stations.zipIdx.filterMap fun x => if x.2 == i then none else x.1.entry

/-- No two members of a list are equal. -/
def distinct : List Nat → Bool
  | [] => true
  | a :: rest => !rest.contains a && distinct rest

/-- The conditions answered by DUPLICATE hold (R83). -/
def stationUnique (p : Part) (i : Nat) (e : Station) : Bool :=
  let others := otherStations p i
  others.all (fun o => o.code != e.code && (o.favourite.isNone || o.favourite != e.favourite)
      && !e.items.any fun it => o.holds ⟨e.band, it.freq⟩)
    && distinct (e.items.map (·.freq))

/-- A listening zone references the entry and plays a frequency of it that the new entry would not hold (R83). DESIGN
CHOICE (log entry 62): a tuner in CHECKING plays the channel that it is tuned to, not its home. DESIGN CHOICE (log
entry 71): a frequency that the entry did not hold before the write has nothing to stay in, so the write is taken. -/
def losesListener (p : Part) (i : Nat) (old : Option Station) (new : Option Station) : Bool :=
  [ZoneId.front, .hpLeft, .hpRight].any fun z =>
    p.refersTo z i
      && match (p.zoneTuner z).bind fun t => (p.tuner t).chan with
        | some c => match new with
          | none => true
          | some e => (old.any fun o => o.holds c) && !e.holds c
        | none => new.isNone

/-- The bulletin record loses its station reference; the prompt plays on (R83). -/
def forgetBulletinStation (i : Nat) (p : Part) : Part :=
  if p.stm.bulletin.station == some i then
    { p with stm := { p.stm with bulletin := { p.stm.bulletin with station := none } } }
  else p

/-- An entry removed by the head unit: the index keeps its mark (R78, R83). -/
def dropStation (i : Nat) (p : Part) : Part :=
  let p := unnameStation i (cleanEntry tblStations i (p.updStation i fun s => { s with entry := none }))
  let p := forgetBulletinStation i p
  if p.stm.watch == some i then clearWatch p else p

/-- The zones that reference an entry take its new code; the followers have it from FRONT (R28, R78, R83). -/
def recodeZones (i code : Nat) (p : Part) : Part :=
  [ZoneId.front, .hpLeft, .hpRight].foldl (fun q z => if q.refersTo z i then
    q.setZone z { q.zone z with code := some code } else q) p

/-- An entry stored by the head unit (R83). The watch station is cleared by a write that clears the capable flag, so
not by one that finds it clear already (log entry 24). -/
def storeStation (i : Nat) (old : Option Station) (e : Station) (p : Part) : Part :=
  let p := p.updStation i fun s => { s with entry := some e }
  let p := if old.isNone then cleanEntry tblStations i p else p
  let p := if old.any fun o => o.code != e.code then recodeZones i e.code p else p
  if p.stm.watch == some i && (old.any fun o => o.capable) && !e.capable then clearWatch p else p

/-- STATIONS (R83). The other entries are read for its conditions, and so checked (R169). -/
def writeStation (i : Nat) (fs : Fields) (p : Part) : Result × Part :=
  let old := p.station i
  let inUse := valueOr fs 0 (codeOfBool old.isSome)
  if 1 < inUse || (inUse == 0 && !named fs 0) then (.badValue, p)
  else if inUse == 0 then
    if losesListener p i old none then (.state, p) else (.ok, dropStation i p)
  else match writtenStation fs old with
    | none => (.badValue, p)
    | some e =>
      let p := readOthers tblStations i p
      if !stationUnique p i e then (.duplicate, p)
      else if losesListener p i old (some e) then (.state, p)
      else (.ok, storeStation i old e p)

/-! ### TABLE_WRITE -/

/-- The owner's decision of a write, checks 7 and 8 of R164. -/
def ownerWrite (table i : Nat) (fs : Fields) (p : Part) : Result × Part :=
  match table with
  | 0 => writeIngress i fs p
  | 1 => writeEgress i fs p
  | 2 => writeSource i fs p
  | 3 => match zoneOf i with
    | some z => writeZone z fs p
    | none => (.badEntry, p)
  | 4 => writeCurve i fs p
  | 5 => writeDuck i fs p
  | 6 => writeRender .a i fs p
  | 7 => writeRender .b i fs p
  | 8 => writeStation i fs p
  | 9 => writeRadio fs p
  | 10 => writeChime i fs p
  | 11 => match Seat.all[i]? with
    | some k => writeSeat k fs p
    | none => (.badEntry, p)
  | 12 => writeCall fs p
  | _ => writeAdmission (if i = 0 then .left else .right) fs p

/-- The check that the merge of a partial write makes: of the entry, or of the CURVES field that the write does
not name (R169). -/
def mergeCheck (table i mask : Nat) (p : Part) : Part :=
  if table == tblCurves then checkUnit ⟨tblCurves, i, if mask.testBit 0 then 1 else 0⟩ p
  else checkEntry table i p

/-- A change of CALL_CFG makes the uplink code anew (R148). -/
def afterWrite (table : Nat) (p : Part) : Part := if table == tblCall then setUplink p else p

/-- The checks 1 to 6 are passed: the owner decides, and a full write that is taken clears the entry's
poisoning (R164). -/
def takeWrite (table i mask : Nat) (fs : Fields) (p : Part) : Result × Part :=
  let x := ownerWrite table i fs p
  if x.1 == .ok then (.ok, afterWrite table (if fullMask table mask then cleanEntry table i x.2 else x.2)) else x

/-- The render bank of a table. -/
def bankOf (table : Nat) : Option BankId :=
  if table == tblRenderA then some .a else if table == tblRenderB then some .b else none

/-- A partial write of an entry that is not poisoned: the render banks' refusals come before the merge reads the
entry, since a refused write changes no poisoning (R41); the merge checks the entry, and one that it finds poisoned
is refused, but for CURVES (R30, R164, R169). -/
def mergeWrite (table i mask : Nat) (fs : Fields) (p : Part) : Result × Part :=
  match (bankOf table).bind fun k => bankRefusal k p with
  | some r => (r, p)
  | none =>
    let found := p.poisonPending table i
    let p := mergeCheck table i mask p
    if table != tblCurves && found then (.badEntry, p) else takeWrite table i mask fs p

/-- The tables whose owner compares what a full write or a clear gives with what the entry holds: STATIONS keeps the
last qualities and judges its listeners (R83), ADMISSION queues no report for what stays as it was (R120). -/
def comparesOld (table : Nat) : Bool := table == tblStations || table == tblAdmission

/-- The read of an entry that a write naming every field replaces: checked where the owner compares, the reports of a
poisoning queued (R120, R169; log entry 14). -/
def readReplaced (table i : Nat) (p : Part) : Part :=
  if comparesOld table then noteReports p (checkEntry table i p) else p

/-- TABLE_WRITE, checked in the order of Table 9.4 (R164). -/
def tableWrite (table i mask : Nat) (values : List Byte) (p : Part) : Result × Part :=
  match directory[table]? with
  | none => (.badTable, p)
  | some n =>
    if 14 ≤ table then (.access, p)
    else if n ≤ i then (.badEntry, p)
    else if !maskOk table mask then (.badValue, p)
    else match splitFields table mask (fieldSizes table).zipIdx values with
      | none => (.badLength, p)
      | some fs =>
        if fullMask table mask then takeWrite table i mask fs (readReplaced table i p)
        else if table != tblCurves && p.entryPoisoned table i then (.badEntry, p)
        else mergeWrite table i mask fs p

/-! ### TABLE_CLEAR -/

/-- A cleared bank (R40, R41). -/
def clearRender (bank : BankId) (p : Part) : Result × Part :=
  match bankRefusal bank p with
  | some r => (r, p)
  | none => (.ok, p.setBank bank (List.replicate 32 {}))

/-- Cleared STATIONS: every index free, every mark clear, no zone, watch or bulletin record names an entry
(R83). -/
def clearStations (p : Part) : Part :=
  let p := { p with tst := { p.tst with stations := List.replicate 48 {} } }
  let p := ZoneId.all.foldl (fun q z => q.setZone z { q.zone z with station := none }) p
  clearWatch { p with stm := { p.stm with bulletin := { p.stm.bulletin with station := none } } }

/-- A cleared RADIO_CFG: refused with STATE if it would change the bus address of a tuner that is not IDLE
(R165). -/
def clearRadio (p : Part) : Result × Part :=
  if addressBusy p ⟨none, none⟩ then (.state, p)
  else
    let old := p.tst.radio.addresses
    let p := keepScoring p
    (.ok, TunerId.all.foldl (readdress old) { p with tst := { p.tst with radio := {} } })

/-- The power-on contents of a table (R165). DESIGN CHOICE (log entry 72): cleared SEATS restart the meter window of
every seat, their sums discarded, as a write to a seat's window does (R141). DESIGN CHOICE (log entry 89): a clear of
ADMISSION checks LEFT's entry before RIGHT's. -/
def clearContents (table : Nat) (p : Part) : Result × Part :=
  let s : Store := {}
  match table with
  | 0 => (.ok, { p with tst := { p.tst with ingress := s.ingress } })
  | 1 => (.ok, { p with tst := { p.tst with egress := s.egress } })
  | 2 => (.ok, { p with tst := { p.tst with sources := s.sources } })
  | 3 => (.ok, { p with tst := { p.tst with zones := s.zones } })
  | 4 => (.ok, { p with tst := { p.tst with curves := s.curves } })
  | 5 => (.ok, { p with tst := { p.tst with ducks := s.ducks } })
  | 6 => clearRender .a p
  | 7 => clearRender .b p
  | 8 => (.ok, clearStations p)
  | 9 => clearRadio p
  | 10 => (.ok, { p with tst := { p.tst with chimes := s.chimes } })
  | 11 => (.ok, Seat.all.foldl (fun q k => restartMeter k q) { p with tst := { p.tst with seats := s.seats } })
  | 12 => (.ok, { p with tst := { p.tst with call := s.call } })
  | _ =>
    let p := readReplaced tblAdmission 1 (readReplaced tblAdmission 0 p)
    (.ok, takeMaximum .right (takeMaximum .left { p with tst := { p.tst with admission := s.admission } }))

/-- TABLE_CLEAR: the power-on contents, every poisoning of the table cleared (R165). -/
def tableClear (table : Nat) (p : Part) : Result × Part :=
  if 18 ≤ table then (.badTable, p)
  else if 14 ≤ table then (.access, p)
  else
    let x := clearContents table p
    (x.1, if x.1 == .ok then afterWrite table (cleanTable table x.2) else x.2)

end Sys2Proof.Machine
end

