-- ==== Sys2Proof/Machine/Rear.lean ====
section
/-! DEFINITION. The Rear Link Unit (chapter 7): the bytes of the rear panel link, the frame assembler, the
decision of rear requests, and the state reports. -/

namespace Sys2Proof.Machine

/-! ### The decision of a rear request -/

/-- A rear request kind by its code (R181). -/
def rearKindOf : Nat → Option RearKind
  | 1 => some .power
  | 2 => some .source
  | 3 => some .station
  | 4 => some .volume
  | 5 => some .mute
  | 6 => some .cabin
  | 7 => some .join
  | 8 => some .leave
  | 9 => some .query
  | _ => none

/-- The place of a kind's admission flag; STATE_QUERY has none (R119, R181). -/
def admissionBit : RearKind → Nat
  | .power => 0
  | .source => 1
  | .station => 2
  | .volume => 3
  | .mute => 4
  | .cabin => 5
  | .join => 6
  | .leave => 7
  | .query => 8

/-- How many argument bytes a kind takes (Table 7.2). -/
def argCount : RearKind → Nat
  | .join | .leave | .query => 0
  | _ => 1

/-- An argument holds one of the values Table 7.2 gives for its kind, coded as R181 gives. -/
def argOk (k : RearKind) (arg : Nat) : Bool :=
  match k with
  | .power | .mute | .cabin => arg == 1 || arg == 2
  | .source => arg ≤ 5
  | .station => (1 ≤ arg && arg ≤ 12) || arg == 0x81 || arg == 0x82
  | .volume => arg < 256
  | .join | .leave | .query => true

/-- The rear result of a ring result (Table 7.6, R123). -/
def rearResultOf : Result → RearResult
  | .ok => .done
  | .clamped => .clamped
  | .tunerBusy => .tunerBusy
  | .power => .power
  | .privateCall => .privateCall
  | .notFound | .badEntry => .notFound
  | _ => .state

/-- An owner's ring result as the seat's result. -/
def asRear (a : Result × Part) : RearResult × Part := (rearResultOf a.1, a.2)

/-- A source is in the allowed set; NONE is never refused (R121). -/
def allowedSource (s : SourceSet) : Source → Bool
  | .none => true
  | .radio => s.radio
  | .media k => [s.media1, s.media2, s.media3, s.media4].getD k.val false

/-- The request names a source outside the seat's allowed sources (step 3 of R121). -/
def sourceDenied (x : Taken) : Bool :=
  match x.kind with
  | .source => match sourceOf x.arg with
    | some src => !allowedSource x.allowed src
    | none => false
  | .station => !x.allowed.radio
  | _ => false

/-- The favourites: number and index (R123). -/
def favourites (p : Part) : List (Nat × Nat) :=
  p.tst.stations.zipIdx.filterMap fun x => (x.1.entry.bind fun e => e.favourite).map fun n => (n, x.2)

/-- The favourite of the least number, or of the greatest. -/
def extreme (least : Bool) (fs : List (Nat × Nat)) : Option (Nat × Nat) :=
  fs.foldl (fun b x => match b with
    | none => some x
    | some y => if (if least then x.1 < y.1 else y.1 < x.1) then some x else some y) none

/-- The station index an HP_STATION chooses (R123). -/
def chosenStation (p : Part) (z : ZoneId) (arg : Nat) : Option Nat :=
  let fs := favourites p
  if arg == 0x81 || arg == 0x82 then
    let up := arg == 0x81
    let here := (p.zone z).station.bind fun i => fs.find? fun x => x.2 == i
    let further := match here with
      | some h => extreme up (fs.filter fun x => if up then h.1 < x.1 else x.1 < h.1)
      | none => none
    (further.or (extreme up fs)).map (·.2)
  else (fs.find? fun x => x.1 == arg).map (·.2)

/-- HP_STATION: the station table is checked as its favourites are read, so that an entry found poisoned is rebuilt or
removed and not among them (R84, R123, R169); the index chosen acts as a TUNE. -/
def rearStation (z : ZoneId) (arg : Nat) (p : Part) : RearResult × Part :=
  let p := ownerReads [tblStations] p
  match chosenStation p z arg with
  | some i => asRear (tuneStation z i p)
  | none => (.notFound, p)

/-- The hand-off of a rear request to its owner (step 5 of R121, R122 to R124). -/
def handOff (r : RearSeat) (k : RearKind) (arg : Nat) (p : Part) : RearResult × Part :=
  let z := r.zone
  match k with
  | .power => asRear (zonePower z (arg == 1) p)
  | .source => asRear (zoneSource z (sourceOf arg) p)
  | .station => rearStation z arg p
  | .volume => asRear (storeStep z arg p)
  | .mute => asRear (zoneMute z (some (arg == 1)) p)
  | .cabin => cabinOffset (arg == 1) p
  | .join => callJoin r p
  | .leave => callLeave r p
  | .query => (.done, p)

/-- The ADMISSION entry of a seat is checked as it is read; a poisoning queues the seat's report (R120, R169). -/
def readAdmission (r : RearSeat) (p : Part) : Part := noteReports p (checkPlain ⟨tblAdmission, rearCode r, 0⟩ p)

/-- A request as it is taken, with the seat's admission as it reads at that moment (R121). -/
def takenNow (r : RearSeat) (k : RearKind) (arg : Nat) (p : Part) : Taken :=
  ⟨r, k, arg, p.admissionFlags r, (p.tst.admission.get r).allowed⟩

/-- The decision of a taken request, in the order of R121. -/
def rearDecide (x : Taken) (p : Part) : RearResult × Part :=
  if x.kind == .query then (.done, p)
  else if !x.flags.getLsbD (admissionBit x.kind) then (.denied, p)
  else if sourceDenied x then (.sourceDenied, p)
  else if !p.isActive then (.power, p)
  else handOff x.seat x.kind x.arg p

/-- REAR_CHANGE is posted for an admissible request answered DONE or CLAMPED (R125). -/
def rearChange (r : RearSeat) (k : RearKind) (res : RearResult) (p : Part) : Part :=
  if k != .query && (res == .done || res == .clamped) then p.post .rearChange (rearCode r) else p

/-- After HP_POWER, HP_SOURCE and HP_STATION the Station Manager brings up to date what it keeps. -/
def keptUp (k : RearKind) (before p : Part) : Part :=
  match k with
  | .power | .source | .station => stmSettle before p
  | .volume | .mute | .cabin | .join | .leave | .query => p

/-- A taken request: decided, its notice posted, its report queued (R117, R121, R125, R126). DESIGN CHOICE (log
entry 90): REAR_CHANGE comes after every other notice of the request, those of what the Station Manager brings up to
date among them. -/
def decideTaken (x : Taken) (p : Part) : Part :=
  let y := rearDecide x p
  (rearChange x.seat x.kind y.1 (noteReports p (keptUp x.kind p y.2))).queueReport x.seat (some y.1)

/-- A request taken and decided at once (R117, R121). -/
def takeRear (r : RearSeat) (k : RearKind) (arg : Nat) (p : Part) : Part :=
  let p := readAdmission r p
  decideTaken (takenNow r k arg p) p

/-! ### Link errors -/

/-- A rear link error, as the Notice and Fault Unit takes it (R118). -/
def rearFault (p : Part) : Part := p.fault .rearLink

/-- A format error: counted and reported, no report queued (R117). -/
def formatError (p : Part) : Part :=
  rearFault { p with rlu := { p.rlu with formatErrors := count16 p.rlu.formatErrors 1 } }

/-- A check error: counted and reported, no report queued (R117). -/
def checkError (p : Part) : Part :=
  rearFault { p with rlu := { p.rlu with checkErrors := count16 p.rlu.checkErrors 1 } }

/-- A frame error: counted and reported (R115, R116). -/
def frameError (p : Part) : Part :=
  rearFault { p with rlu := { p.rlu with frameErrors := count16 p.rlu.frameErrors 1 } }

/-- The assembler abandons its frame and hunts (R114, R115). -/
def hunt (p : Part) : Part :=
  { p with rlu := { p.rlu with assembler := .hunt, frame := [], length := 0 } }

/-- A line error or an overflow ends the frame in assembly; the request in HANDLING stays, to be decided (R114). -/
def abandonFrame (p : Part) : Part := if p.rlu.assembler == .handling then p else hunt p

/-! ### Frames -/

/-- A seat by its code on the link (R181). -/
def rearSeatOf : Nat → Option RearSeat
  | 1 => some .left
  | 2 => some .right
  | _ => none

/-- A taken frame puts the assembler in HANDLING with its request and the admission that it is decided by (R115, R117,
R121). -/
def holdTaken (r : RearSeat) (k : RearKind) (arg : Nat) (p : Part) : Part :=
  let p := readAdmission r p
  { p with rlu := { p.rlu with assembler := .handling, taken := some (takenNow r k arg p) } }

/-- The judgement of a complete frame: check, format, taken (R117); the argument of a kind without one is 0. -/
def judgeFrame (frame : List Byte) (p : Part) : Part :=
  if ((frame.map BitVec.toNat).sum) % 256 != 0 then checkError p
  else match rearKindOf (valueAt frame 2 1), rearSeatOf (valueAt frame 3 1) with
    | some k, some r =>
      if frame.length == 5 + argCount k && argOk k (valueAt frame 4 1) then
        holdTaken r k (if argCount k = 0 then 0 else valueAt frame 4 1) p
      else formatError p
    | _, _ => formatError p

/-- The value of SYNC (R181). -/
abbrev syncByte : Byte := 0xA5#8

/-- The assembler takes one byte (Table 7.1). A complete frame is judged; the request of a taken one is decided
by its own command (log entry 13). -/
def takeByte (b : Byte) (p : Part) : Part :=
  let r := p.rlu
  match r.assembler with
  | .hunt =>
    if b == syncByte then { p with rlu := { r with assembler := .length, frame := [b] } } else p
  | .length =>
    if 4 ≤ b.toNat && b.toNat ≤ 16 then
      { p with rlu := { r with assembler := .body, frame := r.frame ++ [b], length := b.toNat } }
    else frameError (hunt p)
  | .body =>
    let f := r.frame ++ [b]
    if r.length ≤ f.length then judgeFrame f (hunt p) else { p with rlu := { r with frame := f } }
  | .handling => p

/-- The assembler takes the bytes of the FIFO from the front, one at a time, for at most `n` bytes (R115). -/
def drainFifo : Nat → Part → Part
  | 0, p => p
  | n + 1, p =>
    match p.rlu.fifo, p.rlu.assembler with
    | _, .handling => p
    | [], _ => p
    | b :: rest, _ => drainFifo n (takeByte b { p with rlu := { p.rlu with fifo := rest } })

/-- The assembler takes what the FIFO holds. -/
def drain (p : Part) : Part := drainFifo p.rlu.fifo.length p

/-- The request held in HANDLING, if it is the one that the command stands for. -/
def heldRequest (r : RearSeat) (k : RearKind) (arg : Nat) (u : Rlu) : Option Taken :=
  u.taken.filter fun x => x.seat == r && x.kind == k && x.arg == arg

/-- HANDLING ends as the result is returned: the assembler hunts on through the bytes that have waited (R115,
R117). -/
def endHandling (p : Part) : Part := drain (hunt { p with rlu := { p.rlu with taken := none } })

/-- A rear request decided: the one that is held in HANDLING, which ends; with the assembler in another state the
command stands for its whole frame, taken if its argument is one that Table 7.2 gives and of bad format otherwise
(R117). In HANDLING no other request is decided, and nothing is taken while the node address is invalid (R178; log
entry 13). -/
def rearRequest (r : RearSeat) (k : RearKind) (arg : Nat) (p : Part) : Part :=
  if !p.rif.addressValid then p
  else if p.rlu.assembler == .handling then
    match heldRequest r k arg p.rlu with
    | some x => endHandling (decideTaken x p)
    | none => p
  else if argOk k arg then takeRear r k arg p
  else formatError p

/-- REAR_BYTE_RECEIVED: a missing stop bit is a line error, a full FIFO an overflow that empties it; any other
byte joins the FIFO, from which the assembler takes bytes, but not in HANDLING (R114, R115). -/
def rearByteReceived (b : Byte) (stopBit : Bool) (p : Part) : Part :=
  let r := p.rlu
  if !p.rif.addressValid then p
  else if !stopBit then
    rearFault (abandonFrame { p with rlu := { r with lineErrors := count16 r.lineErrors 1 } })
  else if 32 ≤ r.fifo.length then
    rearFault (abandonFrame { p with rlu := { r with overflows := count16 r.overflows 1, fifo := [] } })
  else drain { p with rlu := { r with fifo := r.fifo ++ [b] } }

/-- REAR_IDLE_TIMEOUT: in LENGTH or BODY the partial frame is discarded, a frame error counted, and the FIFO is
hunted through (R116). -/
def rearIdleTimeout (p : Part) : Part :=
  if p.rlu.assembler == .length || p.rlu.assembler == .body then drain (frameError (hunt p)) else p

/-! ### Reports -/

/-- The station form and its eight bytes (Tables 7.8 and 12.7). -/
def reportStation (p : Part) (z : Zone) : List Byte :=
  match z.source with
  | .radio =>
    match (z.station.bind p.station).bind fun e => e.label with
    | some l => byte1 1 ++ l
    | none => match z.code with
      | some c => byte1 2 ++ byte2 c ++ List.replicate 6 0#8
      | none => List.replicate 9 0#8
  | _ => List.replicate 9 0#8

/-- The CHECK byte: the sum of all the bytes of a frame, modulo 256, is 0 (section 7.2). -/
def checkByte (bs : List Byte) : Byte := BitVec.ofNat 8 (256 - (bs.map BitVec.toNat).sum % 256)

/-- The report frame of a seat with a result, its state read as it stands (Table 12.7). -/
def reportFrame (p : Part) (r : RearSeat) (res : RearResult) : List Byte :=
  let z := p.zone r.zone
  let bs := [syncByte] ++ byte1 23 ++ byte1 0x40 ++ byte1 (match r with
      | .left => 1
      | .right => 2)
    ++ byte1 (rearResultCode res) ++ byte1 (zoneStateCode z.state) ++ byte1 (sourceCode z.source)
    ++ reportStation p z ++ byte1 z.step ++ byte1 (p.rlu.maxCopy.get r) ++ byte1 (codeOfBool z.mute)
    ++ byte1 (membership p r) ++ [p.admissionFlags r] ++ byte1 (modeCode p.pwc.mode)
  bs ++ [checkByte bs]

/-- The seat whose report is sent next: of two, the one not sent last (R127). -/
def nextReport (u : Rlu) : Option (RearSeat × RearResult) :=
  let first := u.lastSent.other
  match u.pending.get first, u.pending.get u.lastSent with
  | some res, _ => some (first, res)
  | none, some res => some (u.lastSent, res)
  | none, none => none

/-- The entries that a report reads are checked: the seat's ADMISSION entry, and on RADIO the station's (R127,
R169). DESIGN CHOICE (log entry 89): ADMISSION is checked first. -/
def readForReport (r : RearSeat) (p : Part) : Part :=
  let z := p.zone r.zone
  let q := checkEntry tblAdmission (rearCode r) p
  match z.source, z.station with
  | .radio, some i => checkStation i q
  | _, _ => q

/-- REPORT_SEND: the transmitter starts the next report's frame, its state read as it stands, and the seat's report
is no longer pending (R127). DESIGN CHOICE (log entry 79): nor is a report of this seat that a poisoning found by the
frame's own reads has queued; the frame gives the state after those reads. -/
def reportSend (p : Part) : Part :=
  match nextReport p.rlu with
  | none => p
  | some (r, res) =>
    if !p.rif.addressValid then p
    else
      let p := settleRead p (readForReport r p)
      { p with rlu := { p.rlu with pending := p.rlu.pending.set r none, lastSent := r, sent := reportFrame p r res } }

end Sys2Proof.Machine
end

