-- ==== Sys2Proof/Machine/Power.lean ====
section
/-! DEFINITION. The Power Controller (chapter 11): the mode and the ignition, POWER_DOWN and its ramp, DORMANT,
the ring-loss count, the three kinds of reset; and the owners of the broadcasts. -/

namespace Sys2Proof.Machine

/-! ### Modes -/

/-- The part with another power mode. -/
def setMode (m : PowerMode) (p : Part) : Part := { p with pwc := { p.pwc with mode := m } }

/-- Entry to REDUCED: MODE_CHANGED is posted, and every block takes its effect (Table 11.1). DESIGN CHOICE (log entry
78): the change reaches the tuners and the scan first, then the zones and with them the call, then the bulletins, so
that SCAN_DONE is posted before CANCELLER, CALL_TALKER and ZONE_LOST, and PROMPT_DROPPED after them (R112, R173). -/
def enterReduced (p : Part) : Part :=
  let p := (setMode .reduced p).post .modeChanged
  let p := zonesReduced (releaseTuners p)
  dropBulletins { p with stm := { p.stm with watchState := .inactive } }

/-- Return to ACTIVE, a POWER_DOWN ramp ended; MODE_CHANGED is posted (R173, R174). -/
def enterActive (p : Part) : Part :=
  (setMode .active { p with pwc := { p.pwc with ramp := none } }).post .modeChanged

/-- An ignition position by its code (Table 12.4). -/
def ignitionOf : Nat → Option Ignition
  | 0 => some .off
  | 1 => some .accessory
  | 2 => some .on
  | _ => none

/-- The ignition position of a broadcast is held and moves the mode (R173). -/
def takeIgnition (g : Ignition) (p : Part) : Part :=
  let p := { p with pwc := { p.pwc with ignition := g } }
  match p.pwc.mode with
  | .active => if g == .off then enterReduced p else p
  | .reduced => if g == .off then p else enterActive p
  | .dormant => p

/-- A road speed above 300 is held as 300 (R31). -/
def takeSpeed (speed : Nat) (p : Part) : Part := { p with zmx := { p.zmx with speed := min 300 speed } }

/-- A VEHICLE_STATE passed on: the ignition to the Power Controller, the speed to the Zone Mixer, the tailgate
to the Render Matrix, in that order (R160; log entry 17). -/
def takeVehicle (g : Ignition) (speed : Nat) (isOpen : Bool) (p : Part) : Part :=
  takeTailgate isOpen (takeSpeed speed (takeIgnition g p))

/-! ### POWER_DOWN and DORMANT -/

/-- POWER_DOWN (R174). -/
def powerDown (p : Part) : Result × Part :=
  if p.isActive then (.state, p)
  else if p.clp.state != .idle then (.callActive, p)
  else if p.ramping then (.busy, p)
  else (.ok, { p with pwc := { p.pwc with ramp := some 0 } })

/-- Entry to DORMANT: the cause is recorded, a ramp ends, and every prompt record is discarded without a notice
(R175, R112). -/
def enterDormant (cause : DormantCause) (p : Part) : Part :=
  { p with
    pwc := { p.pwc with mode := .dormant, ramp := none, lossCount := false, dormantCause := some cause
                        lossInDormant := false }
    anu := { p.anu with playing := none, waiting := [], chime := Chime.stopped, sample := 0 } }

/-- All three applied codes of a zone are 384. -/
def Zone.silent (r : Zone) : Bool := r.ent.applied == 384 && r.prm.applied == 384 && r.call.applied == 384

/-- A zone with its applied codes set to 384 (R174). -/
def Zone.silenced (r : Zone) : Zone :=
  { r with ent := { r.ent with applied := 384 }, prm := { r.prm with applied := 384 }
           call := { r.call with applied := 384 } }

/-- The ramp's end is due: a render block of it at which every applied code is 384, or its 100th (R174). -/
def rampDone (p : Part) : Bool :=
  match p.pwc.ramp with
  | some n => 1 ≤ n && (100 ≤ n || ZoneId.all.all fun z => (p.zone z).silent)
  | none => false

/-- POWER_DOWN_RAMP_END: DORMANT is entered with cause POWER_DOWN (R174). -/
def powerDownRampEnd (p : Part) : Part :=
  if p.running && rampDone p then
    enterDormant .powerDown { p with zmx := { p.zmx with zones := .of fun z => (p.zone z).silenced } }
  else p

/-- RING_LOSS_COUNT_EXPIRY: the part enters DORMANT through loss, in three steps (R176). -/
def ringLossCountExpiry (p : Part) : Part :=
  if p.running && p.pwc.lossCount then
    let p := if p.isActive then enterReduced p else p
    let p := if p.clp.state == .idle then p else endCall p
    enterDormant .loss p
  else p

/-! ### Resets -/

/-- The node address and its validity, read from the straps (R150). -/
def strapped (straps : Nat) : Rif :=
  let a := straps % 64
  { address := a, addressValid := 1 ≤ a && a ≤ 62 }

/-- POWER_ON: every block takes its power-on values, and the straps are read (R177, R178). -/
def powerOnPart (straps draws : Nat) : Part := { rif := strapped straps, draws := draws }

/-- A bank with every applied trim at its closed code (R52). -/
def closedTrims (es : List RenderEntry) : List RenderEntry := es.map (settleTrims false)

/-- A zone's record after a reset: a headphone zone's step is 16 or its seat's maximum, whichever is lower
(R21). -/
def resetZone (maxCopy : PerRear Nat) (z : ZoneId) : Zone :=
  match z.rearSeat? with
  | some r => { step := min 16 (maxCopy.get r) }
  | none => {}

/-- The part after a RESET request or a wake: the tables, their poisoning, what is in force of them, the share
rights, the fault reporting level, the node address, the ring time and the active bank are kept, and the rest
is reset (R177, and the tables of each chapter). -/
def resetPart (cause : StartCause) (p : Part) : Part :=
  { rif := { address := p.rif.address, addressValid := p.rif.addressValid, joined := p.rif.joined
             joinCount := p.rif.joinCount, ringTime := p.rif.ringTime, out := p.rif.out }
    tst := { p.tst with renderA := closedTrims p.tst.renderA, renderB := closedTrims p.tst.renderB
                        scrubbing := false, scrubPos := 0 }
    zmx := { zones := .of (resetZone p.rlu.maxCopy), sources := p.zmx.sources, cargoAuto := p.zmx.cargoAuto }
    rmx := { active := p.rmx.active }
    rlu := { maxCopy := p.rlu.maxCopy }
    tuc := { tuners := .of fun t => { scoring := (p.tuner t).scoring } }
    clp := { sig := { bank := p.rmx.active } }
    nfu := { level := p.nfu.level }
    pwc := { startCause := cause }
    draws := p.draws }

/-- A reset takes effect: a switch is abandoned before it (R90), and STANDBY is issued to each tuner that has an
address (R55, R76), DESIGN CHOICE (log entry 44): to A first. -/
def applyReset (cause : StartCause) (p : Part) : Part :=
  issue .b .standby (issue .a .standby (resetPart cause (abandonSwitch .b (abandonSwitch .a p))))

/-- The start cause of a wake (Table 11.2). -/
def wakeCause (p : Part) : StartCause := if p.pwc.dormantCause == some .loss then .ringLoss else .wake

/-- A wake from DORMANT (R177). -/
def wake (p : Part) : Part := applyReset (wakeCause p) p

/-- A RESET that takes effect when it is taken: a wake in DORMANT, a RESET request's effect otherwise (R177). -/
def takeReset (p : Part) : Part := if p.pwc.mode == .dormant then wake p else applyReset .ringReset p

end Sys2Proof.Machine
end

