-- ==== Sys2Proof/Machine/Owners.lean ====
section
/-! DEFINITION. The owners' decisions of the ring requests that no block file above gives: identity and status,
notices and faults, prompts, scans, the watch, capture, and the requests that name a zone by its id. -/

namespace Sys2Proof.Machine

/-- The part after an owner's answer, with what the Station Manager keeps up and the reports the change
queues. DESIGN CHOICE (log entry 90): the notices of what it brings up to date come after the request's own. -/
def settled (before : Part) (a : Answer) : Answer := { a with part := noteReports before (stmSettle before a.part) }

/-- An owner's answer that may change claims, tuners, zones or prompts. -/
def settling (f : Part → Result × Part) (p : Part) : Answer := settled p (answer (f p))

/-- An owner's answer that changes none of them: the reports the change queues (R126). -/
def reporting (f : Part → Result × Part) (p : Part) : Answer :=
  let a := answer (f p)
  { a with part := noteReports p a.part }

/-- A write or a clear of a table: STATIONS and RADIO_CFG are the Station Manager's. -/
def writing (table : Nat) (f : Part → Result × Part) (p : Part) : Answer :=
  if table == tblStations || table == tblRadio then settling f p else reporting f p

/-- TABLE_READ, settled where a check has found a poisoning (R163, R169). -/
def reading (source table first last mask options : Nat) (p : Part) : Answer :=
  let a := tableRead source table first last mask options p
  { a with part := settleRead p a.part }

/-! ### Identity and status -/

/-- The owner body of IDENTIFY: family code, part code 2460, design version, node address, start cause, ring
time (section 12.3; log entry 15). -/
def identifyBody (p : Part) : List Byte :=
  [Config.familyCode] ++ byte2 2460 ++ [Config.designVersion] ++ byte1 p.rif.address
    ++ byte1 (startCauseCode p.pwc.startCause) ++ byte4 p.rif.ringTime

/-- IDENTIFY changes nothing (R161). -/
def identifyAnswer (p : Part) : Answer := { result := .ok, body := identifyBody p, part := p }

/-- The owner body of STATUS (section 12.3). -/
def statusBody (p : Part) : List Byte :=
  byte4 p.rif.ringTime ++ byte1 (bankCode p.rmx.active) ++ byte1 (levelCode p.nfu.level)
    ++ byte1 (codeOfBool p.nfu.record.isSome) ++ byte1 (tunerStateCode (p.tuner .a).state)
    ++ byte1 (tunerStateCode (p.tuner .b).state)
    ++ (ZoneId.all.flatMap fun z => byte1 (zoneStateCode (p.zone z).state))
    ++ byte2 (match p.anu.playing with
      | some r => r.tag
      | none => 0)
    ++ byte1 p.anu.waiting.length

/-- STATUS changes nothing (R161). -/
def statusAnswer (p : Part) : Answer := { result := .ok, body := statusBody p, part := p }

/-! ### Notices and faults -/

/-- A notice record of six bytes (section 12.3). -/
def noticeBytes (n : Notice) : List Byte :=
  byte1 (noticeCode n.kind) ++ byte2 n.subject ++ byte2 (codeOfOption n.value 65535) ++ byte1 n.count

/-- NOTICE_FETCH: up to 8 notices from the front, removed; the overflow flag as fetched, then cleared (R168). -/
def noticeFetch (p : Part) : Answer :=
  let taken := p.nfu.notices.take 8
  { result := .ok
    body := byte1 (codeOfBool p.nfu.overflow) ++ byte1 taken.length ++ taken.flatMap noticeBytes
    part := { p with nfu := { p.nfu with notices := p.nfu.notices.drop 8, overflow := false } } }

/-- The owner body of FAULT_READ (section 12.3). -/
def recordBody : Option Diagnostic → List Byte
  | none => List.replicate 10 0#8
  | some d => byte1 1 ++ byte1 (faultCode d.kind) ++ byte1 (codeOfOption d.subject 255)
      ++ byte1 (codeOfOption d.entry 255) ++ byte4 d.time ++ byte2 d.later

/-- FAULT_READ: the diagnostic record, cleared (R172). -/
def faultRead (p : Part) : Answer :=
  { result := .ok, body := recordBody p.nfu.record, part := { p with nfu := { p.nfu with record := none } } }

/-- A fault reporting level by its code (Table 12.4). -/
def levelOf : Nat → Option FaultLevel
  | 0 => some .off
  | 1 => some .memory
  | 2 => some .standard
  | 3 => some .full
  | _ => none

/-- FAULT_LEVEL (R171). -/
def faultLevel (level : Nat) (p : Part) : Result × Part :=
  match levelOf level with
  | none => (.badValue, p)
  | some l => (.ok, { p with nfu := { p.nfu with level := l } })

/-! ### Prompts -/

/-- The source of a push, as its class fixes it; none for a class the head unit does not push (Table 6.2). -/
def pushedSource (cls source : Nat) : Option (PromptClass × PromptSource) :=
  if cls == 0 && source < 16 then some (.safety, .pattern source)
  else if cls == 2 && source == 16 then some (.nav, .navVoice)
  else if cls == 4 && source < 16 then some (.chime, .pattern source)
  else none

/-- A pushed record whose fields all lie in their ranges (R101). -/
def pushedRecord (tag cls source zones level maxDuration position : Nat) : Option Prompt :=
  match pushedSource cls source, zoneSetOf zones with
  | some (c, s), some z =>
    if tag ≤ 32767 && !z.isEmpty && level ≤ 384 && 1 ≤ maxDuration && maxDuration ≤ 600000 && position ≤ 1 then
      some { tag := tag, cls := c, source := s, zones := z, level := level, maxDuration := some maxDuration
             front := position == 1 }
    else none
  | _, _ => none

/-- A record that has passed its checks is given its tag, and placed (R100 to R102). -/
def pushPrompt (r : Prompt) (p : Part) : Answer :=
  let x := if r.tag = 0 then assignTag p.anu else (r.tag, p.anu)
  { result := .ok, body := byte2 x.1, part := placePrompt { r with tag := x.1 } { p with anu := x.2 } }

/-- PROMPT_PUSH, checked in the order of R101. -/
def promptPush (tag cls source zones level maxDuration position : Nat) (p : Part) : Answer :=
  match pushedRecord tag cls source zones level maxDuration position with
  | none => { result := .badValue, part := p }
  | some r =>
    if tag != 0 && p.anu.tagHeld tag then { result := .duplicate, part := p }
    else if !r.front && r.cls != .safety && 12 ≤ p.anu.waiting.length then { result := .full, part := p }
    else pushPrompt r p

/-- PROMPT_CANCEL (R108). -/
def promptCancel (tag : Nat) (p : Part) : Result × Part :=
  match p.anu.find tag with
  | none => (.notFound, p)
  | some r => (.ok, tellPrompt r ((removePrompt tag p).post .promptEnded tag))

/-- PROMPT_END (R107). -/
def promptEnd (tag : Nat) (p : Part) : Result × Part :=
  match p.anu.find tag with
  | none => (.notFound, p)
  | some r => if r.cls == .nav then (.ok, (removePrompt tag p).post .promptEnded tag) else (.state, p)

/-! ### Scans, the watch, capture -/

/-- SCAN (R87). -/
def scanStart (band : Nat) (p : Part) : Result × Part :=
  match bandOf band with
  | none => (.badValue, p)
  | some b =>
    if !p.isActive then (.power, p)
    else if p.stm.scan.isSome then (.busy, p)
    else
      let c : Chan := ⟨b, bandBottom b⟩
      match p.arbitrate .scan c none false with
      | none => (.tunerBusy, p)
      | some (t, _) =>
        let p := grant .scan c t false p
        (.ok, { p with stm := { p.stm with scan := some { band := b, tuner := t } } })

/-- SCAN_STOP (R87). -/
def scanStop (p : Part) : Result × Part :=
  if p.stm.scan.isSome then (.ok, endScan true (withdraw .scan p)) else (.state, p)

/-- The watch station is set, the claim for another one given up; WATCH_LOST is posted if the watch is UNCOVERED
at once (R92). -/
def setWatch (i : Nat) (p : Part) : Part :=
  let p := if p.stm.watch == some i then p else clearWatch p
  let p := keepWatch true { p with stm := { p.stm with watch := some i } }
  if p.stm.watchState == .uncovered then p.post .watchLost else p

/-- WATCH (R92). -/
def watchRequest (index : Nat) (p : Part) : Result × Part :=
  if index = 255 then (.ok, clearWatch p)
  else if 47 < index then (.badValue, p)
  else
    let p := checkEntry tblStations index p
    match p.station index with
    | none => (.notFound, p)
    | some e => if e.capable then (.ok, setWatch index p) else (.state, p)

/-- CAPTURE: 0 tuner A, 1 tuner B, 255 none (R95). -/
def captureStart (tuner count : Nat) (p : Part) : Result × Part :=
  if tuner = 255 then (.ok, { p with stm := { p.stm with capTuner := none, capCount := 0 } })
  else if 1 < tuner || count = 0 || 255 < count then (.badValue, p)
  else
    let t : TunerId := if tuner = 0 then .a else .b
    (.ok, { p with stm := { p.stm with capTuner := some t, capCount := count } })

/-- A packet's kind and seven body bytes (section 12.3). -/
def packetBytes (k : Packet) : List Byte :=
  let (kind, body) := match k with
    | .ident c cap act => (0, byte2 c ++ byte1 (codeOfBool cap + 2 * codeOfBool act))
    | .label n c1 c2 => (1, byte1 n ++ [c1, c2])
    | .freqs fs => (2, byte1 fs.length ++ fs.flatMap byte2)
  byte1 kind ++ (body ++ List.replicate 7 0#8).take 7

/-- A captured packet's place in the reply: tuner, kind, ring time, body. -/
def capturedBytes (c : Captured) : List Byte :=
  byte1 (tunerCode c.tuner) ++ (packetBytes c.packet).take 1 ++ byte4 c.time ++ (packetBytes c.packet).drop 1

/-- CAPTURE_READ: up to four packets from the front, removed, and the number left (R96). -/
def captureRead (p : Part) : Answer :=
  let taken := p.stm.capQueue.take 4
  let left := p.stm.capQueue.drop 4
  { result := .ok
    body := byte1 left.length ++ byte1 taken.length ++ taken.flatMap capturedBytes
    part := { p with stm := { p.stm with capQueue := left } } }

/-! ### Requests that name a zone by its id -/

/-- The zone of an id; an id above 5 is refused with BAD_VALUE (section 2.4). -/
def onZone (zone : Nat) (f : ZoneId → Part → Result × Part) (p : Part) : Result × Part :=
  match zoneOf zone with
  | some z => f z p
  | none => (.badValue, p)

/-- ZONE_POWER by id and value (R23). -/
def zonePowerRequest (zone value : Nat) (p : Part) : Result × Part :=
  match boolOf value with
  | some v => onZone zone (fun z => zonePower z v) p
  | none => (.badValue, p)

/-- TUNE by its arguments: zone, selector, station index, frequency (R71, Table 12.4). -/
def tuneRequest (zone selector index freq : Nat) (p : Part) : Result × Part :=
  onZone zone (fun z p =>
    if 2 < selector then (.badValue, p)
    else if (claimantOf z).isNone then (.zoneRole, p)
    else if selector = 0 then (if 47 < index then (.badValue, p) else tuneStation z index p)
    else
      let b : Band := if selector = 1 then .fm else .am
      if validFreq b freq then tuneZone z ⟨b, freq⟩ p else (.badValue, p)) p

/-- SEEK by its arguments; a direction outside the two comes first (R73, R157). -/
def seekRequest (zone direction : Nat) (p : Part) : Result × Part :=
  if 1 < direction then (.badValue, p) else onZone zone (fun z => seekZone z (direction = 0)) p

/-- CALL_ALERT with its answer body, the tag (R131). -/
def callAlertAnswer (zones : Nat) (p : Part) : Answer :=
  let x := callAlert (zoneSetOf zones) p
  { result := x.1, body := (match x.2.1 with
      | some t => byte2 t
      | none => []), part := x.2.2 }

/-- BANK_SWAP with its answer body (R46, R47). -/
def bankSwapAnswer (p : Part) : Answer :=
  let x := bankSwap p
  { result := x.1, body := (match x.2.1 with
      | some n => byte1 n
      | none => []), part := x.2.2 }

/-- RESET: it takes effect once its reply has left the transmit buffer (R166, R177). -/
def resetRequest (p : Part) : Answer :=
  { result := .ok, part := { p with rif := { p.rif with resetPending := true } } }

end Sys2Proof.Machine
end

