-- ==== Sys2Proof/Machine/Ring.lean ====
section
/-! DEFINITION. The Ring Interface (chapter 9): requests, replies and broadcasts, message assembly, and the ring
frames. -/

namespace Sys2Proof.Machine

/-! ### The request kinds -/

/-- The request kinds the part knows, with the least and the greatest body length (Table 12.4). -/
def requestLengths (kind : Nat) : Option (Nat × Nat) :=
  if kind ∈ [0x01, 0x02, 0x14, 0x33, 0x36, 0x51, 0x52, 0x53, 0x54, 0x60, 0x61, 0x70, 0x71] then some (0, 0)
  else if kind ∈ [0x12, 0x15, 0x32, 0x34, 0x50, 0x55, 0x56, 0x62] then some (1, 1)
  else if kind ∈ [0x13, 0x20, 0x21, 0x22, 0x24, 0x31, 0x35, 0x41, 0x42] then some (2, 2)
  else if kind = 0x23 then some (3, 3)
  else if kind = 0x30 then some (5, 5)
  else if kind = 0x10 then some (6, 6)
  else if kind = 0x40 then some (12, 12)
  else if kind = 0x11 then some (5, 56)
  else none

/-- The source may make the request: IDENTIFY, STATUS and TABLE_READ without CLEAR from any node, every other
request from source 0 alone (R157). -/
def sourceMay (kind source : Nat) (clear : Bool) : Bool :=
  source == 0 || kind == 0x01 || kind == 0x02 || (kind == 0x10 && !clear)

/-- The checks 1 to 3 of Table 9.1: the result of the first that fails, none if all pass. -/
def ringChecks (kind len source : Nat) (clear : Bool) : Option Result :=
  match requestLengths kind with
  | none => some .unknownRequest
  | some (lo, hi) =>
    if len < lo || hi < len then some .badLength
    else if sourceMay kind source clear then none
    else some .access

/-! ### Replies -/

/-- The bytes of a reply: header with the reply flag, status fields, owner body, check (R158, R180). -/
def replyBytes (p : Part) (kind : Nat) (h : ReqHeader) (res : Result) (body : List Byte) : List Byte :=
  let b := statusBytes p ++ body
  let m := byte1 (h.source % 64 + 128) ++ byte1 p.rif.address ++ byte1 kind ++ byte1 h.seq ++ byte1 b.length
    ++ byte1 (resultCode res) ++ b
  m ++ byte2 (crc16 m).toNat

/-- The reply is built, its status fields read now, and held in the transmit buffer (R158). -/
def holdReply (kind : Nat) (h : ReqHeader) (res : Result) (body : List Byte) (p : Part) : Part :=
  { p with rif := { p.rif with tx := some { bytes := replyBytes p kind h res body } } }

/-- The saved reply takes a head-unit request's result and body (R159). -/
def saveReply (kind : Nat) (h : ReqHeader) (a : Answer) : Part :=
  if h.source = 0 then
    { a.part with rif := { a.part.rif with saved := some ⟨h.seq, kind, a.result, a.body⟩ } }
  else a.part

/-- The reply of a repeat: the saved result and body of the same sequence number and kind (R159). -/
def repeatOf (p : Part) (kind : Nat) (h : ReqHeader) : Option Saved :=
  if h.source = 0 then p.rif.saved.filter fun s => s.seq == h.seq && s.kind == kind else none

/-- A request that has completed: an overrun while a reply is held; a repeat answered from the saved reply;
otherwise checked, handed to its owner, saved and answered (R157 to R159). -/
def takeRequest (kind : Nat) (h : ReqHeader) (verdict : Option Result) (owner : Part → Answer) (p : Part) : Part :=
  if p.rif.tx.isSome then { p with rif := { p.rif with overruns := count16 p.rif.overruns 1 } }
  else match repeatOf p kind h with
    | some s => holdReply kind h s.result s.body p
    | none =>
      let a : Answer := match verdict with
        | some r => { result := r, part := p }
        | none => owner p
      holdReply kind h a.result a.body (saveReply kind h a)

/-- A request can reach the part: it has joined the ring, its address is valid, and the ring is not in loss
(R150, R154). -/
def Part.hears (p : Part) : Bool := p.rif.joined && p.rif.addressValid && !p.rif.loss

/-- A request addressed to the part arrives: in DORMANT it is discarded unanswered and uncounted (R175). -/
def ringRequest (kind len : Nat) (h : ReqHeader) (clear : Bool) (owner : Part → Answer) (p : Part) : Part :=
  if !p.hears || p.pwc.mode == .dormant then p
  else takeRequest kind h (ringChecks kind len h.source clear) owner p

/-- An addressed RESET arrives: from source 0 in DORMANT it wakes the part (R175, R177). DESIGN CHOICE (log entry 82): it
does so while a reply is still held, too, and whatever the saved reply, with no overrun and no repeat (R157, R159). -/
def resetArrives (len : Nat) (h : ReqHeader) (p : Part) : Part :=
  if p.hears && p.pwc.mode == .dormant && h.source == 0 && len == 0 then wake p
  else ringRequest 0x71 len h false resetRequest p

/-! ### Requests by their bytes -/

/-- The owner of a request kind, with the arguments its body carries, where its length is right (Table 12.4). -/
def ownerOf (kind source : Nat) (b : List Byte) (p : Part) : Answer :=
  let v := valueAt b
  match kind with
  | 0x01 => identifyAnswer p
  | 0x02 => statusAnswer p
  | 0x10 => reading source (v 0 1) (v 1 1) (v 2 1) (v 3 2) (v 5 1) p
  | 0x11 => writing (v 0 1) (tableWrite (v 0 1) (v 1 1) (v 2 2) (b.drop 4)) p
  | 0x12 => writing (v 0 1) (tableClear (v 0 1)) p
  | 0x13 => answer (tableShare (v 0 1) (v 1 1) p)
  | 0x14 => bankSwapAnswer p
  | 0x15 => countersRead (v 0 1) p
  | 0x20 => settling (zonePowerRequest (v 0 1) (v 1 1)) p
  | 0x21 => settling (onZone (v 0 1) fun z => zoneSource z (sourceOf (v 1 1))) p
  | 0x22 => reporting (onZone (v 0 1) fun z => zoneVolume z (v 1 1)) p
  | 0x23 => answer (onZone (v 0 1) (fun z => zoneOffset z (signed16 (v 1 2))) p)
  | 0x24 => reporting (onZone (v 0 1) fun z => zoneMute z (boolOf (v 1 1))) p
  | 0x30 => settling (tuneRequest (v 0 1) (v 1 1) (v 2 1) (v 3 2)) p
  | 0x31 => settling (seekRequest (v 0 1) (v 1 1)) p
  | 0x32 => settling (scanStart (v 0 1)) p
  | 0x33 => settling scanStop p
  | 0x34 => settling (watchRequest (v 0 1)) p
  | 0x35 => answer (captureStart (v 0 1) (v 1 1) p)
  | 0x36 => captureRead p
  | 0x40 => settled p (promptPush (v 0 2) (v 2 1) (v 3 1) (v 4 1) (v 5 2) (v 7 4) (v 11 1) p)
  | 0x41 => settling (promptCancel (v 0 2)) p
  | 0x42 => answer (promptEnd (v 0 2) p)
  | 0x50 => settled p (callAlertAnswer (v 0 1) p)
  | 0x51 => settling callConnect p
  | 0x52 => reporting callHold p
  | 0x53 => settling callResume p
  | 0x54 => reporting callEnd p
  | 0x55 => reporting (callPrivate (boolOf (v 0 1))) p
  | 0x56 => reporting (callZones (zoneSetOf (v 0 1))) p
  | 0x60 => noticeFetch p
  | 0x61 => faultRead p
  | 0x62 => answer (faultLevel (v 0 1) p)
  | 0x70 => answer (powerDown p)
  | _ => resetRequest p

/-! ### Broadcasts -/

/-- A broadcast that is ignored and counted (R160). -/
def ignoreBroadcast (p : Part) : Part :=
  { p with rif := { p.rif with laneErrors := count16 p.rif.laneErrors 1 } }

/-- Broadcasts are taken once the part has joined the ring, in ACTIVE and REDUCED (R150, R160). DESIGN CHOICE (log entry
65): one that DORMANT ignores is not counted, whatever its source, kind or length (R175). -/
def Part.takesBroadcasts (p : Part) : Bool := p.hears && p.pwc.mode != .dormant

/-- VEHICLE_STATE: ignored from another source, and with an ignition or tailgate value outside the codes
(R160). -/
def vehicleState (source ignition speed tailgate : Nat) (p : Part) : Part :=
  if !p.takesBroadcasts then p
  else if source != 0 then ignoreBroadcast p
  else match ignitionOf ignition, boolOf tailgate with
    | some g, some o =>
      noteReports p (stmSettle p (takeVehicle g speed o p))
    | _, _ => ignoreBroadcast p

/-- RING_TIME sets the ring time (R155). -/
def ringTimeBroadcast (source time : Nat) (p : Part) : Part :=
  if !p.takesBroadcasts then p
  else if source != 0 then ignoreBroadcast p
  else { p with rif := { p.rif with ringTime := time % 4294967296 } }

/-- The RESET broadcast: it takes effect when it is taken; in DORMANT it wakes the part (R160, R177). -/
def resetBroadcast (source : Nat) (p : Part) : Part :=
  if !p.hears then p
  else if source = 0 then takeReset p
  else if p.pwc.mode == .dormant then p
  else ignoreBroadcast p

/-! ### Messages -/

/-- The total length of a message whose body has `len` bytes (R180). -/
def messageLength (len : Nat) : Nat := len + 8

/-- A control-lane check error: counted as a lane error and reported (R156). -/
def laneError (p : Part) : Part :=
  { p with rif := { p.rif with laneErrors := count16 p.rif.laneErrors 1, rx := [] } }.fault .laneCheck

/-- A message whose check passes, by its destination: a request of the part's, a broadcast, or another node's.
A set reply flag makes its kind one that is unknown (R156, R157, R160, R180), DESIGN CHOICE (log entry 66): for the
saved reply too, so that no repeat matches the kind without the flag. -/
def dispatchMessage (m : List Byte) (p : Part) : Part :=
  let dest := valueAt m 0 1 % 64
  let kind := valueAt m 2 1 + (if 128 ≤ valueAt m 0 1 then 256 else 0)
  let h : ReqHeader := ⟨valueAt m 1 1 % 64, valueAt m 3 1⟩
  let len := valueAt m 4 1
  let body := (m.drop 6).take len
  if dest == p.rif.address then
    if kind = 0x71 then resetArrives len h p
    else ringRequest kind len h ((valueAt body 5 1).testBit 1) (ownerOf kind h.source body) p
  else if dest == 63 then
    if kind = 0x80 && len = 4 then
      vehicleState h.source (valueAt body 0 1) (valueAt body 1 2) (valueAt body 3 1) p
    else if kind = 0x81 && len = 4 then ringTimeBroadcast h.source (valueAt body 0 4) p
    else if kind = 0x71 && len = 0 then resetBroadcast h.source p
    else if p.takesBroadcasts then ignoreBroadcast p
    else p
  else p

/-- A complete message: its check decides whether it is handled (R156). -/
def completeMessage (m : List Byte) (p : Part) : Part :=
  let n := m.length - 2
  if byte2 (crc16 (m.take n)).toNat == m.drop n then dispatchMessage m { p with rif := { p.rif with rx := [] } }
  else laneError p

/-- An occupied lane word enters message assembly (R156). -/
def assembleWord (lane : List Byte) (p : Part) : Part :=
  let rx := p.rif.rx ++ lane
  let len := valueAt rx 4 1
  if 5 ≤ rx.length && 56 < len then laneError p
  else if 5 ≤ rx.length && messageLength len ≤ rx.length then completeMessage (rx.take (messageLength len)) p
  else { p with rif := { p.rif with rx := rx } }

/-- A message in assembly is abandoned on a free word or a bad frame (R156). -/
def abandonMessage (p : Part) : Part := if p.rif.rx.isEmpty then p else laneError p

/-! ### Sending a reply -/

/-- The transmit buffer is emptied; a RESET that waited for its reply then takes effect (R158, R166). -/
def emptyTx (p : Part) : Part :=
  let q := { p with rif := { p.rif with tx := none } }
  if p.rif.resetPending then applyReset .ringReset q else q

/-- A reply is discarded and counted as a reply timeout (R158). -/
def discardReply (p : Part) : Part :=
  emptyTx { p with rif := { p.rif with replyTimeouts := count16 p.rif.replyTimeouts 1 } }

/-- A reply cut off by an occupied word or a bad frame is to be sent again from its first byte, or, after its
window, is discarded (R158). -/
def cutReply (p : Part) : Part :=
  match p.rif.tx with
  | some t =>
    if t.sent = 0 then p
    else if t.windowOver then discardReply p
    else { p with rif := { p.rif with tx := some { t with sent := 0 } } }
  | none => p

/-- The next four bytes of a reply, the unused ones 0 (R180). -/
def replyWord (t : Tx) : List Byte := ((t.bytes.drop t.sent) ++ List.replicate 4 0#8).take 4

/-- A word of the reply is sent (R158). -/
def sendWord (t : Tx) (p : Part) : Part :=
  if t.bytes.length ≤ t.sent + 4 then emptyTx p
  else { p with rif := { p.rif with tx := some { t with sent := t.sent + 4 } } }

/-- REPLY_WINDOW_EXPIRY: a reply not begun, or not begun again, is discarded; one being sent goes on (R158). DESIGN
CHOICE (log entry 67): the window runs on in DORMANT. -/
def replyWindowExpiry (p : Part) : Part :=
  match p.rif.tx with
  | some t =>
    if t.sent = 0 then discardReply p
    else { p with rif := { p.rif with tx := some { t with windowOver := true } } }
  | none => p

/-! ### Frames -/

/-- The bytes a frame check covers: mark, lane, slots (Table 12.1). -/
def frameBytes (occupied : Bool) (lane : List Byte) (slots : List Sample) : List Byte :=
  byte1 (codeOfBool occupied) ++ lane ++ slots.flatMap byteS3

/-- A frame sent on with a check computed afresh (R151). -/
def freshFrame (occupied : Bool) (lane : List Byte) (slots : List Sample) : FrameOut :=
  { occupied := occupied, lane := lane, slots := slots, check := some (crc16 (frameBytes occupied lane slots)) }

/-- A frame sent on with a check that fails (R151; log entry 16). -/
def badOut (f : Frame) (slots : List Sample) : FrameOut :=
  { occupied := f.occupied, lane := f.lane, slots := slots, check := none }

/-- A bad frame forwarded exactly as it arrives, with its own check (R150, R175). -/
def asArrived (f : Frame) : FrameOut :=
  { occupied := f.occupied, lane := f.lane, slots := f.slots, check := some f.check }

/-- The part with the frame it forwards. -/
def forward (o : FrameOut) (p : Part) : Part := { p with rif := { p.rif with out := some o } }

/-- The input channels of a valid frame (R152). -/
def readChannels (f : Frame) (p : Part) : Part :=
  { p with rif := { p.rif with channels := (List.range 24).map fun ch => match p.ingressSlot ch with
      | some s => f.slots.getD s 0
      | none => 0 } }

/-- The samples of the egress entries: O0 to O31, then UPLINK (R153). -/
def egressSamples (p : Part) : List Sample := p.rmx.outputs ++ [p.clp.uplink]

/-- The slots with the part's own samples in the places the egress map names (R153). -/
def writeSlots (p : Part) (slots : List Sample) : List Sample :=
  (egressSamples p).zipIdx.foldl (fun ss x => match p.egressSlot x.2 with
    | some s => ss.set s x.1
    | none => ss) slots

/-- The end of a ring loss: the Zone Mixer and the Power Controller are told (R154, R176). -/
def endLoss (p : Part) : Part :=
  { p with rif := { p.rif with loss := false }, pwc := { p.pwc with lossCount := false } }

/-- The lane of a valid frame: an occupied word enters assembly and cuts a reply off; a free word abandons a
message in assembly, and carries the next word of a reply (R156, R158). DESIGN CHOICE (log entry 93): a RESET whose
reply an occupied word cuts off after its window takes effect before the word enters assembly. -/
def laneWord (f : Frame) (p : Part) : Part × Bool × List Byte :=
  if f.occupied then (assembleWord f.lane (cutReply p), true, f.lane)
  else
    let p := abandonMessage p
    match p.rif.tx with
    | some t => (sendWord t p, true, replyWord t)
    | none => (p, false, f.lane)

/-- A valid frame on the ring, taken whole (R151 to R153, R156, R158). DESIGN CHOICE (log entry 91): the errors in
the maps, SOURCES and SEATS are reported first, then the slips, the errors in the render banks, and the lane's error. -/
def takeFrame (f : Frame) (mics : List Sample) (p : Part) : Part :=
  let p := ownerReads frameTables (endLoss p)
  let p := audioFrame mics (readChannels f p)
  let slots := writeSlots p f.slots
  let x := laneWord f (ownerReads renderTables p)
  forward (freshFrame x.2.1 x.2.2 slots) x.1

/-- A valid frame in DORMANT: forwarded exactly as it arrives, so that a reply half sent is cut off, by a free word
too (DESIGN CHOICE, log entry 60); its lane enters assembly (R158, R166, R175). -/
def dormantFrame (f : Frame) (p : Part) : Part :=
  let p := cutReply (endLoss p)
  let p := if f.occupied then assembleWord f.lane p else abandonMessage p
  forward (freshFrame f.occupied f.lane f.slots) p

/-- A valid frame wakes the part: the first after a ring loss, where DORMANT was entered by loss or a loss was
declared during DORMANT (Table 11.2). -/
def wakesOn (p : Part) : Bool :=
  p.pwc.mode == .dormant && p.rif.loss && (p.pwc.dormantCause == some .loss || p.pwc.lossInDormant)

/-- A valid frame after the join. DESIGN CHOICE (log entry 92): a frame that wakes the part is taken after the reset, so
that the channels hold its samples and its lane word enters assembly. -/
def joinedFrame (f : Frame) (mics : List Sample) (p : Part) : Part :=
  if wakesOn p then takeFrame f mics (wake p)
  else if p.pwc.mode == .dormant then dormantFrame f p
  else takeFrame f mics p

/-- The RIF leaves PASSTHROUGH (R178). -/
def joinRing (p : Part) : Part := { p with rif := { p.rif with joined := true, joinCount := 48 } }

/-- VALID_FRAME (R150, R151, R178): in PASSTHROUGH the frame is forwarded exactly as it arrives and counts
toward the join. DESIGN CHOICE (log entry 73): the frame that completes the 48 is taken, and joins by itself. -/
def validFrame (f : Frame) (mics : List Sample) (p : Part) : Part :=
  if p.rif.addressValid && p.rif.joined then joinedFrame f mics p
  else if p.rif.addressValid && 47 ≤ p.rif.joinCount then joinedFrame f mics (joinRing p)
  else
    let p := if p.rif.addressValid then { p with rif := { p.rif with joinCount := p.rif.joinCount + 1 } } else p
    forward (freshFrame f.occupied f.lane f.slots) p

/-- The input channels of a bad frame: each holds its sample, but for one that has no slot now, which gives 0 (R151,
R152). -/
def holdChannels (p : Part) : Part :=
  { p with rif := { p.rif with channels := p.rif.channels.zipIdx.map fun x =>
      if (p.ingressSlot x.2).isSome then x.1 else 0 } }

/-- A bad frame after the join: concealed and forwarded (R151); in DORMANT forwarded exactly as it arrives (R175).
DESIGN CHOICE: the lane's error is reported before the slips and the memory errors of the frame (log entry 91), and a
RESET whose reply the frame cuts off takes effect before its audio (log entry 93). -/
def joinedBad (f : Frame) (mics : List Sample) (p : Part) : Part :=
  let p := { p with rif := { p.rif with badFrames := count16 p.rif.badFrames 1 } }
  let p := cutReply (abandonMessage p)
  if p.pwc.mode == .dormant then forward (asArrived f) p
  else
    let p := audioFrame mics (holdChannels (ownerReads frameTables p))
    forward (badOut f (writeSlots p f.slots)) (ownerReads renderTables p)

/-- BAD_FRAME (R150, R151, R178): in PASSTHROUGH it is forwarded exactly as it arrives and restarts the join count.
DESIGN CHOICE (log entry 80): the bad-frame counter does not count it there. -/
def badFrame (f : Frame) (mics : List Sample) (p : Part) : Part :=
  if p.rif.addressValid && p.rif.joined then joinedBad f mics p
  else forward (asArrived f) { p with rif := { p.rif with joinCount := 0 } }

/-! ### The join and ring loss -/

/-- RING_JOIN: the 48th consecutive valid frame; the part leaves PASSTHROUGH (R178). DESIGN CHOICE (log entry 73): it
stands for that frame, so it joins with 47 counted, and the frame itself, which is a VALID_FRAME, is then taken. -/
def ringJoin (p : Part) : Part :=
  if p.rif.addressValid && !p.rif.joined && 47 ≤ p.rif.joinCount then joinRing p else p

/-- JOIN_GAP_EXPIRY: 20 ms without a valid frame restart the join count (R178). -/
def joinGapExpiry (p : Part) : Part :=
  if p.rif.joined then p else { p with rif := { p.rif with joinCount := 0 } }

/-- The Power Controller at a declared loss: the count toward DORMANT starts, or the loss is noted in DORMANT
(R176, Table 11.2). -/
def lossNoted (c : Pwc) : Pwc :=
  if c.mode == .dormant then { c with lossInDormant := true } else { c with lossCount := true }

/-- RING_LOSS_DECLARED: counted and reported, a message in assembly abandoned, a reply discarded (R154). DESIGN
CHOICE (log entry 59): the message that the loss abandons is neither counted nor reported as a lane error. -/
def ringLossDeclared (p : Part) : Part :=
  if p.rif.addressValid && p.rif.joined && !p.rif.loss then
    let r := p.rif
    let p := { p with rif := { r with loss := true, rx := [], ringLosses := count16 r.ringLosses 1 }
                      pwc := lossNoted p.pwc }
    let p := p.fault .ringLoss
    if p.rif.tx.isSome then discardReply p else p
  else p

end Sys2Proof.Machine
end

