-- ==== Sys2Proof/Machine/Requests.lean ====
section
/-! DEFINITION. The meanings of the ring requests and of the three broadcasts: each hands its arguments to the
shared handling of a request (R157 to R159) or of a broadcast (R160). -/

namespace Sys2Proof.Machine

/-- The state after a change of the part; the waiting commands stay. -/
def run (f : Part → Part) (s : State) : Host.Outcome State Fault Refusal := .next { s with part := f s.part }

/-! ### The Ring Interface and the Table Store -/

/-- IDENTIFY (R161). -/
def execIdentify (h : ReqHeader) (s : State) : Host.Outcome State Fault Refusal :=
  run (ringRequest 0x01 0 h false identifyAnswer) s

/-- STATUS (R161). -/
def execStatus (h : ReqHeader) (s : State) : Host.Outcome State Fault Refusal :=
  run (ringRequest 0x02 0 h false statusAnswer) s

/-- TABLE_READ (R163). -/
def execTableRead (h : ReqHeader) (table first last mask options : Nat) (s : State) :
    Host.Outcome State Fault Refusal :=
  run (ringRequest 0x10 6 h (options.testBit 1)
    (reading h.source table first last mask options)) s

/-- TABLE_WRITE (R164); its body is the table, the index, the mask and the values. -/
def execTableWrite (h : ReqHeader) (table index mask : Nat) (values : List Byte) (s : State) :
    Host.Outcome State Fault Refusal :=
  run (ringRequest 0x11 (4 + values.length) h false (writing table (tableWrite table index mask values))) s

/-- TABLE_CLEAR (R165). -/
def execTableClear (h : ReqHeader) (table : Nat) (s : State) : Host.Outcome State Fault Refusal :=
  run (ringRequest 0x12 1 h false (writing table (tableClear table))) s

/-- TABLE_SHARE (R162). -/
def execTableShare (h : ReqHeader) (table right : Nat) (s : State) : Host.Outcome State Fault Refusal :=
  run (ringRequest 0x13 2 h false fun p => answer (tableShare table right p)) s

/-- BANK_SWAP (R46, R47). -/
def execBankSwap (h : ReqHeader) (s : State) : Host.Outcome State Fault Refusal :=
  run (ringRequest 0x14 0 h false bankSwapAnswer) s

/-- COUNTERS_READ (R50). -/
def execCountersRead (h : ReqHeader) (group : Nat) (s : State) : Host.Outcome State Fault Refusal :=
  run (ringRequest 0x15 1 h false (countersRead group)) s

/-! ### Zones -/

/-- ZONE_POWER (R23). -/
def execZonePower (h : ReqHeader) (zone value : Nat) (s : State) : Host.Outcome State Fault Refusal :=
  run (ringRequest 0x20 2 h false (settling (zonePowerRequest zone value))) s

/-- ZONE_SOURCE (R24). -/
def execZoneSource (h : ReqHeader) (zone source : Nat) (s : State) : Host.Outcome State Fault Refusal :=
  run (ringRequest 0x21 2 h false (settling (onZone zone fun z => zoneSource z (sourceOf source)))) s

/-- ZONE_VOLUME (R25). -/
def execZoneVolume (h : ReqHeader) (zone step : Nat) (s : State) : Host.Outcome State Fault Refusal :=
  run (ringRequest 0x22 2 h false (reporting (onZone zone fun z => zoneVolume z step))) s

/-- ZONE_OFFSET (R26). -/
def execZoneOffset (h : ReqHeader) (zone : Nat) (offset : Int) (s : State) : Host.Outcome State Fault Refusal :=
  run (ringRequest 0x23 3 h false fun p => answer (onZone zone (fun z => zoneOffset z offset) p)) s

/-- ZONE_MUTE (R27). -/
def execZoneMute (h : ReqHeader) (zone value : Nat) (s : State) : Host.Outcome State Fault Refusal :=
  run (ringRequest 0x24 2 h false (reporting (onZone zone fun z => zoneMute z (boolOf value)))) s

/-! ### Tuners and stations -/

/-- TUNE (R71, R72). -/
def execTune (h : ReqHeader) (zone selector index freq : Nat) (s : State) : Host.Outcome State Fault Refusal :=
  run (ringRequest 0x30 5 h false (settling (tuneRequest zone selector index freq))) s

/-- SEEK (R73, R74). -/
def execSeek (h : ReqHeader) (zone direction : Nat) (s : State) : Host.Outcome State Fault Refusal :=
  run (ringRequest 0x31 2 h false (settling (seekRequest zone direction))) s

/-- SCAN (R87). -/
def execScan (h : ReqHeader) (band : Nat) (s : State) : Host.Outcome State Fault Refusal :=
  run (ringRequest 0x32 1 h false (settling (scanStart band))) s

/-- SCAN_STOP (R87). -/
def execScanStop (h : ReqHeader) (s : State) : Host.Outcome State Fault Refusal :=
  run (ringRequest 0x33 0 h false (settling scanStop)) s

/-- WATCH (R92). -/
def execWatch (h : ReqHeader) (index : Nat) (s : State) : Host.Outcome State Fault Refusal :=
  run (ringRequest 0x34 1 h false (settling (watchRequest index))) s

/-- CAPTURE (R95). -/
def execCapture (h : ReqHeader) (tuner count : Nat) (s : State) : Host.Outcome State Fault Refusal :=
  run (ringRequest 0x35 2 h false fun p => answer (captureStart tuner count p)) s

/-- CAPTURE_READ (R96). -/
def execCaptureRead (h : ReqHeader) (s : State) : Host.Outcome State Fault Refusal :=
  run (ringRequest 0x36 0 h false captureRead) s

/-! ### Prompts and calls -/

/-- PROMPT_PUSH (R101, R102). -/
def execPromptPush (h : ReqHeader) (tag cls source zones level maxDuration position : Nat) (s : State) :
    Host.Outcome State Fault Refusal :=
  run (ringRequest 0x40 12 h false fun p =>
    settled p (promptPush tag cls source zones level maxDuration position p)) s

/-- PROMPT_CANCEL (R108). -/
def execPromptCancel (h : ReqHeader) (tag : Nat) (s : State) : Host.Outcome State Fault Refusal :=
  run (ringRequest 0x41 2 h false (settling (promptCancel tag))) s

/-- PROMPT_END (R107). -/
def execPromptEnd (h : ReqHeader) (tag : Nat) (s : State) : Host.Outcome State Fault Refusal :=
  run (ringRequest 0x42 2 h false fun p => answer (promptEnd tag p)) s

/-- CALL_ALERT (R131). -/
def execCallAlert (h : ReqHeader) (zones : Nat) (s : State) : Host.Outcome State Fault Refusal :=
  run (ringRequest 0x50 1 h false fun p => settled p (callAlertAnswer zones p)) s

/-- CALL_CONNECT (R132). -/
def execCallConnect (h : ReqHeader) (s : State) : Host.Outcome State Fault Refusal :=
  run (ringRequest 0x51 0 h false (settling callConnect)) s

/-- CALL_HOLD (R133). -/
def execCallHold (h : ReqHeader) (s : State) : Host.Outcome State Fault Refusal :=
  run (ringRequest 0x52 0 h false (reporting callHold)) s

/-- CALL_RESUME (R133). -/
def execCallResume (h : ReqHeader) (s : State) : Host.Outcome State Fault Refusal :=
  run (ringRequest 0x53 0 h false (settling callResume)) s

/-- CALL_END (R134). -/
def execCallEnd (h : ReqHeader) (s : State) : Host.Outcome State Fault Refusal :=
  run (ringRequest 0x54 0 h false (reporting callEnd)) s

/-- CALL_PRIVATE (R135). -/
def execCallPrivate (h : ReqHeader) (value : Nat) (s : State) : Host.Outcome State Fault Refusal :=
  run (ringRequest 0x55 1 h false (reporting (callPrivate (boolOf value)))) s

/-- CALL_ZONES (R136). -/
def execCallZones (h : ReqHeader) (zones : Nat) (s : State) : Host.Outcome State Fault Refusal :=
  run (ringRequest 0x56 1 h false (reporting (callZones (zoneSetOf zones)))) s

/-! ### Notices, faults, power -/

/-- NOTICE_FETCH (R168). -/
def execNoticeFetch (h : ReqHeader) (s : State) : Host.Outcome State Fault Refusal :=
  run (ringRequest 0x60 0 h false noticeFetch) s

/-- FAULT_READ (R172). -/
def execFaultRead (h : ReqHeader) (s : State) : Host.Outcome State Fault Refusal :=
  run (ringRequest 0x61 0 h false faultRead) s

/-- FAULT_LEVEL (R171). -/
def execFaultLevel (h : ReqHeader) (level : Nat) (s : State) : Host.Outcome State Fault Refusal :=
  run (ringRequest 0x62 1 h false fun p => answer (faultLevel level p)) s

/-- POWER_DOWN (R174). -/
def execPowerDown (h : ReqHeader) (s : State) : Host.Outcome State Fault Refusal :=
  run (ringRequest 0x70 0 h false fun p => answer (powerDown p)) s

/-- An addressed RESET (R166, R177). -/
def execReset (h : ReqHeader) (s : State) : Host.Outcome State Fault Refusal :=
  run (resetArrives 0 h) s

/-! ### Broadcasts -/

/-- VEHICLE_STATE (R160). -/
def execVehicleState (source ignition speed tailgate : Nat) (s : State) : Host.Outcome State Fault Refusal :=
  run (vehicleState source ignition speed tailgate) s

/-- RING_TIME (R155). -/
def execRingTime (source time : Nat) (s : State) : Host.Outcome State Fault Refusal :=
  run (ringTimeBroadcast source time) s

/-- The RESET broadcast (R177). -/
def execResetBroadcast (source : Nat) (s : State) : Host.Outcome State Fault Refusal :=
  run (resetBroadcast source) s

end Sys2Proof.Machine
end

