-- ==== Sys2Proof/Machine/Events.lean ====
section
/-! DEFINITION. The meanings of the events: power, the ring, the render blocks, the tuners and the Station
Manager, the rear panel link, and the Call Processor's windows. -/

namespace Sys2Proof.Machine

/-- A change of the part, then what the Station Manager keeps up and the reports the change queues (R86, R88,
R92, R126). DESIGN CHOICE (log entry 90): the notices of the first come before those of the second. -/
def settle (f : Part → Part) (p : Part) : Part := noteReports p (stmSettle p (f p))

/-! ### Power and the ring -/

/-- POWER_ON: the straps are read and every block takes its power-on values (R177, R178). -/
def execPowerOn (straps : Nat) (s : State) : Host.Outcome State Fault Refusal :=
  run (fun p => powerOnPart straps p.draws) s

/-- RING_JOIN (R178). -/
def execRingJoin (s : State) : Host.Outcome State Fault Refusal := run ringJoin s

/-- VALID_FRAME (R151). -/
def execValidFrame (f : Frame) (mics : List Sample) (s : State) : Host.Outcome State Fault Refusal :=
  run (validFrame f mics) s

/-- BAD_FRAME (R151). -/
def execBadFrame (f : Frame) (mics : List Sample) (s : State) : Host.Outcome State Fault Refusal :=
  run (badFrame f mics) s

/-- REPLY_WINDOW_EXPIRY (R158). -/
def execReplyWindowExpiry (s : State) : Host.Outcome State Fault Refusal := run replyWindowExpiry s

/-- RING_LOSS_DECLARED (R154). -/
def execRingLossDeclared (s : State) : Host.Outcome State Fault Refusal := run ringLossDeclared s

/-- RING_LOSS_COUNT_EXPIRY (R176). -/
def execRingLossCountExpiry (s : State) : Host.Outcome State Fault Refusal := run (settle ringLossCountExpiry) s

/-- JOIN_GAP_EXPIRY (R178). -/
def execJoinGapExpiry (s : State) : Host.Outcome State Fault Refusal := run joinGapExpiry s

/-! ### Render blocks -/

/-- POWER_DOWN_RAMP_END (R174). -/
def execPowerDownRampEnd (s : State) : Host.Outcome State Fault Refusal := run (settle powerDownRampEnd) s

/-- ZMX_RENDER_BLOCK (R7, R22, R35 to R37). -/
def execZmxRenderBlock (s : State) : Host.Outcome State Fault Refusal := run (settle zmxBlock) s

/-- RMX_RENDER_BLOCK (R48). -/
def execRmxRenderBlock (s : State) : Host.Outcome State Fault Refusal := run rmxBlock s

/-- BANK_CROSSFADE_END (R48). -/
def execBankCrossfadeEnd (s : State) : Host.Outcome State Fault Refusal := run bankCrossfadeEnd s

/-- ANU_RENDER_BLOCK (R104). -/
def execAnuRenderBlock (s : State) : Host.Outcome State Fault Refusal := run (settle anuBlock) s

/-- PROMPT_DURATION_EXPIRY (R106). -/
def execPromptDurationExpiry (s : State) : Host.Outcome State Fault Refusal := run (settle promptExpiry) s

/-- CHIME_SEGMENT_END (R110). -/
def execChimeSegmentEnd (s : State) : Host.Outcome State Fault Refusal := run (settle chimeSegmentEnd) s

/-- RING_TIME_TICK (R155). -/
def execRingTimeTick (s : State) : Host.Outcome State Fault Refusal := run ringTimeTick s

/-- ADAPTER_TRIM_ADJUST (R65). -/
def execAdapterTrimAdjust (t : TunerId) (s : State) : Host.Outcome State Fault Refusal := run (adapterTrimAdjust t) s

/-- SCRUB_PASS_START (R170). -/
def execScrubPassStart (s : State) : Host.Outcome State Fault Refusal := run scrubPassStart s

/-- SCRUB_VISIT (R170). -/
def execScrubVisit (upsets : List Upset) (s : State) : Host.Outcome State Fault Refusal :=
  run (fun p => settleRead p (scrubVisit upsets p)) s

/-! ### Tuners and stations -/

/-- QUALITY_REPORT (R60). -/
def execQualityReport (t : TunerId) (fs mp adj : Nat) (settled pilot : Bool) (s : State) :
    Host.Outcome State Fault Refusal :=
  run (settle (qualityReport t fs mp adj settled pilot)) s

/-- SETTLE_TIMEOUT (R59). -/
def execSettleTimeout (t : TunerId) (s : State) : Host.Outcome State Fault Refusal := run (settle (settleTimeout t)) s

/-- SEEK_JUDGE_TIMEOUT (R74). -/
def execSeekJudgeTimeout (t : TunerId) (s : State) : Host.Outcome State Fault Refusal :=
  run (settle (seekJudgeTimeout t)) s

/-- SCAN_JUDGE_TIMEOUT (R87). -/
def execScanJudgeTimeout (s : State) : Host.Outcome State Fault Refusal := run (settle scanJudgeTimeout) s

/-- SCAN_DWELL_TIMEOUT (R87). -/
def execScanDwellTimeout (s : State) : Host.Outcome State Fault Refusal := run (settle scanDwellTimeout) s

/-- BACKGROUND_DWELL_END (R86). -/
def execBackgroundDwellEnd (s : State) : Host.Outcome State Fault Refusal := run (settle backgroundDwellEnd) s

/-- QUALITY_STORE (R85). -/
def execQualityStore (t : TunerId) (s : State) : Host.Outcome State Fault Refusal := run (qualityStore t) s

/-- AF_HOLD_EXPIRY (R88). -/
def execAfHoldExpiry (t : TunerId) (s : State) : Host.Outcome State Fault Refusal := run (settle (afHoldExpiry t)) s

/-- SWITCH_VERIFY_TIMEOUT (R89). -/
def execSwitchVerifyTimeout (t : TunerId) (s : State) : Host.Outcome State Fault Refusal :=
  run (settle (switchVerifyTimeout t)) s

/-- AF_FADE_STEP (R90). -/
def execAfFadeStep (t : TunerId) (s : State) : Host.Outcome State Fault Refusal := run (settle (afFadeStep t)) s

/-- AF_SWITCH_COMPLETE (R90). -/
def execAfSwitchComplete (t : TunerId) (s : State) : Host.Outcome State Fault Refusal :=
  run (settle (afSwitchComplete t)) s

/-- BLIND_CHECK_MEASURE_TIMEOUT (R91). -/
def execBlindCheckMeasureTimeout (t : TunerId) (s : State) : Host.Outcome State Fault Refusal :=
  run (settle (checkMeasureTimeout t)) s

/-- CHECK_VERIFY_TIMEOUT (R91). -/
def execCheckVerifyTimeout (t : TunerId) (s : State) : Host.Outcome State Fault Refusal :=
  run (settle (checkVerifyTimeout t)) s

/-- TUNER_AUDIO_SAMPLE (R64). -/
def execTunerAudioSample (t : TunerId) (left right : Sample) (s : State) : Host.Outcome State Fault Refusal :=
  run (tunerAudioSample t left right) s

/-- SERVICE_PACKET (R77). -/
def execServicePacket (t : TunerId) (checkPassed : Bool) (p : Packet) (s : State) : Host.Outcome State Fault Refusal :=
  run (settle (servicePacket t checkPassed p)) s

/-- CAPTURE_IDLE_TIMEOUT (R96). -/
def execCaptureIdleTimeout (s : State) : Host.Outcome State Fault Refusal := run captureIdle s

/-- WATCH_RETRY (R92). -/
def execWatchRetry (s : State) : Host.Outcome State Fault Refusal := run (settle watchRetry) s

/-- LINK_ACK (R55). -/
def execLinkAck (s : State) : Host.Outcome State Fault Refusal := run linkAck s

/-- LINK_NO_ACK (R56). -/
def execLinkNoAck (s : State) : Host.Outcome State Fault Refusal := run (settle linkNoAck) s

/-- ACK_RETRY_WAIT_EXPIRY (R56). -/
def execAckRetryWaitExpiry (t : TunerId) (s : State) : Host.Outcome State Fault Refusal :=
  run (ackRetryWaitExpiry t) s

/-! ### The rear panel link -/

/-- REAR_BYTE_RECEIVED (R114). -/
def execRearByteReceived (b : Byte) (stopBit : Bool) (s : State) : Host.Outcome State Fault Refusal :=
  run (rearByteReceived b stopBit) s

/-- REAR_IDLE_TIMEOUT (R116). -/
def execRearIdleTimeout (s : State) : Host.Outcome State Fault Refusal := run rearIdleTimeout s

/-- HP_POWER (R122). -/
def execHpPower (r : RearSeat) (arg : Nat) (s : State) : Host.Outcome State Fault Refusal :=
  run (rearRequest r .power arg) s

/-- HP_SOURCE (R122). -/
def execHpSource (r : RearSeat) (arg : Nat) (s : State) : Host.Outcome State Fault Refusal :=
  run (rearRequest r .source arg) s

/-- HP_STATION (R123). -/
def execHpStation (r : RearSeat) (arg : Nat) (s : State) : Host.Outcome State Fault Refusal :=
  run (rearRequest r .station arg) s

/-- HP_VOLUME (R122). -/
def execHpVolume (r : RearSeat) (arg : Nat) (s : State) : Host.Outcome State Fault Refusal :=
  run (rearRequest r .volume arg) s

/-- HP_MUTE (R122). -/
def execHpMute (r : RearSeat) (arg : Nat) (s : State) : Host.Outcome State Fault Refusal :=
  run (rearRequest r .mute arg) s

/-- CABIN_OFFSET (R124). -/
def execCabinOffset (r : RearSeat) (arg : Nat) (s : State) : Host.Outcome State Fault Refusal :=
  run (rearRequest r .cabin arg) s

/-- CALL_JOIN (R137). -/
def execCallJoin (r : RearSeat) (s : State) : Host.Outcome State Fault Refusal := run (rearRequest r .join 0) s

/-- CALL_LEAVE (R137). -/
def execCallLeave (r : RearSeat) (s : State) : Host.Outcome State Fault Refusal := run (rearRequest r .leave 0) s

/-- STATE_QUERY (R121). -/
def execStateQuery (r : RearSeat) (s : State) : Host.Outcome State Fault Refusal := run (rearRequest r .query 0) s

/-- REPORT_SEND (R127). -/
def execReportSend (s : State) : Host.Outcome State Fault Refusal := run reportSend s

/-! ### The Call Processor -/

/-- METER_UPDATE (R141, R142). -/
def execMeterUpdate (k : Seat) (s : State) : Host.Outcome State Fault Refusal := run (meterUpdate k) s

/-- ERLE_WINDOW_END (R146, R147). -/
def execErleWindowEnd (k : Seat) (s : State) : Host.Outcome State Fault Refusal := run (erleWindowEnd k) s

end Sys2Proof.Machine
end

