-- ==== Sys2Proof/Machine/Dispatch.lean ====
section
/-! DEFINITION. The dispatch of the commands to their meanings, one arm for each row of the table. -/

namespace Sys2Proof.Machine

def exec (i : Instr) (s : State) : Host.Outcome State Fault Refusal :=
  match i with
  | .powerOn straps => Sys2Proof.Machine.execPowerOn straps s
  | .ringJoin => Sys2Proof.Machine.execRingJoin s
  | .validFrame f mics => Sys2Proof.Machine.execValidFrame f mics s
  | .badFrame f mics => Sys2Proof.Machine.execBadFrame f mics s
  | .replyWindowExpiry => Sys2Proof.Machine.execReplyWindowExpiry s
  | .ringLossDeclared => Sys2Proof.Machine.execRingLossDeclared s
  | .ringLossCountExpiry => Sys2Proof.Machine.execRingLossCountExpiry s
  | .identify h => Sys2Proof.Machine.execIdentify h s
  | .status h => Sys2Proof.Machine.execStatus h s
  | .tableRead h table first last mask options => Sys2Proof.Machine.execTableRead h table first last mask options s
  | .tableWrite h table index mask values => Sys2Proof.Machine.execTableWrite h table index mask values s
  | .tableClear h table => Sys2Proof.Machine.execTableClear h table s
  | .tableShare h table right => Sys2Proof.Machine.execTableShare h table right s
  | .bankSwap h => Sys2Proof.Machine.execBankSwap h s
  | .countersRead h group => Sys2Proof.Machine.execCountersRead h group s
  | .zonePower h zone value => Sys2Proof.Machine.execZonePower h zone value s
  | .zoneSource h zone source => Sys2Proof.Machine.execZoneSource h zone source s
  | .zoneVolume h zone step => Sys2Proof.Machine.execZoneVolume h zone step s
  | .zoneOffset h zone offset => Sys2Proof.Machine.execZoneOffset h zone offset s
  | .zoneMute h zone value => Sys2Proof.Machine.execZoneMute h zone value s
  | .tune h zone selector index freq => Sys2Proof.Machine.execTune h zone selector index freq s
  | .seek h zone direction => Sys2Proof.Machine.execSeek h zone direction s
  | .scan h band => Sys2Proof.Machine.execScan h band s
  | .scanStop h => Sys2Proof.Machine.execScanStop h s
  | .watch h index => Sys2Proof.Machine.execWatch h index s
  | .capture h tuner count => Sys2Proof.Machine.execCapture h tuner count s
  | .captureRead h => Sys2Proof.Machine.execCaptureRead h s
  | .promptPush h tag cls source zones level maxDuration position => Sys2Proof.Machine.execPromptPush h tag cls source zones level maxDuration position s
  | .promptCancel h tag => Sys2Proof.Machine.execPromptCancel h tag s
  | .promptEnd h tag => Sys2Proof.Machine.execPromptEnd h tag s
  | .callAlert h zones => Sys2Proof.Machine.execCallAlert h zones s
  | .callConnect h => Sys2Proof.Machine.execCallConnect h s
  | .callHold h => Sys2Proof.Machine.execCallHold h s
  | .callResume h => Sys2Proof.Machine.execCallResume h s
  | .callEnd h => Sys2Proof.Machine.execCallEnd h s
  | .callPrivate h value => Sys2Proof.Machine.execCallPrivate h value s
  | .callZones h zones => Sys2Proof.Machine.execCallZones h zones s
  | .noticeFetch h => Sys2Proof.Machine.execNoticeFetch h s
  | .faultRead h => Sys2Proof.Machine.execFaultRead h s
  | .faultLevel h level => Sys2Proof.Machine.execFaultLevel h level s
  | .powerDown h => Sys2Proof.Machine.execPowerDown h s
  | .reset h => Sys2Proof.Machine.execReset h s
  | .vehicleState source ignition speed tailgate => Sys2Proof.Machine.execVehicleState source ignition speed tailgate s
  | .ringTime source time => Sys2Proof.Machine.execRingTime source time s
  | .resetBroadcast source => Sys2Proof.Machine.execResetBroadcast source s
  | .powerDownRampEnd => Sys2Proof.Machine.execPowerDownRampEnd s
  | .zmxRenderBlock => Sys2Proof.Machine.execZmxRenderBlock s
  | .rmxRenderBlock => Sys2Proof.Machine.execRmxRenderBlock s
  | .bankCrossfadeEnd => Sys2Proof.Machine.execBankCrossfadeEnd s
  | .anuRenderBlock => Sys2Proof.Machine.execAnuRenderBlock s
  | .promptDurationExpiry => Sys2Proof.Machine.execPromptDurationExpiry s
  | .chimeSegmentEnd => Sys2Proof.Machine.execChimeSegmentEnd s
  | .ringTimeTick => Sys2Proof.Machine.execRingTimeTick s
  | .adapterTrimAdjust t => Sys2Proof.Machine.execAdapterTrimAdjust t s
  | .scrubPassStart => Sys2Proof.Machine.execScrubPassStart s
  | .scrubVisit upsets => Sys2Proof.Machine.execScrubVisit upsets s
  | .qualityReport t fs mp adj settled pilot => Sys2Proof.Machine.execQualityReport t fs mp adj settled pilot s
  | .settleTimeout t => Sys2Proof.Machine.execSettleTimeout t s
  | .seekJudgeTimeout t => Sys2Proof.Machine.execSeekJudgeTimeout t s
  | .scanJudgeTimeout => Sys2Proof.Machine.execScanJudgeTimeout s
  | .scanDwellTimeout => Sys2Proof.Machine.execScanDwellTimeout s
  | .backgroundDwellEnd => Sys2Proof.Machine.execBackgroundDwellEnd s
  | .qualityStore t => Sys2Proof.Machine.execQualityStore t s
  | .afHoldExpiry t => Sys2Proof.Machine.execAfHoldExpiry t s
  | .switchVerifyTimeout t => Sys2Proof.Machine.execSwitchVerifyTimeout t s
  | .afFadeStep t => Sys2Proof.Machine.execAfFadeStep t s
  | .afSwitchComplete t => Sys2Proof.Machine.execAfSwitchComplete t s
  | .blindCheckMeasureTimeout t => Sys2Proof.Machine.execBlindCheckMeasureTimeout t s
  | .checkVerifyTimeout t => Sys2Proof.Machine.execCheckVerifyTimeout t s
  | .tunerAudioSample t left right => Sys2Proof.Machine.execTunerAudioSample t left right s
  | .servicePacket t checkPassed p => Sys2Proof.Machine.execServicePacket t checkPassed p s
  | .captureIdleTimeout => Sys2Proof.Machine.execCaptureIdleTimeout s
  | .watchRetry => Sys2Proof.Machine.execWatchRetry s
  | .linkAck => Sys2Proof.Machine.execLinkAck s
  | .linkNoAck => Sys2Proof.Machine.execLinkNoAck s
  | .ackRetryWaitExpiry t => Sys2Proof.Machine.execAckRetryWaitExpiry t s
  | .rearByteReceived b stopBit => Sys2Proof.Machine.execRearByteReceived b stopBit s
  | .rearIdleTimeout => Sys2Proof.Machine.execRearIdleTimeout s
  | .hpPower r arg => Sys2Proof.Machine.execHpPower r arg s
  | .hpSource r arg => Sys2Proof.Machine.execHpSource r arg s
  | .hpStation r arg => Sys2Proof.Machine.execHpStation r arg s
  | .hpVolume r arg => Sys2Proof.Machine.execHpVolume r arg s
  | .hpMute r arg => Sys2Proof.Machine.execHpMute r arg s
  | .cabinOffset r arg => Sys2Proof.Machine.execCabinOffset r arg s
  | .callJoin r => Sys2Proof.Machine.execCallJoin r s
  | .callLeave r => Sys2Proof.Machine.execCallLeave r s
  | .stateQuery r => Sys2Proof.Machine.execStateQuery r s
  | .reportSend => Sys2Proof.Machine.execReportSend s
  | .meterUpdate k => Sys2Proof.Machine.execMeterUpdate k s
  | .erleWindowEnd k => Sys2Proof.Machine.execErleWindowEnd k s
  | .joinGapExpiry => Sys2Proof.Machine.execJoinGapExpiry s

end Sys2Proof.Machine
end

