-- ==== Sys2Proof/Safety.lean ====
section
/-! DEFINITION. The terms the claims use: which command is a request, when a request of the head unit is taken, the
part after its answer, and the properties of the state that every command keeps. -/

namespace Sys2Proof.Machine

/-! ### Requests -/

/-- The kind and the header of a request addressed to the part; none for an event or a broadcast (Table 12.4). -/
def requestOf : Instr → Option (Nat × ReqHeader)
  | .identify h => some (0x01, h)
  | .status h => some (0x02, h)
  | .tableRead h _ _ _ _ _ => some (0x10, h)
  | .tableWrite h _ _ _ _ => some (0x11, h)
  | .tableClear h _ => some (0x12, h)
  | .tableShare h _ _ => some (0x13, h)
  | .bankSwap h => some (0x14, h)
  | .countersRead h _ => some (0x15, h)
  | .zonePower h _ _ => some (0x20, h)
  | .zoneSource h _ _ => some (0x21, h)
  | .zoneVolume h _ _ => some (0x22, h)
  | .zoneOffset h _ _ => some (0x23, h)
  | .zoneMute h _ _ => some (0x24, h)
  | .tune h _ _ _ _ => some (0x30, h)
  | .seek h _ _ => some (0x31, h)
  | .scan h _ => some (0x32, h)
  | .scanStop h => some (0x33, h)
  | .watch h _ => some (0x34, h)
  | .capture h _ _ => some (0x35, h)
  | .captureRead h => some (0x36, h)
  | .promptPush h _ _ _ _ _ _ _ => some (0x40, h)
  | .promptCancel h _ => some (0x41, h)
  | .promptEnd h _ => some (0x42, h)
  | .callAlert h _ => some (0x50, h)
  | .callConnect h => some (0x51, h)
  | .callHold h => some (0x52, h)
  | .callResume h => some (0x53, h)
  | .callEnd h => some (0x54, h)
  | .callPrivate h _ => some (0x55, h)
  | .callZones h _ => some (0x56, h)
  | .noticeFetch h => some (0x60, h)
  | .faultRead h => some (0x61, h)
  | .faultLevel h _ => some (0x62, h)
  | .powerDown h => some (0x70, h)
  | .reset h => some (0x71, h)
  | .powerOn _ | .ringJoin | .validFrame _ _ | .badFrame _ _ | .replyWindowExpiry | .ringLossDeclared
  | .ringLossCountExpiry | .vehicleState _ _ _ _ | .ringTime _ _ | .resetBroadcast _ | .powerDownRampEnd
  | .zmxRenderBlock | .rmxRenderBlock | .bankCrossfadeEnd | .anuRenderBlock | .promptDurationExpiry
  | .chimeSegmentEnd | .ringTimeTick | .adapterTrimAdjust _ | .scrubPassStart | .scrubVisit _
  | .qualityReport _ _ _ _ _ _ | .settleTimeout _ | .seekJudgeTimeout _ | .scanJudgeTimeout | .scanDwellTimeout
  | .backgroundDwellEnd | .qualityStore _ | .afHoldExpiry _ | .switchVerifyTimeout _ | .afFadeStep _
  | .afSwitchComplete _ | .blindCheckMeasureTimeout _ | .checkVerifyTimeout _ | .tunerAudioSample _ _ _
  | .servicePacket _ _ _ | .captureIdleTimeout | .watchRetry | .linkAck | .linkNoAck | .ackRetryWaitExpiry _
  | .rearByteReceived _ _ | .rearIdleTimeout | .hpPower _ _ | .hpSource _ _ | .hpStation _ _ | .hpVolume _ _
  | .hpMute _ _ | .cabinOffset _ _ | .callJoin _ | .callLeave _ | .stateQuery _ | .reportSend | .meterUpdate _
  | .erleWindowEnd _ | .joinGapExpiry => none

/-- The part takes a new request of the head unit's: it hears the ring, is not in DORMANT, holds no reply, and the
request is no repeat (R150, R154, R157, R159, R175). -/
def Part.takes (p : Part) (kind : Nat) (h : ReqHeader) : Bool :=
  p.hears && p.pwc.mode != .dormant && p.rif.tx.isNone && h.source == 0 && (repeatOf p kind h).isNone

/-- The part `q`, with a head-unit request answered: the reply is saved, and held in the transmit buffer with the
status fields of `q` (R158, R159). -/
def answered (kind : Nat) (h : ReqHeader) (res : Result) (body : List Byte) (q : Part) : Part :=
  { q with rif := { q.rif with saved := some ⟨h.seq, kind, res, body⟩
                               tx := some { bytes := replyBytes q kind h res body } } }

/-- The state with another part; the waiting commands stay. -/
def State.put (s : State) (q : Part) : State := { s with part := q }

/-! ### Messages and frames, as bytes -/

/-- The body of a request of the ring, by Table 12.4. -/
def requestBody : Instr → List Byte
  | .tableRead _ t i j m o => byte1 t ++ byte1 i ++ byte1 j ++ byte2 m ++ byte1 o
  | .tableWrite _ t i m vs => byte1 t ++ byte1 i ++ byte2 m ++ vs
  | .tableClear _ x | .countersRead _ x | .scan _ x | .watch _ x | .callAlert _ x | .callPrivate _ x
  | .callZones _ x | .faultLevel _ x => byte1 x
  | .tableShare _ x y | .zonePower _ x y | .zoneSource _ x y | .zoneVolume _ x y | .zoneMute _ x y
  | .seek _ x y | .capture _ x y => byte1 x ++ byte1 y
  | .zoneOffset _ z off => byte1 z ++ byteS2 off
  | .tune _ z sel i f => byte1 z ++ byte1 sel ++ byte1 i ++ byte2 f
  | .promptPush _ tag c src z lv d pos =>
      byte2 tag ++ byte1 c ++ byte1 src ++ byte1 z ++ byte2 lv ++ byte4 d ++ byte1 pos
  | .promptCancel _ tag | .promptEnd _ tag => byte2 tag
  | _ => []

/-- A request of the ring as its message to a node: header, body and check (Table 12.2, R180). -/
def requestMessage (address kind : Nat) (h : ReqHeader) (body : List Byte) : List Byte :=
  let m := byte1 address ++ byte1 h.source ++ byte1 kind ++ byte1 h.seq ++ byte1 body.length ++ byte1 0 ++ body
  m ++ byte2 (crc16 m).toNat

/-- The kind, the seat and the arguments of a rear request (R181); none for any other command. -/
def rearRequestOf : Instr → Option (Nat × RearSeat × List Byte)
  | .hpPower r x => some (1, r, byte1 x)
  | .hpSource r x => some (2, r, byte1 x)
  | .hpStation r x => some (3, r, byte1 x)
  | .hpVolume r x => some (4, r, byte1 x)
  | .hpMute r x => some (5, r, byte1 x)
  | .cabinOffset r x => some (6, r, byte1 x)
  | .callJoin r => some (7, r, [])
  | .callLeave r => some (8, r, [])
  | .stateQuery r => some (9, r, [])
  | _ => none

/-- A rear request as its frame: SYNC, LENGTH, KIND, SEAT, arguments, CHECK (section 7.2, R181). -/
def rearFrame (kind : Nat) (r : RearSeat) (args : List Byte) : List Byte :=
  let bs := [syncByte] ++ byte1 (5 + args.length) ++ byte1 kind ++ byte1 (rearCode r + 1) ++ args
  bs ++ [checkByte bs]

/-- Commands run one after another, stopping where one stops. -/
def runAll : List Instr → State → Host.Outcome State Fault Refusal
  | [], s => .next s
  | c :: cs, s => match exec c s with
    | .next t => runAll cs t
    | other => other

/-! ### What every command keeps -/

/-- The notice queue is sound: at most 32 notices, no two of the same kind and subject, each posted 1 to 255 times
(R167). -/
def Nfu.Sound (n : Nfu) : Prop :=
  n.notices.length ≤ 32 ∧ (n.notices.map fun m => (m.kind, m.subject)).Nodup
    ∧ ∀ m ∈ n.notices, 1 ≤ m.count ∧ m.count ≤ 255

/-- Both tuners are IDLE without a claim, a tune, a seek, a retry or a switch, and no zone is granted one (Table 4.2). -/
def Part.tunersFree (p : Part) : Bool :=
  p.tuc.grants.isEmpty && TunerId.all.all fun t =>
    (p.tuner t).state == .idle && (p.tuner t).claims.isEmpty && (p.tuner t).retry.isNone && (p.tuner t).seek.isNone
      && (p.tuner t).note.isNone && !p.switching t

/-- Tuner `t` plays for its claims and does nothing else: PLAYING with its tune completed, no seek, no scan, no switch
that it takes part in, no check, no retry (Table 4.2, R88). -/
def Part.playsOn (p : Part) (t : TunerId) : Bool :=
  (p.tuner t).state == .playing && (p.tuner t).acked && (p.tuner t).done && (p.tuner t).seek.isNone
    && (p.tuner t).note.isNone && (p.tuner t).retry.isNone && !(p.tuner t).claims.isEmpty
    && (p.follow t).state == .monitor && !p.switching t.other && p.stm.scan.isNone

/-- What the Station Manager keeps up stands as it is: no bulletin is prompted, or bulletins are enabled; no watch
station is set, or they are disabled; no WATCH and no BACKGROUND claim, no cycling, no low-quality timer (R86, R88,
R92, R94). -/
def Part.still (p : Part) : Bool :=
  (p.stm.bulletin.latch != .prompted || p.radioCfg.bulletins) && (p.stm.watch.isNone || !p.radioCfg.bulletins)
    && p.stm.watchState == .inactive && (p.holding .watch).isNone && (p.holding .background).isNone
    && !p.radioCfg.background && !(p.follow .a).lowTimer && !(p.follow .b).lowTimer

/-! ### Calls -/

/-- A seat is the best candidate for the talker: admitted, at or below the gate, and of the lowest level, the lower seat
among equals (R142). -/
abbrev Part.bestSeat (p : Part) (b : Seat) : Prop :=
  p.clp.admitted.get b = true ∧ (p.seat b).v ≤ p.callCfg.gateLevel
    ∧ ∀ j, p.clp.admitted.get j = true →
        (p.seat b).v < (p.seat j).v ∨ ((p.seat b).v = (p.seat j).v ∧ seatCode b ≤ seatCode j)

/-- The seats' contexts and the talker in the part `q` after the change of the call zones and of admission from the part
`p`: a seat that becomes admitted trains with the new path signature, one that loses admission is RESET, one that stays
admitted trains anew if its context runs and the signature has changed and is left as it is otherwise, and a talker that
loses admission is absent (R139, R143, R145). -/
abbrev Part.seatsFollow (p q : Part) : Prop :=
  q.clp.sig = { p.clp.sig with zones := q.clp.zones }
    ∧ (∀ k, q.clp.admitted.get k = true → p.clp.admitted.get k = false →
        (q.seat k).context = .training ∧ (q.seat k).sig = some q.clp.sig)
    ∧ (∀ k, q.clp.admitted.get k = false → p.clp.admitted.get k = true →
        (q.seat k).context = .reset ∧ (q.seat k).sig = none)
    ∧ (∀ k, q.clp.admitted.get k = p.clp.admitted.get k →
        if q.clp.sig = p.clp.sig ∨ (p.seat k).context = .reset then q.seat k = p.seat k
        else (q.seat k).context = .training ∧ (q.seat k).sig = some q.clp.sig)
    ∧ q.clp.talker = p.clp.talker.filter fun k => q.clp.admitted.get k || !p.clp.admitted.get k

/-! ### Resets -/

/-- The last word of a reply that a RESET waits for goes out in a frame with this lane mark (R158, R166). -/
def Part.sendsLastWord (p : Part) (occupied : Bool) : Bool :=
  !occupied && p.rif.resetPending && p.rif.tx.any fun t => t.bytes.length ≤ t.sent + 4

/-- A frame that cuts off a begun reply whose window is over discards it, and a RESET that waits for it takes effect
(R158, R166). -/
def Part.cutEndsReset (p : Part) : Bool :=
  p.rif.resetPending && p.rif.tx.any fun t => t.sent != 0 && t.windowOver

/-- The lane word completes a RESET of the head unit that takes effect as it arrives: a broadcast, or in DORMANT one
to the part's address, and 63 is no part's address (R150, R156, R166, R175, R180). -/
def Part.resetCompletes (p : Part) (lane : List Byte) : Bool :=
  let m := p.rif.rx ++ lane
  let is (dest : Nat) : Bool := m.take 8 == requestMessage dest 0x71 ⟨0, valueAt m 3 1⟩ []
  (p.rif.address != 63 && is 63) || (p.pwc.mode == .dormant && is p.rif.address)

/-- A command at which a reset takes effect: POWER_ON; a RESET broadcast of source 0; in DORMANT an addressed RESET
of source 0 and the frame that ends a loss; the frame whose lane word completes such a RESET; and, with a RESET
answered, the frame that takes the reply's last word, the expiry of its window before it is begun, and the occupied
word or the bad frame that cuts it off after its window (R156, R158, R166, R175, R177). -/
def restarts (c : Instr) (p : Part) : Bool :=
  match c with
  | .powerOn _ => true
  | .resetBroadcast source => p.hears && source == 0
  | .reset h => p.hears && p.pwc.mode == .dormant && h.source == 0
  | .replyWindowExpiry => p.rif.resetPending && p.rif.tx.any fun t => t.sent == 0
  | .validFrame f _ => p.rif.addressValid && p.rif.joined && p.tst.latent.isEmpty
      && ((f.occupied && (p.cutEndsReset || p.resetCompletes f.lane))
        || if p.pwc.mode == .dormant then wakesOn p else p.sendsLastWord f.occupied)
  | .badFrame _ _ => p.rif.addressValid && p.rif.joined && p.tst.latent.isEmpty && p.cutEndsReset
  | _ => false

/-- No zone sounds and nothing ramps: every zone OFF with its targets MUTE and its applied codes 384, every applied
trim at the code of the column in force, no crossfade (R10). -/
def Part.RampsAtRest (q : Part) : Prop :=
  (∀ z, (q.zone z).state = .off ∧ (q.zone z).ent = ⟨384, 384⟩ ∧ (q.zone z).prm = ⟨384, 384⟩
      ∧ (q.zone z).call = ⟨384, 384⟩)
    ∧ q.rmx.crossfade = none
    ∧ ∀ bank, ∀ e ∈ q.bank bank, ∀ i c, e.contribs[i]? = some c → i < e.count →
        c.applied = columnTrim q.rmx.tailgateOpen c

/-- Nothing plays or waits, the tag counter is 32768, the chime generator is stopped, no notice is held, and
neither the Call Processor nor the Station Manager expects a prompt (R113). -/
def Part.PromptsAtRest (q : Part) : Prop :=
  q.anu.playing = none ∧ q.anu.waiting = [] ∧ q.anu.tagCounter = 32768 ∧ q.anu.chime.segment = none
    ∧ q.anu.chime.phase = 0 ∧ q.anu.chime.increment = 0 ∧ q.nfu.notices = [] ∧ q.clp.ringTag = none
    ∧ q.stm.bulletin.latch = .none

/-- Only POWER_ON reads the address straps (R150). -/
def readsStraps : Instr → Bool
  | .powerOn _ => true
  | _ => false

end Sys2Proof.Machine
end

