-- ==== Sys2Proof/Certificates/Slice0/Obligations.lean ====
section
/-! DEFINITION. The statements for the provers. Throughout, `p` is the part before the command, `w` the commands that
wait behind it, `q` the part after it. Where `p.takes kind h`, the head unit's request is heard and is no repeat; where
`p.quiet` or `p.calm`, the Station Manager has nothing to bring up to date; where `p.tst.latent = []`, no memory error
waits for a check. -/

open Sys2Proof Sys2Proof.Machine

/-! ### The machine, power-on and resets -/

/-- For every command and state, a step with the command at the front of the queue is `exec` of it with the queue's
rest. On an empty queue the part idles: the model's choice (log entry 8). -/
def Obligations.StepRunsTheFrontCommand : Prop :=
  (∀ (c : Instr) (p : Part) (w : List Instr), step ⟨p, c :: w⟩ = exec c ⟨p, w⟩)
    ∧ ∀ p : Part, step ⟨p, []⟩ = .next ⟨p, []⟩

/-- `exec` of every command answers a next state, which may be the state as it was, and none touches the waiting
commands: none stops the part. That an event outside its condition completes too is the model's choice (log entry 10).
-/
def Obligations.EveryCommandCompletes : Prop :=
  ∀ (c : Instr) (p : Part) (w : List Instr), ∃ q, exec c ⟨p, w⟩ = .next ⟨q, w⟩

/-- POWER_ON reads the node address from the straps, and every block takes its power-on values (R150, R177, R178 and
the tables of each chapter). The state after reset is the one POWER_ON leaves with the straps at 1, with no command
waiting: the model's choice (log entry 5). Its notice queue is sound. -/
def Obligations.PowerOnGivesPowerOnValues : Prop :=
  (∀ (n : Nat) (p : Part) (w : List Instr), ∃ q, exec (.powerOn n) ⟨p, w⟩ = .next ⟨q, w⟩
     ∧ q.rif = { address := n % 64, addressValid := decide (1 ≤ n % 64 ∧ n % 64 ≤ 62), joined := false, joinCount := 0,
                 channels := List.replicate 24 0, rx := [], tx := none, saved := none, resetPending := false,
                 loss := false, ringTime := 0, badFrames := 0, laneErrors := 0, overruns := 0, replyTimeouts := 0,
                 ringLosses := 0, out := none }
     ∧ q.tst.ingress = List.replicate 24 none ∧ q.tst.egress = List.replicate 33 none
     ∧ q.tst.sources = List.replicate 6 ⟨none, none, 0⟩
     ∧ q.tst.zones = ⟨⟨8, 4, true, 0, 0, false, 0, 0, false, 2, 24⟩, ⟨8, 4, true, 0, 0, false, 0, 24, false, 0, 0⟩,
         ⟨8, 4, false, 0, 0, true, 0, 0, false, 0, 0⟩, ⟨8, 4, false, 0, 0, true, 0, 0, false, 0, 0⟩,
         ⟨8, 4, true, 0, 0, false, 0, 0, true, 0, 0⟩, ⟨8, 4, false, 0, 0, false, 0, 0, false, 0, 0⟩⟩
     ∧ (∀ i < 2, ∀ s ≤ 40, q.curveCode (i == 1) s = if s = 0 then 384 else (40 - s) * 6)
     ∧ q.tst.ducks = List.replicate 7 ⟨0, 0, 0, 0, 0, 0⟩
     ∧ (∀ k, (q.bank k).length = 32 ∧ ∀ e ∈ q.bank k, e.enabled = false ∧ e.delay = 0 ∧ e.count = 0)
     ∧ q.tst.stations = List.replicate 48 ⟨none, false⟩
     ∧ q.tst.radio = { fsFloor := 10, blendLo := 30, blendHi := 60, muteHi := 35, muteSlope := 6, muteMax := 120
                       trim := 0, seekThreshold := 35, scanThreshold := 25, addresses := ⟨none, none⟩
                       afEnable := true, background := true, bulletins := false, afThreshold := 30, afMargin := 10
                       afHold := 2000, afAge := 120000, afBlindInterval := 5000
                       bulletinZones := ⟨true, true, false, false, false, false⟩, bulletinLevel := 0
                       captureTrigger := 8 }
     ∧ q.tst.chimes = List.replicate 16 ⟨1, 1, List.replicate 8 ⟨0, 1, 384⟩⟩
     ∧ q.tst.seats = ⟨⟨0, none, 0, 16⟩, ⟨1, none, 0, 16⟩, ⟨2, none, 0, 16⟩, ⟨3, none, 0, 16⟩⟩
     ∧ q.tst.call = { level := 0, defaultZones := ⟨true, false, false, false, false, false⟩, ringPattern := 0
                      navDuck := 24, gateLevel := 100, switchMargin := 12, talkerHold := 300, gateAtt := 48
                      uplinkBase := 0, convErle := 24, divErle := 12 }
     ∧ (∀ r, q.tst.admission.get r = ⟨255#8, 40, ⟨true, true, true, true, true⟩⟩)
     ∧ q.tst.shares = List.replicate 18 false ∧ q.tst.poisoned = [] ∧ q.tst.scrubbing = false ∧ q.tst.scrubPos = 0
     ∧ (∀ z, (q.zone z).state = .off ∧ (q.zone z).source = .none ∧ (q.zone z).chan = none ∧ (q.zone z).station = none
         ∧ (q.zone z).code = none ∧ (q.zone z).step = 16 ∧ (q.zone z).mute = false ∧ (q.zone z).autoOn = false
         ∧ (q.zone z).ent = ⟨384, 384⟩ ∧ (q.zone z).prm = ⟨384, 384⟩ ∧ (q.zone z).call = ⟨384, 384⟩
         ∧ (q.zone z).att = none ∧ (q.zone z).att2 = none ∧ (q.zone z).clip = 0 ∧ q.zmx.bus.get z = (0, 0))
     ∧ q.rmx = { active := .a, crossfade := none, tailgateOpen := false, linesA := List.replicate 32 []
                 linesB := List.replicate 32 [], clips := List.replicate 32 0, outputs := List.replicate 32 0 }
     ∧ q.zmx.speed = 0
     ∧ (∀ t, (q.tuner t).state = .idle ∧ (q.tuner t).scoring = ⟨30, 60, 35, 6, 120⟩ ∧ (q.tuner t).claims = []
         ∧ (q.tuner t).s = 800 ∧ (q.tuner t).q = 0
         ∧ (q.tuner t).heard = none ∧ (q.tuner t).missed = 0 ∧ (q.tuner t).settle = false
         ∧ (q.tuner t).adapter = ⟨[], 0, 0, false, (0, 0)⟩ ∧ (q.tuner t).underflows = 0 ∧ (q.tuner t).overflows = 0
         ∧ (q.tuner t).missedAcks = 0 ∧ (q.tuner t).settleTimeouts = 0)
     ∧ q.tuc.grants = [] ∧ q.tuc.link = none ∧ q.tuc.queue = []
     ∧ (∀ t, q.stm.labels.get t = [none, none, none, none] ∧ (q.follow t).state = .monitor
         ∧ (q.follow t).lowTimer = false ∧ (q.follow t).lastCheck = none ∧ q.stm.checkFails.get t = 0)
     ∧ q.stm.bgIndex = 0 ∧ q.stm.bgItem = 0 ∧ q.stm.scan = none ∧ q.stm.watch = none ∧ q.stm.watchState = .inactive
     ∧ q.stm.bulletin.latch = .none ∧ q.stm.capTuner = none ∧ q.stm.capCount = 0 ∧ q.stm.capQueue = []
     ∧ q.stm.capTimer = false ∧ q.stm.unfiled = 0 ∧ q.stm.dropped = 0 ∧ q.stm.captureLosses = 0
     ∧ q.anu = { playing := none, waiting := [], tagCounter := 32768, chime := ⟨none, 0, 0, 0⟩, sample := 0 }
     ∧ q.clp.state = .idle ∧ q.clp.isPrivate = false ∧ q.clp.zones = ⟨false, false, false, false, false, false⟩
     ∧ q.clp.admitted = ⟨false, false, false, false⟩ ∧ q.clp.ringTag = none ∧ q.clp.talker = none
     ∧ q.clp.lastTalker = .driver ∧ q.clp.aboveGate = none ∧ q.clp.uplinkCode = 384
     ∧ q.clp.sig = ⟨.a, false, ⟨false, false, false, false, false, false⟩⟩
     ∧ (∀ k, (q.seat k).context = .reset ∧ (q.seat k).v = 240 ∧ (q.seat k).erle = 0 ∧ (q.seat k).sig = none
         ∧ (q.seat k).divCount = 0)
     ∧ q.rlu.fifo = [] ∧ q.rlu.assembler = .hunt ∧ q.rlu.lineErrors = 0 ∧ q.rlu.overflows = 0 ∧ q.rlu.frameErrors = 0
     ∧ q.rlu.checkErrors = 0 ∧ q.rlu.formatErrors = 0 ∧ (∀ r, q.rlu.pending.get r = some .none)
     ∧ (∀ r, q.rlu.maxCopy.get r = 40) ∧ q.rlu.lastSent = .right
     ∧ q.nfu = { notices := [], overflow := false, level := .standard, record := none, counts := List.replicate 7 0 }
     ∧ q.pwc = { mode := .reduced, ignition := .off, ramp := none, lossCount := false, dormantCause := none
                 lossInDormant := false, startCause := .powerOn })
  ∧ exec (.powerOn 1) State.reset = .next State.reset ∧ State.reset.pending = [] ∧ State.reset.part.nfu.Sound

/-- R10 and R113: what the ramps and the prompts hold after POWER_ON, after a RESET and after a wake; the loaded
tables keep the ramp rates and the chimes across a RESET and a wake. The commands meant are those of `restarts`:
POWER_ON; a RESET broadcast, and in DORMANT an addressed RESET, as its row or as the lane word that completes its
message, decided there by the model's choice (log entry 13) and, while a reply is held, taken by the model's choice
(log entry 82); the frame that ends a loss in DORMANT; and, for a RESET
that has been answered, the frame that takes the reply's last word, the expiry of its window, and the occupied word or
bad frame that cuts it off after its window, which frees it by the model's reading (log entry 29). That the window of
a reply held runs out in DORMANT as in every mode, and so frees a RESET there, is the model's choice (log entry 67).
-/
def Obligations.ResetsLeaveRampsAndPromptsAtRest : Prop :=
  ∀ (c : Instr) (p : Part) (w : List Instr), restarts c p = true → c.wellFormed = true → ∃ q,
    exec c ⟨p, w⟩ = .next ⟨q, w⟩
    ∧ q.RampsAtRest ∧ q.PromptsAtRest
    ∧ (if readsStraps c then
        (∀ z, (q.tst.zones.get z).attack = 8 ∧ (q.tst.zones.get z).release = 4)
          ∧ q.tst.chimes = List.replicate 16 ⟨1, 1, List.replicate 8 ⟨0, 1, 384⟩⟩ ∧ q.tst.poisoned = []
      else
        q.tst.zones = p.tst.zones ∧ q.tst.chimes = p.tst.chimes
          ∧ (p.tst.latent = [] → q.tst.poisoned = p.tst.poisoned))

/-- An addressed RESET outside DORMANT is answered OK and takes effect later; a RESET broadcast takes effect at once,
and an addressed one in DORMANT wakes the part (R166, R175, R177). What is kept, block by block, and the start cause
follow; the render banks are kept but for the applied trims (R52). A seamless switch is abandoned before the reset, so
that the STATIONS item of its candidate keeps the candidate's quality and the ring time (R89, R90). That the STANDBYs
issued, A's before B's, are all that the link and its queue hold is the model's choice (log entry 44), and that the
SOURCES entries and cargo-auto in force stay as they were taken (log entry 50), and with them the scoring fields of
each tuner (log entry 68), its reading of section 11.5. That an addressed RESET in DORMANT wakes the part while a
reply is still held, and as a repeat, is the model's choice (log entry 82). -/
def Obligations.ResetKeepsTablesAndAddress : Prop :=
  (∀ (h : ReqHeader) (p : Part) (w : List Instr), p.takes 0x71 h = true →
    exec (.reset h) ⟨p, w⟩
      = .next ⟨answered 0x71 h .ok [] { p with rif := { p.rif with resetPending := true } }, w⟩)
    ∧ ∀ (c : Instr) (p : Part) (w : List Instr), p.hears = true →
      (c = .resetBroadcast 0 ∨ ∃ seq, c = .reset ⟨0, seq⟩ ∧ p.pwc.mode = .dormant) →
      ∃ q, exec c ⟨p, w⟩ = .next ⟨q, w⟩
        ∧ q.rif = { address := p.rif.address, addressValid := p.rif.addressValid, joined := true,
                    joinCount := p.rif.joinCount, ringTime := p.rif.ringTime, out := p.rif.out }
        ∧ ((∀ t, p.switching t = false) →
          { q.tst with renderA := p.tst.renderA, renderB := p.tst.renderB }
            = { p.tst with scrubbing := false, scrubPos := 0 })
        ∧ (let untrimmed := fun (e : RenderEntry) => { e with
            contribs := e.contribs.map fun (c : Contribution) => { c with applied := 0 } }
          ∀ k, (q.bank k).map untrimmed = (p.bank k).map untrimmed)
        ∧ (∀ t c, p.switching t = true → p.switching t.other = false → (p.tuner t.other).chan = some c →
            p.tst.latent = [] → ∀ i, q.station i
              = if p.holderOf c = some i then (p.station i).map fun e => { e with items := e.items.map fun it =>
                  if it.freq = c.freq then
                    { it with quality := some ((p.tuner t.other).s / 16), heard := some p.rif.ringTime }
                  else it }
                else p.station i)
        ∧ q.zmx.sources = p.zmx.sources ∧ q.zmx.cargoAuto = p.zmx.cargoAuto
        ∧ q.nfu = { level := p.nfu.level } ∧ q.rmx = { active := p.rmx.active }
        ∧ q.rlu = { maxCopy := p.rlu.maxCopy }
        ∧ (∀ z, (q.zone z).step = match z.rearSeat? with
            | some r => min 16 (p.rlu.maxCopy.get r)
            | none => 16)
        ∧ (∀ t, (q.tuner t).state = .idle ∧ (q.tuner t).scoring = (p.tuner t).scoring)
        ∧ q.tuc.link.toList ++ q.tuc.queue
            = ((TunerId.all.filter p.hasAddress).map fun t => (t, LinkCmd.standby))
        ∧ q.pwc = { mode := .reduced, startCause :=
            if p.pwc.mode = .dormant then (if p.pwc.dormantCause = some .loss then .ringLoss else .wake)
            else .ringReset }

/-- R178: in PASSTHROUGH, 48 valid frames in a row join the ring; a bad frame and a gap of 20 ms start the count
again; frames are forwarded exactly as they arrive, a bad one with the check that it brought, and all of them while
the address is invalid. That RING_JOIN stands for the 48th frame, counted after 47, and that VALID_FRAME joins by
itself at 47, is the model's choice (log entry 73), as is that a bad frame before the join is not counted (log entry
80). -/
def Obligations.JoinCountsValidFrames : Prop :=
  ∀ (f : Frame) (mics : List Sample) (p : Part) (w : List Instr), p.rif.joined = false →
    (p.rif.addressValid = true → p.rif.joinCount < 47 →
      exec (.validFrame f mics) ⟨p, w⟩ = .next ⟨{ p with rif := { p.rif with
        joinCount := p.rif.joinCount + 1
        out := some ⟨f.occupied, f.lane, f.slots, some (crc16 (frameBytes f.occupied f.lane f.slots))⟩ } }, w⟩)
    ∧ (p.rif.addressValid = false →
      exec (.validFrame f mics) ⟨p, w⟩ = .next ⟨{ p with rif := { p.rif with
        out := some ⟨f.occupied, f.lane, f.slots, some (crc16 (frameBytes f.occupied f.lane f.slots))⟩ } }, w⟩)
    ∧ exec (.badFrame f mics) ⟨p, w⟩ = .next ⟨{ p with rif := { p.rif with
        joinCount := 0, out := some ⟨f.occupied, f.lane, f.slots, some f.check⟩ } }, w⟩
    ∧ exec .joinGapExpiry ⟨p, w⟩ = .next ⟨{ p with rif := { p.rif with joinCount := 0 } }, w⟩
    ∧ (p.rif.addressValid = true → 47 ≤ p.rif.joinCount →
      exec .ringJoin ⟨p, w⟩ = .next ⟨{ p with rif := { p.rif with joined := true, joinCount := 48 } }, w⟩
      ∧ ∃ q, exec (.validFrame f mics) ⟨p, w⟩ = .next ⟨q, w⟩ ∧ (q.rif.joined = true))

/-! ### The ring -/

/-- R151 to R153: a valid frame after the join is read by the ingress map and sent on with the part's samples in the
slots of the egress map and a check computed afresh; it ends a ring loss. A free lane word with no reply to send goes
on as it arrives. R42 to R44, R48: the samples are formed in the same frame. An output whose render entry is not
poisoned has in each bank's delay line the saturated round-sum of its contributions, taken from the frame's buses; the
saturations of the active bank are counted; its sample is the active bank's read at the entry's delay, or in a
crossfade its mix with the other bank's. R140, R144, R148: a seat's signal is its microphone's sample, or the floor
mean of two, by its gain; in RESET it is the residual; the uplink is the carried seat's residual by the uplink code.
-/
def Obligations.ValidFrameIsReadAndSentOn : Prop :=
  ∀ (f : Frame) (mics : List Sample) (p : Part) (w : List Instr),
    p.rif.addressValid = true → p.rif.joined = true → p.pwc.mode ≠ .dormant → p.tst.latent = [] →
    f.occupied = false → p.rif.rx = [] → p.rif.tx = none →
    ∃ q o, exec (.validFrame f mics) ⟨p, w⟩ = .next ⟨q, w⟩
      ∧ q.rif = { p.rif with loss := false, out := some o, channels := (List.range 24).map fun ch =>
          match p.ingressSlot ch with
          | some k => f.slots.getD k 0
          | none => 0 }
      ∧ o.occupied = false ∧ o.lane = f.lane ∧ o.check = some (crc16 (frameBytes false f.lane o.slots))
      ∧ o.slots.length = f.slots.length
      ∧ (∀ k, (∀ i, p.egressSlot i ≠ some k) → o.slots[k]? = f.slots[k]?)
      ∧ (∀ i k x, p.egressSlot i = some k → (∀ j, j ≠ i → p.egressSlot j ≠ some k) → k < f.slots.length →
          (egressSamples q)[i]? = some x → o.slots[k]? = some x)
      ∧ q.pwc = { p.pwc with lossCount := false } ∧ q.tst = p.tst ∧ q.stm = p.stm ∧ q.rlu = p.rlu
      ∧ (∀ z, { q.zone z with clip := (p.zone z).clip } = p.zone z)
      ∧ (let side := fun c : Contribution => if 5 < c.zone then (0 : Int) else
          let b := (ZoneId.all[c.zone]?.map q.zmx.bus.get).getD (0, 0)
          match c.side with
          | .l => b.1
          | .r => b.2
          | .mid => (b.1 + b.2) / 2
        let sum := fun e : RenderEntry => if e.enabled = true then
          (((e.contribs.take e.count).map fun c => side c * (linear c.applied : Int)).sum + 4194304) / 8388608 else 0
        let line := fun (e : RenderEntry) (l : List Sample) => (max (-8388608) (min 8388607 (sum e)) :: l).take 481
        let act := p.rmx.active
        (∀ bank n e l, (p.bank bank)[n]? = some e → (p.rmx.lines bank)[n]? = some l →
          p.entryPoisoned (bankTable bank) n = false → (q.rmx.lines bank)[n]? = some (line e l))
        ∧ (∀ n e, (p.bank act)[n]? = some e → p.entryPoisoned (bankTable act) n = false →
          (∀ k, p.rmx.clips[n]? = some k → q.rmx.clips[n]? = some
            (if sum e < -8388608 ∨ 8388607 < sum e then min 65535 (k + 1) else k))
          ∧ ∀ l, (p.rmx.lines act)[n]? = some l →
            (p.rmx.crossfade = none → q.rmx.outputs[n]? = some ((line e l).getD e.delay 0))
            ∧ ∀ e' l' k, p.rmx.crossfade = some k → (p.bank act.other)[n]? = some e' →
                (p.rmx.lines act.other)[n]? = some l' → p.entryPoisoned (bankTable act.other) n = false →
                q.rmx.outputs[n]? = some (((line e' l').getD e'.delay 0 * (8388608 - (k : Int) * 524288)
                  + (line e l).getD e.delay 0 * ((k : Int) * 524288) + 4194304) / 8388608))
        ∧ q.rmx.active = p.rmx.active ∧ q.rmx.crossfade = p.rmx.crossfade ∧ q.rmx.tailgateOpen = p.rmx.tailgateOpen)
      ∧ (∀ k, let cfg := p.seatCfg k
          let heard := match cfg.mic2 with
            | none => mics.getD cfg.mic1 0
            | some m => (mics.getD cfg.mic1 0 + mics.getD m 0) / 2
          (q.seat k).signal = (heard * (linear cfg.gain : Int) + 4194304) / 8388608
          ∧ ((p.seat k).context = .reset → (q.seat k).residual = max (-8388608) (min 8388607 (q.seat k).signal))
          ∧ (q.seat k).context = (p.seat k).context ∧ (q.seat k).v = (p.seat k).v)
      ∧ q.clp.uplink = ((q.seat (p.clp.talker.getD p.clp.lastTalker)).residual * (linear p.clp.uplinkCode : Int)
          + 4194304) / 8388608
      ∧ q.clp = { p.clp with seats := q.clp.seats, uplink := q.clp.uplink }

/-- R151, R152, R156: a bad frame after the join is counted and concealed: the channels that have a slot keep their
samples and the others give 0, and the frame is sent on, with the part's samples, with a check that fails; a message
in assembly is abandoned, counted as a lane error and reported as a control-lane check error. In DORMANT it is
counted, and abandons a message too, but it is sent on exactly as it arrives, with its own check (R150, R175). -/
def Obligations.BadFrameIsConcealed : Prop :=
  (∀ (f : Frame) (mics : List Sample) (p : Part) (w : List Instr), p.rif.addressValid = true → p.rif.joined = true →
    p.pwc.mode = .dormant → p.rif.tx = none →
    exec (.badFrame f mics) ⟨p, w⟩ = .next ⟨{ p with
      rif := { p.rif with
        badFrames := min 65535 (p.rif.badFrames + 1), rx := []
        out := some ⟨f.occupied, f.lane, f.slots, some f.check⟩
        laneErrors := if p.rif.rx = [] then p.rif.laneErrors else min 65535 (p.rif.laneErrors + 1) }
      nfu := if p.rif.rx = [] then p.nfu else p.nfu.fault .laneCheck none none p.rif.ringTime }, w⟩)
  ∧ ∀ (f : Frame) (mics : List Sample) (p : Part) (w : List Instr),
    p.rif.addressValid = true → p.rif.joined = true → p.pwc.mode ≠ .dormant → p.tst.latent = [] →
    p.rif.tx = none →
    ∃ q o, exec (.badFrame f mics) ⟨p, w⟩ = .next ⟨q, w⟩
      ∧ q.rif = { p.rif with
          badFrames := min 65535 (p.rif.badFrames + 1), rx := [], out := some o
          channels := p.rif.channels.zipIdx.map fun x => if (p.ingressSlot x.2).isSome then x.1 else 0
          laneErrors := if p.rif.rx = [] then p.rif.laneErrors else min 65535 (p.rif.laneErrors + 1) }
      ∧ o.occupied = f.occupied ∧ o.lane = f.lane ∧ o.check = none
      ∧ (∀ k, (∀ i, p.egressSlot i ≠ some k) → o.slots[k]? = f.slots[k]?)
      ∧ (∀ i k x, p.egressSlot i = some k → (∀ j, j ≠ i → p.egressSlot j ≠ some k) → k < f.slots.length →
          (egressSamples q)[i]? = some x → o.slots[k]? = some x)
      ∧ q.pwc = p.pwc ∧ q.tst = p.tst ∧ q.stm = p.stm ∧ q.rlu = p.rlu
      ∧ ((∀ t, (p.tuner t).adapter.primed = true → 2 ≤ (p.tuner t).adapter.fifo.length) →
          q.nfu = if p.rif.rx = [] then p.nfu else p.nfu.fault .laneCheck none none p.rif.ringTime)

/-- R156: an occupied lane word joins the message in assembly; a length above 56 is a lane error, which is counted,
reported as a control-lane check error, and ends the assembly; so is a complete message whose check fails; a complete
message for another node is taken off. -/
def Obligations.LaneWordsAssembleMessages : Prop :=
  ∀ (f : Frame) (mics : List Sample) (p : Part) (w : List Instr),
    p.rif.addressValid = true → p.rif.joined = true → p.pwc.mode ≠ .dormant → p.tst.latent = [] →
    f.occupied = true → p.rif.tx = none →
    ∃ q o, exec (.validFrame f mics) ⟨p, w⟩ = .next ⟨q, w⟩ ∧ q.rif.out = some o
      ∧ o.occupied = true ∧ o.lane = f.lane
      ∧ let lost := q.rif.rx = [] ∧ q.rif.laneErrors = min 65535 (p.rif.laneErrors + 1)
          ∧ ((∀ t, (p.tuner t).adapter.primed = true → 2 ≤ (p.tuner t).adapter.fifo.length) →
            q.nfu = p.nfu.fault .laneCheck none none p.rif.ringTime)
        ((p.rif.rx ++ f.lane).length < 5 → q.rif.rx = p.rif.rx ++ f.lane ∧ q.rif.laneErrors = p.rif.laneErrors)
      ∧ (5 ≤ (p.rif.rx ++ f.lane).length → valueAt (p.rif.rx ++ f.lane) 4 1 ≤ 56 →
          (p.rif.rx ++ f.lane).length < valueAt (p.rif.rx ++ f.lane) 4 1 + 8 →
          q.rif.rx = p.rif.rx ++ f.lane ∧ q.rif.laneErrors = p.rif.laneErrors)
      ∧ (5 ≤ (p.rif.rx ++ f.lane).length → 56 < valueAt (p.rif.rx ++ f.lane) 4 1 → lost)
      ∧ (∀ m, m = (p.rif.rx ++ f.lane).take (valueAt (p.rif.rx ++ f.lane) 4 1 + 8) →
          valueAt (p.rif.rx ++ f.lane) 4 1 ≤ 56 →
          valueAt (p.rif.rx ++ f.lane) 4 1 + 8 ≤ (p.rif.rx ++ f.lane).length →
          (byte2 (crc16 (m.take (m.length - 2))).toNat = m.drop (m.length - 2) →
            valueAt m 0 1 % 64 ≠ p.rif.address → valueAt m 0 1 % 64 ≠ 63 →
            q.rif.rx = [] ∧ q.rif.laneErrors = p.rif.laneErrors)
          ∧ (byte2 (crc16 (m.take (m.length - 2))).toNat ≠ m.drop (m.length - 2) → lost))

/-- R179, R180 and Table 12.4, the bytes of every request: a request laid out as its message, complete with its check
and addressed to the part, does what the command does. No bit of a request's bytes is lost. The frame that carries the
message's last word, with the words before it in assembly, does what the same frame does with a free word, then what
the command does, and it is sent on with the word. That the owner decides as the last word arrives is the model's
choice (log entry 13). -/
def Obligations.RequestBytesActAsTheirCommand : Prop :=
  (∀ (c : Instr) (kind : Nat) (h : ReqHeader) (p : Part) (w : List Instr),
    requestOf c = some (kind, h) → c.wellFormed = true → p.rif.rx = [] → p.rif.address < 63 →
    exec c ⟨p, w⟩ = .next ⟨completeMessage (requestMessage p.rif.address kind h (requestBody c)) p, w⟩)
  ∧ ∀ (c : Instr) (kind : Nat) (h : ReqHeader) (slots mics : List Sample) (p : Part) (w : List Instr),
      requestOf c = some (kind, h) → c.wellFormed = true → p.rif.address < 63 → p.rif.addressValid = true →
      p.rif.joined = true → p.pwc.mode ≠ .dormant → p.tst.latent = [] → p.rif.tx = none →
      let m := requestMessage p.rif.address kind h (requestBody c)
      let n := (m.length - 1) / 4 * 4
      let word := (m.drop n ++ List.replicate 3 0#8).take 4
      ∃ u, exec (.validFrame { occupied := false, lane := word, slots := slots } mics)
            ⟨{ p with rif := { p.rif with rx := [] } }, w⟩ = .next ⟨u, w⟩
        ∧ ∃ q, exec c ⟨{ u with rif := { u.rif with out := p.rif.out } }, w⟩ = .next ⟨q, w⟩
        ∧ let sent := (u.rif.out.map FrameOut.slots).getD []
          exec (.validFrame { occupied := true, lane := word, slots := slots } mics)
              ⟨{ p with rif := { p.rif with rx := m.take n } }, w⟩
            = .next ⟨{ q with rif := { q.rif with
                out := some ⟨true, word, sent, some (crc16 (frameBytes true word sent))⟩ } }, w⟩

/-- R114, R115, R117 and R181: a rear request sent as its frame, byte after byte, to an assembler that hunts with an
empty FIFO, is taken and held in HANDLING with its seat, its kind, its argument and the seat's admission as it reads
then; decided there, it does what the command does of itself, as the model lets a request command stand for its whole
frame (log entry 13). R121: the request in HANDLING is refused by the admission that it was taken with, whatever
ADMISSION holds by then, and HANDLING ends. -/
def Obligations.RearBytesActAsTheirCommand : Prop :=
  (∀ (c : Instr) (kind : Nat) (r : RearSeat) (args : List Byte) (p : Part) (w : List Instr),
    rearRequestOf c = some (kind, r, args) → c.wellFormed = true → p.rif.addressValid = true →
    p.rlu.fifo = [] → p.rlu.assembler = .hunt → p.rlu.frame = [] → p.rlu.length = 0 → p.rlu.taken = none →
    (p.tst.latent = [] → ∃ k, rearKindOf kind = some k
      ∧ runAll ((rearFrame kind r args).map fun b => .rearByteReceived b true) ⟨p, w⟩
          = .next ⟨{ p with rlu := { p.rlu with
              assembler := .handling
              taken := some { seat := r, kind := k, arg := valueAt args 0 1
                              flags := if p.admissionPoisoned r = true then 0#8 else (p.tst.admission.get r).flags
                              allowed := (p.tst.admission.get r).allowed } } }, w⟩)
    ∧ runAll (((rearFrame kind r args).map fun b => .rearByteReceived b true) ++ [c]) ⟨p, w⟩ = exec c ⟨p, w⟩)
  ∧ ∀ (c : Instr) (kind : Nat) (r : RearSeat) (args : List Byte) (p : Part) (w : List Instr),
      rearRequestOf c = some (kind, r, args) → p.rif.addressValid = true → p.quiet = true →
      p.rlu.assembler = .handling → p.rlu.fifo = [] → ∀ x, p.rlu.taken = some x → x.seat = r →
      rearKindOf kind = some x.kind → x.arg = valueAt args 0 1 → kind ≠ 9 →
      let refused := fun res => Host.Outcome.next (⟨{ p with rlu := { p.rlu with
        assembler := .hunt, frame := [], length := 0, taken := none
        pending := p.rlu.pending.set r (some res) } }, w⟩ : State)
      (x.flags.getLsbD (kind - 1) = false → exec c ⟨p, w⟩ = refused .denied)
      ∧ (x.flags.getLsbD (kind - 1) = true → (kind = 3 ∧ x.allowed.radio = false
          ∨ kind = 2 ∧ ∃ s, sourceOf x.arg = some s ∧ allowedSource x.allowed s = false) →
          exec c ⟨p, w⟩ = refused .sourceDenied)

/-- R158: a free lane word carries the next four bytes of a held reply, unused ones 0; with its last word the transmit
buffer is emptied. R158: outside DORMANT an occupied word, or a bad frame, cuts off a reply half sent: within its
window it is to be sent again from its first byte, after it it is discarded and counted; an occupied word opens a
message, and a bad frame abandons one. R158, R166: when its window runs out, a reply not begun is discarded and
counted; one being sent goes on; with none held nothing happens, the model's choice (log entry 10). That the window
runs out in DORMANT as in every mode is the model's choice (log entry 67). In DORMANT, where a frame is forwarded as
it arrives, a free word cuts a reply half sent off, and it is discarded if its window has run out: the model's choice
(log entry 60). -/
def Obligations.RepliesGoOutInFreeLaneWords : Prop :=
  (∀ (f : Frame) (mics : List Sample) (t : Tx) (p : Part) (w : List Instr),
     p.rif.addressValid = true → p.rif.joined = true → p.pwc.mode ≠ .dormant → p.tst.latent = [] →
     f.occupied = false → p.rif.rx = [] → p.rif.tx = some t → p.rif.resetPending = false →
     ∃ q o, exec (.validFrame f mics) ⟨p, w⟩ = .next ⟨q, w⟩ ∧ q.rif.out = some o ∧ o.occupied = true
       ∧ o.lane.length = 4 ∧ (∀ i < 4, o.lane[i]? = some (t.bytes.getD (t.sent + i) 0#8))
       ∧ q.rif.tx = (if t.bytes.length ≤ t.sent + 4 then none else some { t with sent := t.sent + 4 })
       ∧ q.rif.saved = p.rif.saved ∧ q.rif.rx = [] ∧ q.rif.replyTimeouts = p.rif.replyTimeouts)
  ∧ (∀ (f : Frame) (mics : List Sample) (t : Tx) (p : Part) (w : List Instr),
      p.rif.addressValid = true → p.rif.joined = true → p.pwc.mode = .dormant → p.rif.loss = false →
      f.occupied = false → p.rif.rx = [] → p.rif.tx = some t → 0 < t.sent → p.rif.resetPending = false →
      exec (.validFrame f mics) ⟨p, w⟩ = .next ⟨{ p with
        rif := { p.rif with
          tx := if t.windowOver = true then none else some { t with sent := 0 }
          replyTimeouts := if t.windowOver = true then min 65535 (p.rif.replyTimeouts + 1) else p.rif.replyTimeouts
          out := some ⟨false, f.lane, f.slots, some (crc16 (frameBytes false f.lane f.slots))⟩ }
        pwc := { p.pwc with lossCount := false } }, w⟩)
    ∧ (∀ (f : Frame) (mics : List Sample) (t : Tx) (p : Part) (w : List Instr),
           p.rif.addressValid = true → p.rif.joined = true → p.pwc.mode ≠ .dormant → p.tst.latent = [] →
           p.rif.tx = some t → 0 < t.sent → p.rif.resetPending = false →
           let cut := fun (q : Part) =>
             q.rif.tx = (if t.windowOver = true then none else some { t with sent := 0 })
               ∧ q.rif.replyTimeouts
                 = (if t.windowOver = true then min 65535 (p.rif.replyTimeouts + 1) else p.rif.replyTimeouts)
               ∧ q.rif.saved = p.rif.saved ∧ q.rif.out.map FrameOut.lane = some f.lane
           (p.rif.rx = [] → f.occupied = true → f.lane.length = 4 →
             ∃ q, exec (.validFrame f mics) ⟨p, w⟩ = .next ⟨q, w⟩ ∧ cut q ∧ q.rif.rx = f.lane)
           ∧ ∃ q, exec (.badFrame f mics) ⟨p, w⟩ = .next ⟨q, w⟩ ∧ cut q ∧ q.rif.rx = [])
    ∧ ∀ (p : Part) (w : List Instr), p.rif.resetPending = false →
      exec .replyWindowExpiry ⟨p, w⟩ = match p.rif.tx with
        | none => .next ⟨p, w⟩
        | some t =>
          if t.sent = 0 then .next ⟨{ p with rif := { p.rif with
            tx := none, replyTimeouts := min 65535 (p.rif.replyTimeouts + 1) } }, w⟩
          else .next ⟨{ p with rif := { p.rif with tx := some { t with windowOver := true } } }, w⟩

/-- R154, R171, R176: a declared ring loss is counted and reported, abandons a message in assembly and a held reply,
and starts the count toward DORMANT; in DORMANT it is noted. That an abandoned message is no lane error, neither
counted nor reported, is the model's choice (log entry 59). Declared again, or before the join, it changes nothing,
the model's choice (log entry 10). Where it discards the reply of a RESET, the RESET takes effect: the model's choice
(log entry 29). R176, R112: when the ring-loss count reaches 500 ms, the part enters DORMANT through loss, by way of
REDUCED and with the call ended; every prompt is discarded. Where the count does not run nothing happens, the model's
choice (log entry 10). -/
def Obligations.RingLossIsReportedAndLeadsToDormant : Prop :=
  ((∀ (p : Part) (w : List Instr), p.rif.addressValid = true → p.rif.joined = true → p.rif.loss = false →
     (p.rif.resetPending = false ∨ p.rif.tx = none) →
     exec .ringLossDeclared ⟨p, w⟩ = .next ⟨{ p with
       rif := { p.rif with
         loss := true, rx := [], ringLosses := min 65535 (p.rif.ringLosses + 1), tx := none
         replyTimeouts := if p.rif.tx = none then p.rif.replyTimeouts else min 65535 (p.rif.replyTimeouts + 1) }
       pwc := if p.pwc.mode = .dormant then { p.pwc with lossInDormant := true } else { p.pwc with lossCount := true }
       nfu := p.nfu.fault .ringLoss none none p.rif.ringTime }, w⟩)
     ∧ (∀ (p : Part) (w : List Instr), p.rif.addressValid = true → p.rif.joined = true → p.rif.loss = false →
         p.rif.resetPending = true → p.rif.tx ≠ none →
         ∃ q, exec .ringLossDeclared ⟨p, w⟩ = .next ⟨q, w⟩ ∧ q.RampsAtRest ∧ q.PromptsAtRest ∧ q.rif.tx = none
           ∧ q.rif.resetPending = false ∧ q.pwc = { mode := .reduced, startCause := .ringReset }
           ∧ q.tst.zones = p.tst.zones ∧ q.tst.chimes = p.tst.chimes)
     ∧ ∀ (p : Part) (w : List Instr), p.rif.addressValid = false ∨ p.rif.joined = false ∨ p.rif.loss = true →
         exec .ringLossDeclared ⟨p, w⟩ = .next ⟨p, w⟩)
  ∧ (∀ (p : Part) (w : List Instr), p.running = true → p.pwc.lossCount = true →
      ∃ q, exec .ringLossCountExpiry ⟨p, w⟩ = .next ⟨q, w⟩
        ∧ q.pwc = { p.pwc with mode := .dormant, dormantCause := some .loss, lossCount := false, ramp := none
                               lossInDormant := false }
        ∧ q.clp.state = .idle ∧ q.anu.playing = none ∧ q.anu.waiting = [] ∧ q.rif = p.rif ∧ q.rmx = p.rmx)
      ∧ ∀ (p : Part) (w : List Instr), p.quiet = true → p.pwc.lossCount = false →
          exec .ringLossCountExpiry ⟨p, w⟩ = .next ⟨p, w⟩

/-! ### Requests, whichever their owner -/

/-- R150, R154, R175: a request that cannot reach the part, before the join, with an invalid address or in a ring
loss, changes nothing; nor does one in DORMANT, unless it is a RESET of source 0. R158: a request that arrives while a
reply is held is lost and counted as an overrun. R159: a request of the head unit's with the sequence number and the
kind of the saved reply does not act: the saved result and body are sent again, with status fields read afresh. R157,
R159: from a node other than the head unit every request but IDENTIFY, STATUS and a TABLE_READ without CLEAR, of the
right length, is refused with ACCESS, and its reply is not saved. -/
def Obligations.RequestsUnheardRepeatedOrRefusedDoNotAct : Prop :=
  (∀ (c : Instr) (kind : Nat) (h : ReqHeader) (p : Part) (w : List Instr), requestOf c = some (kind, h) →
     (p.hears = false ∨ (p.pwc.mode = .dormant ∧ (kind ≠ 0x71 ∨ h.source ≠ 0))) →
     exec c ⟨p, w⟩ = .next ⟨p, w⟩)
  ∧ (∀ (c : Instr) (kind : Nat) (h : ReqHeader) (p : Part) (w : List Instr), requestOf c = some (kind, h) →
       p.hears = true → p.pwc.mode ≠ .dormant → p.rif.tx ≠ none →
       exec c ⟨p, w⟩ = .next ⟨{ p with rif := { p.rif with overruns := min 65535 (p.rif.overruns + 1) } }, w⟩)
  ∧ (∀ (c : Instr) (kind : Nat) (h : ReqHeader) (x : Saved) (p : Part) (w : List Instr),
       requestOf c = some (kind, h) → p.hears = true → p.pwc.mode ≠ .dormant → p.rif.tx = none → h.source = 0 →
       p.rif.saved = some x → x.seq = h.seq → x.kind = kind →
       exec c ⟨p, w⟩ = .next ⟨{ p with rif := { p.rif with
         tx := some { bytes := replyBytes p kind h x.result x.body } } }, w⟩)
  ∧ ∀ (c : Instr) (kind : Nat) (h : ReqHeader) (p : Part) (w : List Instr),
      requestOf c = some (kind, h) → p.hears = true → p.pwc.mode ≠ .dormant → p.rif.tx = none → h.source ≠ 0 →
      kind ≠ 0x01 → kind ≠ 0x02 →
      (∀ t i j m o, c = .tableRead h t i j m o → o.testBit 1 = true) →
      (∀ t i m vs, c = .tableWrite h t i m vs → 1 ≤ vs.length ∧ vs.length ≤ 52) →
      exec c ⟨p, w⟩ = .next ⟨{ p with rif := { p.rif with
        tx := some { bytes := replyBytes p kind h .access [] } } }, w⟩

/-- R158, R161, section 12.3: IDENTIFY and STATUS are answered OK with their records, to whichever node asks, and
change nothing but the reply held. IDENTIFY's body of 10 bytes, with a design version, is the model's choice (log
entry 15). R50, R66, R97, R118, R161, R171: COUNTERS_READ returns a group's counters in their order and clears the
group whole; the other groups stay. The counters of each of the eight groups, in their order, are spelled out. An
unknown group is refused with BAD_VALUE. -/
def Obligations.ReportsAndCountersAreRead : Prop :=
  (∀ (h : ReqHeader) (p : Part) (w : List Instr),
     (p.takes 0x01 h = true →
       exec (.identify h) ⟨p, w⟩ = .next ⟨answered 0x01 h .ok
         ([Config.familyCode] ++ byte2 2460 ++ [Config.designVersion] ++ byte1 p.rif.address
           ++ byte1 (startCauseCode p.pwc.startCause) ++ byte4 p.rif.ringTime) p, w⟩)
     ∧ (p.takes 0x02 h = true →
       exec (.status h) ⟨p, w⟩ = .next ⟨answered 0x02 h .ok
         (byte4 p.rif.ringTime ++ byte1 (bankCode p.rmx.active) ++ byte1 (levelCode p.nfu.level)
           ++ byte1 (codeOfBool p.nfu.record.isSome) ++ byte1 (tunerStateCode (p.tuner .a).state)
           ++ byte1 (tunerStateCode (p.tuner .b).state)
           ++ [BitVec.ofNat 8 (zoneStateCode (p.zone .front).state), BitVec.ofNat 8 (zoneStateCode (p.zone .rearCabin).state),
               BitVec.ofNat 8 (zoneStateCode (p.zone .hpLeft).state), BitVec.ofNat 8 (zoneStateCode (p.zone .hpRight).state),
               BitVec.ofNat 8 (zoneStateCode (p.zone .cargo).state), BitVec.ofNat 8 (zoneStateCode (p.zone .driver).state)]
           ++ byte2 ((p.anu.playing.map Prompt.tag).getD 0) ++ byte1 p.anu.waiting.length) p, w⟩)
     ∧ (p.hears = true → p.pwc.mode ≠ .dormant → p.rif.tx = none → h.source ≠ 0 →
       exec (.identify h) ⟨p, w⟩ = .next ⟨{ p with rif := { p.rif with
         tx := some { bytes := replyBytes p 0x01 h .ok ([Config.familyCode] ++ byte2 2460 ++ [Config.designVersion]
           ++ byte1 p.rif.address ++ byte1 (startCauseCode p.pwc.startCause) ++ byte4 p.rif.ringTime) } } }, w⟩)
     ∧ (p.hears = true → p.pwc.mode ≠ .dormant → p.rif.tx = none → h.source ≠ 0 →
       exec (.status h) ⟨p, w⟩ = .next ⟨{ p with rif := { p.rif with
         tx := some { bytes := replyBytes p 0x02 h .ok (statusBody p) } } }, w⟩))
  ∧ (∀ (h : ReqHeader) (group : Nat) (cs : List Nat) (p : Part) (w : List Instr), p.takes 0x15 h = true →
      p.rmx.clips.length = 32 → p.nfu.counts.length = 7 → groupCounts p group = some cs →
      ∃ q, exec (.countersRead h group) ⟨p, w⟩ = .next ⟨answered 0x15 h .ok (cs.flatMap byte2) q, w⟩
        ∧ groupCounts q group = some (cs.map fun _ => 0)
        ∧ (∀ g, g ≠ group → groupCounts q g = groupCounts p g)
        ∧ q.tst = p.tst ∧ q.anu = p.anu ∧ q.clp = p.clp ∧ q.pwc = p.pwc ∧ q.nfu.notices = p.nfu.notices)
    ∧ (∀ p : Part, groupCounts p 0 = some (ZoneId.all.map fun z => (p.zone z).clip)
        ∧ groupCounts p 1 = some (p.rmx.clips.take 16) ∧ groupCounts p 2 = some (p.rmx.clips.drop 16)
        ∧ groupCounts p 4 = some [p.stm.checkFails.a, p.stm.checkFails.b, p.stm.unfiled, p.stm.dropped,
            p.stm.captureLosses]
        ∧ groupCounts p 3 = some [(p.tuner .a).underflows, (p.tuner .a).overflows, (p.tuner .a).missedAcks,
            (p.tuner .a).settleTimeouts, (p.tuner .b).underflows, (p.tuner .b).overflows, (p.tuner .b).missedAcks,
            (p.tuner .b).settleTimeouts]
        ∧ groupCounts p 5 = some [p.rlu.lineErrors, p.rlu.overflows, p.rlu.frameErrors, p.rlu.checkErrors,
            p.rlu.formatErrors]
        ∧ groupCounts p 6 = some [p.rif.badFrames, p.rif.laneErrors, p.rif.overruns, p.rif.replyTimeouts,
            p.rif.ringLosses]
        ∧ groupCounts p 7 = some p.nfu.counts)
    ∧ ∀ (h : ReqHeader) (group : Nat) (p : Part) (w : List Instr), p.takes 0x15 h = true → 8 ≤ group →
        exec (.countersRead h group) ⟨p, w⟩ = .next ⟨answered 0x15 h .badValue [] p, w⟩

/-! ### Tables, counters and banks -/

/-- R163, section 12.3: TABLE_READ of one entry returns it as the next index (none: 255), its index, and the fields
the mask names; a free STATIONS index carries its mark alone; a poisoned entry is marked and its fields are not
returned. A range is returned in index order, as many whole entries as the reply takes, then the index to read on
from; MARKED leaves out the indices without a mark, free ones included, and CLEAR clears the marks of those returned
and no others. R162, R163: another node's read is refused with ACCESS where the share right of the table is NONE, and
is returned as the head unit's is where it is READ; nothing but the reply and the marks cleared changes. The refusals,
in their order: an unknown table, indices out of order or out of the table, a mask or options that the table does not
have, and an entry longer than a reply takes. That the options' bits 2 to 7 are ignored is the model's reading (log
entry 18), as is the bound of 52 bytes, with BAD_LENGTH beyond it, and that an entry at which the reply is full keeps
its mark (log entry 25). -/
def Obligations.TableReadReturnsTheEntriesOrRefuses : Prop :=
  (∀ (h : ReqHeader) (table i mask : Nat) (p : Part) (w : List Instr), p.takes 0x10 h = true → p.tst.latent = [] →
     i < directory.getD table 0 → mask ≠ 0 → mask < 2 ^ (fieldSizes table).length →
     (selected mask (fieldSizes table)).sum ≤ 52 → (entryBytes p table i mask false).length ≤ 53 →
     exec (.tableRead h table i i mask 0) ⟨p, w⟩ = .next ⟨answered 0x10 h .ok (255#8 ::
       (if p.entryPoisoned table i then [BitVec.ofNat 8 (i + 128)]
         else match entryFields p table i with
           | none => [BitVec.ofNat 8 (i + 64)]
           | some fs => BitVec.ofNat 8 i :: (selected mask fs).flatten)) p, w⟩)
  ∧ (∀ (h : ReqHeader) (table first last mask options : Nat) (p : Part) (w : List Instr), p.hears = true →
         p.pwc.mode ≠ .dormant → p.rif.tx = none → repeatOf p 0x10 h = none →
         (h.source = 0 ∨ options.testBit 1 = false) →
         let reply := fun r body (q : Part) => Host.Outcome.next ((⟨if h.source = 0 then answered 0x10 h r body q
           else { q with rif := { q.rif with tx := some { bytes := replyBytes q 0x10 h r body } } }, w⟩ : State))
         let run := exec (.tableRead h table first last mask options) ⟨p, w⟩
         (18 ≤ table → run = reply .badTable [] p)
         ∧ (table < 18 → h.source ≠ 0 → p.tst.shares.getD table false = false → run = reply .access [] p)
         ∧ (table < 18 → (h.source = 0 ∨ p.tst.shares.getD table false = true) →
             ((last < first ∨ directory.getD table 0 ≤ last) → run = reply .badEntry [] p)
             ∧ (first ≤ last → last < directory.getD table 0 → mask ≠ 0 → mask < 2 ^ (fieldSizes table).length →
                 (options % 4 = 0 ∨ table = 8) → (selected mask (fieldSizes table)).sum ≤ 52 → p.tst.latent = [] →
                 let wanted := (List.range' first (last + 1 - first)).filter fun i =>
                   !options.testBit 0 || (p.tst.stations.getD i {}).mark
                 let entry := fun i => if p.entryPoisoned table i then [BitVec.ofNat 8 (i + 128)]
                   else match entryFields p table i with
                     | none => [BitVec.ofNat 8 (i + 64)]
                     | some fs => BitVec.ofNat 8 i :: (selected mask fs).flatten
                 ∀ n, n ≤ wanted.length → ((wanted.take n).flatMap entry).length ≤ 53 →
                   (n < wanted.length → 53 < ((wanted.take (n + 1)).flatMap entry).length) →
                   ∃ ss, run = reply .ok (BitVec.ofNat 8 (wanted.getD n 255) :: (wanted.take n).flatMap entry)
                       { p with tst := { p.tst with stations := ss } }
                     ∧ ∀ i : Nat, ss[i]? = (p.tst.stations[i]?).map fun s =>
                         if options.testBit 1 = true ∧ i ∈ wanted.take n then { s with mark := false } else s)))
  ∧ ∀ (h : ReqHeader) (table first last mask options : Nat) (p : Part) (w : List Instr), p.takes 0x10 h = true →
      let answer := fun r => Host.Outcome.next (⟨answered 0x10 h r [] p, w⟩ : State)
      let run := exec (.tableRead h table first last mask options) ⟨p, w⟩
      (18 ≤ table → run = answer .badTable)
      ∧ (table < 18 → (last < first ∨ directory.getD table 0 ≤ last) → run = answer .badEntry)
      ∧ (table < 18 → first ≤ last → last < directory.getD table 0 →
          (mask = 0 ∨ 2 ^ (fieldSizes table).length ≤ mask ∨ (options % 4 ≠ 0 ∧ table ≠ 8)) → run = answer .badValue)
      ∧ (table < 18 → first ≤ last → last < directory.getD table 0 → mask ≠ 0 →
          mask < 2 ^ (fieldSizes table).length → (options % 4 = 0 ∨ table = 8) →
          52 < (selected mask (fieldSizes table)).sum → run = answer .badLength)

/-- R41, R164, Table 9.4: the checks of TABLE_WRITE that come before the owner's, in their order: an unknown table, a
runtime table, an index out of the table, a mask that the table does not have, values of another length, a poisoned
entry whose fields are not all named (but for CURVES). Then a bank that may not be written refuses with BUSY or
ACTIVE_BANK, before a merge reads the entry. Nothing changes but the reply. R162: TABLE_SHARE sets the share right of
a table and nothing else; another right than the two is refused with BAD_VALUE, then an unknown table with BAD_TABLE.
-/
def Obligations.TableWriteChecksAndShareRights : Prop :=
  (∀ (h : ReqHeader) (table i mask : Nat) (values : List Byte) (p : Part) (w : List Instr),
     p.takes 0x11 h = true → p.quiet = true → 1 ≤ values.length → values.length ≤ 52 →
     let answer := fun r => Host.Outcome.next (⟨answered 0x11 h r [] p, w⟩ : State)
     let run := exec (.tableWrite h table i mask values) ⟨p, w⟩
     (18 ≤ table → run = answer .badTable)
     ∧ (14 ≤ table → table < 18 → run = answer .access)
     ∧ (table < 14 → directory.getD table 0 ≤ i → run = answer .badEntry)
     ∧ (table < 14 → i < directory.getD table 0 → (mask = 0 ∨ 2 ^ (fieldSizes table).length ≤ mask) →
         run = answer .badValue)
     ∧ (table < 14 → i < directory.getD table 0 → mask ≠ 0 → mask < 2 ^ (fieldSizes table).length →
         splitFields table mask (fieldSizes table).zipIdx values = none → run = answer .badLength)
     ∧ (table < 14 → table ≠ 4 → i < directory.getD table 0 → mask ≠ 0 → mask + 1 < 2 ^ (fieldSizes table).length →
         splitFields table mask (fieldSizes table).zipIdx values ≠ none → p.entryPoisoned table i = true →
         run = answer .badEntry)
     ∧ (∀ bank, table = bankTable bank → i < 32 → mask ≠ 0 → mask < 128 →
         splitFields table mask (fieldSizes table).zipIdx values ≠ none →
         (p.entryPoisoned table i = false ∨ mask = 127) →
         (p.rmx.crossfade ≠ none → run = answer .busy)
         ∧ (p.rmx.crossfade = none → p.rmx.active = bank → run = answer .activeBank)))
  ∧ ∀ (h : ReqHeader) (table right : Nat) (p : Part) (w : List Instr), p.takes 0x13 h = true →
      exec (.tableShare h table right) ⟨p, w⟩ =
        if 1 < right then .next ⟨answered 0x13 h .badValue [] p, w⟩
        else if 18 ≤ table then .next ⟨answered 0x13 h .badTable [] p, w⟩
        else .next ⟨answered 0x13 h .ok []
          { p with tst := { p.tst with shares := p.tst.shares.set table (right == 1) } }, w⟩

/-- R17, R163, R164: a full write of a SOURCES entry whose values lie in their ranges is taken; a TABLE_READ then
returns the values written, the entry's poisoning is cleared, and nothing else of the part has changed: the channels
in force are the old ones till the next render block. Values out of their ranges are refused with BAD_VALUE. R153: the
EGRESS map takes NONE or a signal below 48 that no other entry names, and refuses another signal with BAD_VALUE, one
named elsewhere with DUPLICATE; a poisoned entry names none. R20, R32, R99, R110, R130, R141, R152, R164: a full write
of INGRESS, ZONES, DUCKS, CHIMES, SEATS and CALL_CFG is refused with BAD_VALUE where a value lies outside its range
and stored whole otherwise, the entry's poisoning cleared; one of SEATS begins the seat's meter window anew, and one
of CALL_CFG gives the uplink its code. R30: a field of CURVES is written by itself, its order judged over the fields
that are not poisoned. R57, R97: RADIO_CFG is refused with STATE where it changes the bus address of a tuner that is
not IDLE, then with BAD_VALUE; it is stored with the scoring in force kept, and a tuner given a new address is sent
STANDBY, the model's reading (log entry 32). R119, R120: a written maximum volume step is stored and copied to the
Rear Link Unit, and a headphone zone above it is set to it; a report is queued for the seat. A maximum above 40 is
refused with BAD_VALUE. -/
def Obligations.WrittenTablesTakeEffect : Prop :=
  (∀ (h : ReqHeader) (i l r trim : Nat) (p : Part) (w : List Instr), p.takes 0x11 h = true → i < 6 →
     p.tst.sources.length = 6 → l < 256 → r < 256 → trim < 65536 →
     ((l < 24 ∨ l = 255) ∧ (r < 24 ∨ r = 255) ∧ trim ≤ 384 ∧ (i < 4 ∨ (r = 255 ∧ trim = 0)) →
       ∃ q, exec (.tableWrite h 2 i 7 (byte1 l ++ byte1 r ++ byte2 trim)) ⟨p, w⟩ = .next ⟨answered 0x11 h .ok [] q, w⟩
         ∧ entryFields q 2 i = some [byte1 l, byte1 r, byte2 trim] ∧ q.entryPoisoned 2 i = false
         ∧ (∀ j, j ≠ i → q.tst.sources[j]? = p.tst.sources[j]?)
         ∧ q = { p with tst := { p.tst with sources := q.tst.sources, poisoned := q.tst.poisoned
                                            latent := q.tst.latent } }
         ∧ (∀ u ∈ p.tst.poisoned, u ∈ q.tst.poisoned ∨ (u.table = 2 ∧ u.entry = i)))
     ∧ ((24 ≤ l ∧ l ≠ 255) ∨ (24 ≤ r ∧ r ≠ 255) ∨ 384 < trim ∨ (4 ≤ i ∧ (r ≠ 255 ∨ trim ≠ 0)) →
       exec (.tableWrite h 2 i 7 (byte1 l ++ byte1 r ++ byte2 trim)) ⟨p, w⟩
         = .next ⟨answered 0x11 h .badValue [] p, w⟩))
  ∧ (∀ (h : ReqHeader) (i v : Nat) (p : Part) (w : List Instr), p.takes 0x11 h = true → p.tst.latent = [] → i < 33 →
         v < 256 →
         let run := exec (.tableWrite h 1 i 1 (byte1 v)) ⟨p, w⟩
         (48 ≤ v → v ≠ 255 → run = .next ⟨answered 0x11 h .badValue [] p, w⟩)
         ∧ (∀ j : Nat, v < 48 → j ≠ i → p.tst.egress[j]? = some (some v) → p.entryPoisoned 1 j = false →
             run = .next ⟨answered 0x11 h .duplicate [] p, w⟩)
         ∧ (v = 255 ∨ (v < 48 ∧ ∀ j : Nat, j ≠ i → p.tst.egress[j]? = some (some v) → p.unitPoisoned 1 j 0 = true) →
             ∃ q, run = .next ⟨answered 0x11 h .ok [] q, w⟩
               ∧ q.tst.egress = p.tst.egress.set i (if v = 255 then none else some v) ∧ q.entryPoisoned 1 i = false
               ∧ (∀ u ∈ p.tst.poisoned, u ∈ q.tst.poisoned ∨ (u.table = 1 ∧ u.entry = i))
               ∧ q = { p with tst := { p.tst with egress := q.tst.egress, poisoned := q.tst.poisoned } }))
  ∧ (∀ (h : ReqHeader) (i : Nat) (p : Part) (w : List Instr), p.takes 0x11 h = true → p.tst.latent = [] →
         let written := fun (table i : Nat) (fields : List (List Byte)) (ok : Prop) (tst : Store) (clp : Part → Clp) =>
           let run := exec (.tableWrite h table i (2 ^ fields.length - 1) fields.flatten) ⟨p, w⟩
           (¬ ok → run = .next ⟨answered 0x11 h .badValue [] p, w⟩)
           ∧ (ok → ∃ q, run = .next ⟨answered 0x11 h .ok [] q, w⟩
               ∧ q = { p with
                 tst := { tst with poisoned := tst.poisoned.filter fun u => !(u.table == table && u.entry == i) }
                 clp := clp q })
         (∀ v : Option Nat, i < 24 → (∀ n, v = some n → n < 255) →
           written 0 i [byte1 (codeOfOption v 255)] (∀ n, v = some n → n < 48)
             { p.tst with ingress := p.tst.ingress.set i v } fun _ => p.clp)
         ∧ (∀ (z : ZoneId) (c : ZoneCfg), c.attack < 256 → c.release < 256 → c.promptOffset < 256 →
             c.callOffset < 256 → c.followOffset < 256 → c.rearQuiet < 65536 → c.compStep < 256 → c.compMax < 256 →
             written 3 (zoneCode z) (zoneCfgFields c)
               (1 ≤ c.attack ∧ c.attack ≤ 64 ∧ 1 ≤ c.release ∧ c.release ≤ 64 ∧ c.promptOffset ≤ 96 ∧ c.callOffset ≤ 96
                 ∧ c.followOffset ≤ 96 ∧ c.rearQuiet ≤ 384 ∧ c.compStep ≤ 8 ∧ c.compMax ≤ 96
                 ∧ (z.follows = false → c.followOffset = 0) ∧ (z ≠ .rearCabin → c.rearQuiet = 0)
                 ∧ (z ≠ .cargo → c.cargoAuto = false) ∧ (z ≠ .front → c.compStep = 0 ∧ c.compMax = 0))
               { p.tst with zones := p.tst.zones.set z c } fun _ => p.clp)
         ∧ (∀ c : PerZone Nat, i < 7 → (∀ z, c.get z < 65536) →
             written 5 i (c.toList.map byte2) (∀ z, c.get z ≤ 384) { p.tst with ducks := p.tst.ducks.set i c }
               fun _ => p.clp)
         ∧ (∀ c : Pattern, i < 16 → c.segments.length = 8 → (p.tst.chimes.getD i {}).segments.length = 8 →
             c.count < 256 → c.repeats < 256 →
             (∀ s ∈ c.segments, s.freq < 65536 ∧ s.duration < 65536 ∧ s.level < 65536) →
             written 10 i (chimeFields c)
               (1 ≤ c.count ∧ c.count ≤ 8 ∧ 1 ≤ c.repeats ∧ ∀ s ∈ c.segments,
                 (s.freq = 0 ∨ (100 ≤ s.freq ∧ s.freq ≤ 8000)) ∧ 1 ≤ s.duration ∧ s.duration ≤ 2000 ∧ s.level ≤ 384)
               { p.tst with chimes := p.tst.chimes.set i c } fun _ => p.clp)
         ∧ (∀ (k : Seat) (c : SeatCfg), c.mic1 < 256 → (∀ n, c.mic2 = some n → n < 255) → c.gain < 65536 →
             c.window < 256 →
             written 11 (seatCode k) (seatFields c)
               (c.mic1 ≤ 5 ∧ (∀ n, c.mic2 = some n → n ≤ 5 ∧ n ≠ c.mic1) ∧ c.gain ≤ 384 ∧ 4 ≤ c.window ∧ c.window ≤ 64)
               { p.tst with seats := p.tst.seats.set k c }
               fun _ => { p.clp with
                 seats := p.clp.seats.set k { p.seat k with meterOpen := false, meterSum := 0 } })
         ∧ (∀ c : CallCfg, c.level < 65536 → c.ringPattern < 256 → c.navDuck < 256 → c.gateLevel < 256 →
             c.switchMargin < 256 → c.talkerHold < 65536 → c.gateAtt < 65536 → c.uplinkBase < 65536 → c.convErle < 256 →
             c.divErle < 256 →
             written 12 0 (callFields c)
               (c.level ≤ 384 ∧ c.defaultZones.cargo = false ∧ c.ringPattern ≤ 15 ∧ c.navDuck ≤ 96 ∧ c.gateLevel ≤ 240
                 ∧ c.switchMargin ≤ 240 ∧ 16 ≤ c.talkerHold ∧ c.talkerHold ≤ 5000 ∧ c.gateAtt ≤ 384 ∧ c.uplinkBase ≤ 384
                 ∧ c.convErle ≤ 160 ∧ c.divErle ≤ c.convErle)
               { p.tst with call := c } fun q => { p.clp with uplinkCode := uplinkOf q })
         ∧ ∀ (m : Nat) (low high other new : List Nat) (e : Curve), i < 2 → p.tst.curves[i]? = some e →
             (m = 0 ∧ new.length = 21 ∧ low = new ∧ high = e.high ∧ other = e.high
               ∨ m = 1 ∧ new.length = 20 ∧ low = e.low ∧ high = new ∧ other = e.low) →
             (∀ c ∈ new, c < 65536) → (∀ c ∈ other, c ≤ 384) →
             let run := exec (.tableWrite h 4 i (2 ^ m) (new.flatMap byte2)) ⟨p, w⟩
             let ok := (∀ c ∈ new, c ≤ 384)
               ∧ ((if m = 0 ∨ p.unitPoisoned 4 i 0 = false then low else [])
                   ++ (if m = 1 ∨ p.unitPoisoned 4 i 1 = false then high else [])).Pairwise fun a b => b ≤ a
             (¬ ok → run = .next ⟨answered 0x11 h .badValue [] p, w⟩)
             ∧ (ok → run = .next ⟨answered 0x11 h .ok [] { p with tst := { p.tst with
                 curves := p.tst.curves.set i ⟨low, high⟩, poisoned := p.tst.poisoned.filter (· != ⟨4, i, m⟩) } }, w⟩))
  ∧ (∀ (h : ReqHeader) (c : RadioCfg) (p : Part) (w : List Instr), p.takes 0x11 h = true → p.still = true →
         p.tst.latent = [] → c.fsFloor < 256 → c.blendLo < 256 → c.blendHi < 256 → c.muteHi < 256 → c.muteSlope < 256 →
         c.muteMax < 65536 → c.trim < 65536 → c.seekThreshold < 256 → c.scanThreshold < 256 →
         (∀ t n, c.addresses.get t = some n → n < 255) → c.afThreshold < 256 → c.afMargin < 256 → c.afHold < 65536 →
         c.afAge < 4294967296 → c.afBlindInterval < 4294967296 → c.bulletinLevel < 65536 → c.captureTrigger < 256 →
         let run := exec (.tableWrite h 9 0 8191 (radioFields c).flatten) ⟨p, w⟩
         let busy := ∃ t, c.addresses.get t ≠ p.tst.radio.addresses.get t ∧ (p.tuner t).state ≠ .idle
         let ok := c.fsFloor ≤ 127 ∧ c.blendLo < c.blendHi ∧ c.blendHi ≤ 100 ∧ c.muteHi ≤ 100 ∧ c.muteSlope ≤ 16
           ∧ c.muteMax ≤ 384 ∧ c.trim ≤ 384 ∧ c.seekThreshold ≤ 100 ∧ c.scanThreshold ≤ 100
           ∧ (∀ t n, c.addresses.get t = some n → 8 ≤ n ∧ n ≤ 119 ∧ c.addresses.get t.other ≠ some n)
           ∧ c.afThreshold ≤ 100 ∧ c.afMargin ≤ 100 ∧ 100 ≤ c.afHold ∧ c.afHold ≤ 60000 ∧ 1000 ≤ c.afAge
           ∧ c.afAge ≤ 3600000 ∧ 1000 ≤ c.afBlindInterval ∧ c.afBlindInterval ≤ 600000 ∧ c.bulletinLevel ≤ 384
           ∧ 1 ≤ c.captureTrigger ∧ c.captureTrigger ≤ 32
         (busy → run = .next ⟨answered 0x11 h .state [] p, w⟩)
         ∧ (¬ busy → ¬ ok → run = .next ⟨answered 0x11 h .badValue [] p, w⟩)
         ∧ (¬ busy → ok → (p.stm.bulletin.latch ≠ .prompted ∨ c.bulletins = true) →
             (p.stm.watch = none ∨ c.bulletins = false) → c.background = false →
             ∃ q, run = .next ⟨answered 0x11 h .ok [] q, w⟩
               ∧ q.tst = { p.tst with
                   radio := c, poisoned := p.tst.poisoned.filter fun u => !(u.table == 9 && u.entry == 0) }
               ∧ (∀ t, (q.tuner t).claims = (p.tuner t).claims ∧ (q.tuner t).state = (p.tuner t).state
                   ∧ q.scoring t = p.scoring t)
               ∧ (c.addresses = p.tst.radio.addresses → q.tuc.link = p.tuc.link ∧ q.tuc.queue = p.tuc.queue)
               ∧ (∀ t n, c.addresses.get t = some n → p.tst.radio.addresses.get t ≠ some n → (p.tuner t).retry = none →
                   (t, LinkCmd.standby) ∈ q.tuc.link.toList ++ q.tuc.queue)
               ∧ q = { p with tst := q.tst, tuc := q.tuc }))
  ∧ ∀ (h : ReqHeader) (r : RearSeat) (m : Nat) (p : Part) (w : List Instr), p.takes 0x11 h = true →
      p.tst.latent = [] → p.admissionPoisoned r = false → m < 256 →
      (m ≤ 40 → ∃ q, exec (.tableWrite h 13 (rearCode r) 2 (byte1 m)) ⟨p, w⟩ = .next ⟨answered 0x11 h .ok [] q, w⟩
        ∧ q.tst = { p.tst with admission := p.tst.admission.set r { p.tst.admission.get r with maxStep := m } }
        ∧ q.rlu.maxCopy = p.rlu.maxCopy.set r m
        ∧ (q.zone r.zone) = { p.zone r.zone with step := min (p.zone r.zone).step m }
        ∧ (∀ z, z ≠ r.zone → q.zone z = p.zone z)
        ∧ ((p.tst.admission.get r).maxStep ≠ m → (q.rlu.pending.get r).isSome = true)
        ∧ q = { p with tst := q.tst, rlu := q.rlu, zmx := q.zmx })
      ∧ (40 < m → exec (.tableWrite h 13 (rearCode r) 2 (byte1 m)) ⟨p, w⟩ = .next ⟨answered 0x11 h .badValue [] p, w⟩)

/-- R41, R165: TABLE_CLEAR returns a table to its power-on contents and clears its poisoning. An unknown table and a
runtime table are refused, and so are the active bank, either bank in a crossfade, and RADIO_CFG while a tuner with a
bus address is not IDLE. That a clear of SEATS begins the four meter windows anew is the model's choice (log entry
72). That the contribution fields of a cleared bank name zone 0, side L and no trims is the model's choice (log entry
42). -/
def Obligations.TableClearRestoresPowerOnContents : Prop :=
  ∀ (h : ReqHeader) (table : Nat) (p : Part) (w : List Instr), p.takes 0x12 h = true → p.quiet = true →
    (18 ≤ table → exec (.tableClear h table) ⟨p, w⟩ = .next ⟨answered 0x12 h .badTable [] p, w⟩)
    ∧ (14 ≤ table → table < 18 → exec (.tableClear h table) ⟨p, w⟩ = .next ⟨answered 0x12 h .access [] p, w⟩)
    ∧ (∀ bank, table = bankTable bank → p.rmx.crossfade ≠ none →
        exec (.tableClear h table) ⟨p, w⟩ = .next ⟨answered 0x12 h .busy [] p, w⟩)
    ∧ (∀ bank, table = bankTable bank → p.rmx.crossfade = none → p.rmx.active = bank →
        exec (.tableClear h table) ⟨p, w⟩ = .next ⟨answered 0x12 h .activeBank [] p, w⟩)
    ∧ (∀ t, table = 9 → p.hasAddress t = true → (p.tuner t).state ≠ .idle →
        exec (.tableClear h table) ⟨p, w⟩ = .next ⟨answered 0x12 h .state [] p, w⟩)
    ∧ (table < 14 → (∀ t, table = 9 → p.hasAddress t = true → (p.tuner t).state = .idle) →
        (∀ bank, table = bankTable bank → p.rmx.crossfade = none ∧ p.rmx.active ≠ bank) →
      ∃ q, exec (.tableClear h table) ⟨p, w⟩ = .next ⟨answered 0x12 h .ok [] q, w⟩
        ∧ (∀ u ∈ q.tst.poisoned, u.table ≠ table)
        ∧ (table = 0 → q.tst.ingress = List.replicate 24 none) ∧ (table = 1 → q.tst.egress = List.replicate 33 none)
        ∧ (table = 2 → q.tst.sources = List.replicate 6 ⟨none, none, 0⟩)
        ∧ (table = 3 → ∀ z, q.tst.zones.get z = ZoneCfg.powerOn z)
        ∧ (table = 4 → q.tst.curves = List.replicate 2 Curve.powerOn)
        ∧ (table = 5 → q.tst.ducks = List.replicate 7 (.of fun _ => 0))
        ∧ (∀ bank, table = bankTable bank → q.bank bank = List.replicate 32 {})
        ∧ (table = 8 → q.tst.stations = List.replicate 48 {} ∧ ∀ z, (q.zone z).station = none)
        ∧ (table = 9 → q.tst.radio = {
            fsFloor := 10, blendLo := 30, blendHi := 60, muteHi := 35, muteSlope := 6, muteMax := 120, trim := 0
            seekThreshold := 35, scanThreshold := 25, addresses := ⟨none, none⟩, afEnable := true, background := true
            bulletins := false, afThreshold := 30, afMargin := 10, afHold := 2000, afAge := 120000
            afBlindInterval := 5000, bulletinZones := ⟨true, true, false, false, false, false⟩, bulletinLevel := 0
            captureTrigger := 8 })
        ∧ (table = 10 → q.tst.chimes = List.replicate 16 {})
        ∧ (table = 11 → ∀ k, q.tst.seats.get k = SeatCfg.powerOn k ∧ (q.seat k).meterOpen = false)
        ∧ (table = 12 → q.tst.call = {})
        ∧ (table = 13 → ∀ r, q.tst.admission.get r = {} ∧ q.rlu.maxCopy.get r = 40))

/-- R40, R41, R45: in the inactive bank and outside a crossfade, the delay and count of an entry are written, or one
contribution, by a write that names them: stored with the other fields kept, the applied trims of its contributions
set to the code of the column in force, and refused with BAD_VALUE outside the ranges. R46, R47, R145: BANK_SWAP is
refused with BUSY in a crossfade, and with BAD_BANK and the index of the first entry that fails validation, the
entries behind it not read: one that is poisoned, whose delay is above 480, or a contribution of which names zone 6 or
7. Otherwise the other bank is the active one at step 0 of a crossfade, the path signature names it, and every context
that runs is cleared into TRAINING. The tables stay. That a poisoned contribution field beyond the count fails its
entry, and a zone 6 or 7 there does not, is the model's choice (log entry 43). R48: the render block after step 16
ends the crossfade, and BANK_SWAPPED is posted, by this row or by RMX_RENDER_BLOCK, whichever comes first (log entry
11); at any other moment the event changes nothing, the model's choice (log entry 10). -/
def Obligations.BanksAreWrittenSwappedAndCrossfade : Prop :=
  (∀ (h : ReqHeader) (p : Part) (w : List Instr), p.takes 0x14 h = true →
     let new := p.rmx.active.other
     let fails := fun i => ((p.bank new)[i]?).any fun e => p.entryPoisoned (bankTable new) i || decide (480 < e.delay)
       || (e.contribs.take e.count).any fun c => decide (5 < c.zone)
     (p.rmx.crossfade ≠ none → exec (.bankSwap h) ⟨p, w⟩ = .next ⟨answered 0x14 h .busy [] p, w⟩)
     ∧ (∀ i, p.rmx.crossfade = none → fails i = true → (∀ j < i, fails j = false) →
         (∀ u ∈ p.tst.latent, u.unit.table = bankTable new → i < u.unit.entry) →
         exec (.bankSwap h) ⟨p, w⟩ = .next ⟨answered 0x14 h .badBank (byte1 i) p, w⟩)
     ∧ (p.rmx.crossfade = none → (∀ i < (p.bank new).length, fails i = false) → p.tst.latent = [] →
         ∃ q, exec (.bankSwap h) ⟨p, w⟩
             = .next ⟨answered 0x14 h .ok (byte1 (bankCode p.rmx.active.other)) q, w⟩
           ∧ q.rmx = { p.rmx with active := p.rmx.active.other, crossfade := some 0 }
           ∧ q.clp.sig = { p.clp.sig with bank := p.rmx.active.other }
           ∧ (p.clp.sig.bank = p.rmx.active → ∀ k, (q.seat k).context =
               if (p.seat k).context = .reset then .reset else .training)
           ∧ q = { p with rmx := q.rmx, clp := q.clp, nfu := q.nfu }))
  ∧ (∀ (h : ReqHeader) (bank : BankId) (i : Nat) (e : RenderEntry) (p : Part) (w : List Instr), p.takes 0x11 h = true →
         p.tst.latent = [] → p.rmx.crossfade = none → p.rmx.active ≠ bank → i < 32 →
         p.entryPoisoned (bankTable bank) i = false → (p.bank bank)[i]? = some e →
         let refused := Host.Outcome.next (⟨answered 0x11 h .badValue [] p, w⟩ : State)
         let stores := fun (run : Host.Outcome State Fault Refusal) (new : RenderEntry) => ∃ q e',
           run = .next ⟨answered 0x11 h .ok [] q, w⟩
           ∧ (q.bank bank)[i]? = some e' ∧ { e' with contribs := new.contribs } = new
           ∧ e'.contribs.length = new.contribs.length
           ∧ (∀ (k : Nat) c, new.contribs[k]? = some c → ∃ c', e'.contribs[k]? = some c'
               ∧ { c' with applied := c.applied } = c
               ∧ (k < new.count → c'.applied = if p.rmx.tailgateOpen then c.trimOpen else c.trimClosed))
           ∧ (∀ j, j ≠ i → (q.bank bank)[j]? = (p.bank bank)[j]?) ∧ q = p.setBank bank (q.bank bank)
         (∀ d n, d < 65536 → n < 256 →
           let run := exec (.tableWrite h (bankTable bank) i 6 (byte2 d ++ byte1 n)) ⟨p, w⟩
           (d ≤ 1023 → n ≤ 4 → stores run { e with delay := d, count := n })
           ∧ (1023 < d ∨ 4 < n → run = refused))
         ∧ ∀ k z side tc tp rest, k < 4 → e.contribs.length = 4 → e.delay ≤ 1023 → e.count ≤ 4 → z < 256 →
             side < 256 → tc < 65536 → tp < 65536 → rest < 65536 →
           let run := exec (.tableWrite h (bankTable bank) i (2 ^ (3 + k))
             (byte1 z ++ byte1 side ++ byte2 tc ++ byte2 tp ++ byte2 rest)) ⟨p, w⟩
           (∀ s, z ≤ 7 → tc ≤ 384 → tp ≤ 384 → (side, s) ∈ [(0, Side.l), (1, .r), (2, .mid)] →
             stores run { e with
               contribs := e.contribs.set k { zone := z, side := s, trimClosed := tc, trimOpen := tp } })
           ∧ (7 < z ∨ 2 < side ∨ 384 < tc ∨ 384 < tp → run = refused))
  ∧ ∀ (p : Part) (w : List Instr), p.running = true →
      exec .bankCrossfadeEnd ⟨p, w⟩ = if p.rmx.crossfade = some 16 then
          .next ⟨{ p with rmx := { p.rmx with crossfade := none }
                          nfu := p.nfu.post .bankSwapped (bankCode p.rmx.active) none }, w⟩
        else .next ⟨p, w⟩

/-- R9, R45, R48: at a render block every applied trim moves by at most 4 codes to the code of the column in force,
and a crossfade moves on by one step; at the block after step 16 it ends, and BANK_SWAPPED is posted with the active
bank. -/
def Obligations.RenderBlockRampsTrimsAndCrossfades : Prop :=
  ∀ (p : Part) (w : List Instr), p.running = true → p.tst.latent = [] → p.tst.poisoned = [] →
    ∃ q, exec .rmxRenderBlock ⟨p, w⟩ = .next ⟨q, w⟩
      ∧ (∀ (bank : BankId) (n : Nat) (e : RenderEntry), (p.bank bank)[n]? = some e →
          ∃ e' : RenderEntry, (q.bank bank)[n]? = some e'
          ∧ e'.enabled = e.enabled ∧ e'.delay = e.delay ∧ e'.count = e.count
          ∧ ∀ i c, e.contribs[i]? = some c → ∃ c', e'.contribs[i]? = some c'
              ∧ { c' with applied := c.applied } = c
              ∧ (i < e.count → c'.applied =
                  let goal := if p.rmx.tailgateOpen then c.trimOpen else c.trimClosed
                  if c.applied < goal then min goal (c.applied + 4)
                  else if goal < c.applied then max goal (c.applied - 4) else c.applied))
      ∧ q.rmx = { p.rmx with crossfade := match p.rmx.crossfade with
          | none => none
          | some k => if k < 16 then some (k + 1) else none }
      ∧ q.nfu = (if p.rmx.crossfade.any fun k => 16 ≤ k then
          p.nfu.post .bankSwapped (bankCode p.rmx.active) none else p.nfu)
      ∧ q = { p with tst := q.tst, rmx := q.rmx, nfu := q.nfu }

/-! ### Zones -/

/-- R23, R28, R29, R38: ZONE_POWER. A zone that is on and switched on, or off and switched off, stays as it is;
HP_LEFT, HP_RIGHT and CARGO are refused with POWER outside ACTIVE; a zone switched on goes SILENT without a remembered
source, PENDING with a media source or with RADIO whose claim is refused, and a follower takes FRONT's programme and
its state, with ZONE_LOST where that is LOST; CARGO's auto-on mark is cleared either way; a zone without a claim on a
tuner switched off goes OFF and keeps its source. In ACTIVE a zone that remembers RADIO is given the first free tuner
that has an address, which is TUNING for its claim, and is PENDING on it. A headphone zone in the call leaves it when
switched off (R137): the seats follow as after a CALL_LEAVE. -/
def Obligations.ZonePowerSwitchesZones : Prop :=
  ∀ (h : ReqHeader) (z : ZoneId) (p : Part) (w : List Instr), p.takes 0x20 h = true → p.quiet = true →
    let done := fun q => Host.Outcome.next (⟨answered 0x20 h .ok [] (noteReports p q), w⟩ : State)
    let on := exec (.zonePower h (zoneCode z) 1) ⟨p, w⟩
    let off := exec (.zonePower h (zoneCode z) 0) ⟨p, w⟩
    let r := p.zone z
    (needsActive z = true → p.pwc.mode ≠ .active → on = .next ⟨answered 0x20 h .power [] p, w⟩)
    ∧ ((needsActive z = false ∨ p.pwc.mode = .active) →
        (r.state ≠ .off → z ≠ .cargo → on = done p)
        ∧ (r.state ≠ .off → z = .cargo → on = done (p.setZone z { r with autoOn := false }))
        ∧ (r.state = .off → z = .driver ∨ (z.ownSource = true ∧ r.source = .none) →
            on = done (p.setZone z { r with state := .silent }))
        ∧ (∀ k, r.state = .off → z.ownSource = true → r.source = .media k →
            on = done (p.setZone z { r with state := .pending }))
        ∧ (r.state = .off → z.ownSource = true → r.source = .radio → r.chan = none →
            on = done (p.setZone z { r with state := .silent, source := .none }))
        ∧ (∀ c a, r.state = .off → r.source = .radio → r.chan = some c → claimantOf z = some a →
            p.arbitrate a c none true = none → on = done (p.setZone z { r with state := .pending }))
        ∧ (∀ c a t, r.state = .off → r.source = .radio → r.chan = some c → claimantOf z = some a →
            p.pwc.mode = .active → p.tunersFree = true → p.tst.latent = [] → p.hasAddress t = true →
            (t = .b → p.hasAddress .a = false) →
            ∃ q, on = .next ⟨answered 0x20 h .ok [] q, w⟩
              ∧ q.zone z = { r with state := .pending, att := some t, att2 := none, held := none
                                    station := p.holderOf c, code := ((p.holderOf c).bind p.station).map Station.code }
              ∧ (q.tuner t).claims = [⟨a, false⟩] ∧ (q.tuner t).state = .tuning ∧ (q.tuner t).chan = some c
              ∧ (q.tuner t).note = some z ∧ (q.tuner t).s = 800 ∧ q.tuner t.other = p.tuner t.other
              ∧ (∀ x, x ≠ z → x.follows = false ∨ z ≠ .front → q.zone x = p.zone x)
              ∧ q = { p with zmx := { p.zmx with zones := q.zmx.zones }, tuc := q.tuc, stm := q.stm, rlu := q.rlu })
        ∧ (r.state = .off → z.follows = true → (p.zone .front).state = .lost →
            on = done ((p.setZone z { r with
              source := (p.zone .front).source, chan := (p.zone .front).chan, station := (p.zone .front).station
              code := (p.zone .front).code, step := (p.zone .front).step, att := (p.zone .front).att
              att2 := (p.zone .front).att2, held := (p.zone .front).held
              autoOn := if z = .cargo then false else r.autoOn
              state := .lost }).post .zoneLost (zoneCode z)))
        ∧ (r.state = .off → z.follows = true → (p.zone .front).state ≠ .lost →
            on = done (p.setZone z { r with
              source := (p.zone .front).source, chan := (p.zone .front).chan, station := (p.zone .front).station
              code := (p.zone .front).code, step := (p.zone .front).step, att := (p.zone .front).att
              att2 := (p.zone .front).att2, held := (p.zone .front).held
              autoOn := if z = .cargo then false else r.autoOn
              state := match (p.zone .front).state with
                | .pending => .pending
                | .playing => .playing
                | _ => .silent })))
    ∧ (r.state = .off → z ≠ .cargo → off = done p)
    ∧ (r.state = .off → z = .cargo → off = done (p.setZone z { r with autoOn := false }))
    ∧ (r.state ≠ .off → z.ownSource = true → p.tunersFree = true →
        (p.clp.zones.get z = false ∨ z = .front) →
        ∃ q, off = .next ⟨answered 0x20 h .ok [] q, w⟩
          ∧ q.zone z = { r with state := .off, autoOn := false, att := none, att2 := none, held := none }
          ∧ (∀ x, x ≠ z → q.zone x =
              if z = .front ∧ x.follows ∧ (p.zone x).state ≠ .off then
                { p.zone x with att := none, att2 := none, held := none }
              else p.zone x)
          ∧ q = { p with zmx := { p.zmx with zones := q.zmx.zones }, rlu := q.rlu,
                         tuc := { p.tuc with grants := p.tuc.grants.erase z } })
    ∧ (∀ k, z.rearSeat? = some k → r.state ≠ .off → p.tunersFree = true → p.clp.zones.get z = true →
        p.tst.latent = [] →
        ∃ q, off = .next ⟨answered 0x20 h .ok [] q, w⟩
          ∧ q.zone z = { r with state := .off, autoOn := false, att := none, att2 := none, held := none }
          ∧ (∀ x, x ≠ z → q.zone x = p.zone x)
          ∧ q.clp.zones = p.clp.zones.set z false ∧ q.clp.state = p.clp.state ∧ q.clp.isPrivate = p.clp.isPrivate
          ∧ (p.clp.state = .active ∨ p.clp.state = .held →
              q.clp.admitted = (if p.clp.isPrivate = true then ⟨true, false, false, false⟩ else
                ⟨q.clp.zones.front || q.clp.zones.driver, q.clp.zones.front,
                  q.clp.zones.hpLeft || q.clp.zones.rearCabin, q.clp.zones.hpRight || q.clp.zones.rearCabin⟩)
              ∧ p.seatsFollow q)
          ∧ q = { p with zmx := { p.zmx with zones := q.zmx.zones }, rlu := q.rlu, clp := q.clp, nfu := q.nfu,
                         tuc := { p.tuc with grants := p.tuc.grants.erase z } })
    ∧ (r.state ≠ .off → z.ownSource = false → off = done (p.setZone z { r with state := .off, autoOn := false }))
    ∧ (∀ n v, 6 ≤ n ∨ 2 ≤ v →
        exec (.zonePower h n v) ⟨p, w⟩ = .next ⟨answered 0x20 h .badValue [] p, w⟩)

/-- R23, R70, R75: FRONT or a headphone zone switched off keeps its source, loses its claim and its tuner; the tuner
that no claim holds any longer goes IDLE with its adapter emptied, and STANDBY is issued to it. -/
def Obligations.SwitchingOffFreesTheTuner : Prop :=
  ∀ (h : ReqHeader) (z : ZoneId) (c : Claimant) (t : TunerId) (p : Part) (w : List Instr), p.takes 0x20 h = true →
    p.quiet = true → p.tst.latent = [] → claimantOf z = some c → (p.zone z).state ≠ .off → p.clp.zones.get z = false →
    p.playsOn t = true → (p.tuner t).claims = [⟨c, false⟩] → (p.tuner t.other).state = .idle →
    (p.tuner t.other).claims = [] → p.hasAddress t = true →
    ∃ q, exec (.zonePower h (zoneCode z) 0) ⟨p, w⟩ = .next ⟨answered 0x20 h .ok [] q, w⟩
      ∧ (q.zone z).state = .off ∧ (q.zone z).source = (p.zone z).source ∧ (q.zone z).chan = (p.zone z).chan
      ∧ (q.zone z).att = none ∧ (q.tuner t).state = .idle ∧ (q.tuner t).claims = []
      ∧ (q.tuner t).adapter = { trim := (p.tuner t).adapter.trim }
      ∧ (t, LinkCmd.standby) ∈ q.tuc.link.toList ++ q.tuc.queue
      ∧ (∀ x, x ≠ z → x.follows = false → q.zone x = p.zone x)
      ∧ q.tst = p.tst ∧ q.rmx = p.rmx ∧ q.anu = p.anu ∧ q.clp = p.clp ∧ q.nfu = p.nfu ∧ q.pwc = p.pwc

/-- R24: ZONE_SOURCE. A zone that is OFF remembers the source; a zone that is on goes SILENT with NONE and PENDING
with another media source, its claim given up: the tuner that no claim holds any longer goes IDLE, and STANDBY is
issued to it; where the zone holds no claim, nothing but its record changes. The refusals; that in REDUCED POWER is answered for
RADIO before any other result is the model's choice (log entry 86). -/
def Obligations.ZoneSourceChoosesTheProgramme : Prop :=
  ∀ (h : ReqHeader) (z : ZoneId) (p : Part) (w : List Instr), p.takes 0x21 h = true → p.quiet = true →
    let done := fun q => Host.Outcome.next (⟨answered 0x21 h .ok [] (noteReports p q), w⟩ : State)
    let refused := fun r => Host.Outcome.next (⟨answered 0x21 h r [] p, w⟩ : State)
    let run := fun s => exec (.zoneSource h (zoneCode z) (sourceCode s)) ⟨p, w⟩
    (z.ownSource = false → ∀ s, run s = refused .zoneRole)
    ∧ (z.ownSource = true →
        (∀ s, (p.zone z).state = .off → run s = done (p.setZone z { p.zone z with source := s }))
        ∧ (∀ k, (p.zone z).state ≠ .off → (p.zone z).source = .media k → run (.media k) = done p)
        ∧ (∀ s, s ≠ .radio → (s = .none ∨ s ≠ (p.zone z).source) → (p.zone z).state ≠ .off → p.tunersFree = true →
            ∃ q, run s = .next ⟨answered 0x21 h .ok [] q, w⟩
              ∧ q.zone z = { p.zone z with source := s, state := if s = .none then .silent else .pending
                                           att := none, att2 := none, held := none }
              ∧ (∀ x, x ≠ z → q.zone x =
                  if z = .front ∧ x.follows ∧ (p.zone x).state ≠ .off then
                    { p.zone x with att := none, att2 := none, held := none }
                  else p.zone x)
              ∧ q = { p with zmx := { p.zmx with zones := q.zmx.zones }, rlu := q.rlu,
                             tuc := { p.tuc with grants := p.tuc.grants.erase z } })
        ∧ (∀ s a t, s ≠ .radio → (s = .none ∨ s ≠ (p.zone z).source) → (p.zone z).state ≠ .off →
            claimantOf z = some a → p.tst.latent = [] → p.playsOn t = true → (p.tuner t).claims = [⟨a, false⟩] →
            (p.tuner t.other).state = .idle → (p.tuner t.other).claims = [] → p.hasAddress t = true →
            ∃ q, run s = .next ⟨answered 0x21 h .ok [] q, w⟩
              ∧ q.zone z = { p.zone z with source := s, state := if s = .none then .silent else .pending
                                           att := none, att2 := none, held := none }
              ∧ (q.tuner t).state = .idle ∧ (q.tuner t).claims = []
              ∧ (q.tuner t).adapter = { trim := (p.tuner t).adapter.trim }
              ∧ (t, LinkCmd.standby) ∈ q.tuc.link.toList ++ q.tuc.queue
              ∧ (∀ x, x ≠ z → x.follows = false → q.zone x = p.zone x)
              ∧ q.tst = p.tst ∧ q.rmx = p.rmx ∧ q.anu = p.anu ∧ q.clp = p.clp ∧ q.nfu = p.nfu ∧ q.pwc = p.pwc)
        ∧ ((p.zone z).state ≠ .off → p.pwc.mode ≠ .active → run .radio = refused .power)
        ∧ ((p.zone z).state ≠ .off → p.pwc.mode = .active → (p.zone z).source = .radio → (p.zone z).state ≠ .lost →
            run .radio = done p)
        ∧ ((p.zone z).state ≠ .off → p.pwc.mode = .active →
            ((p.zone z).source ≠ .radio ∨ (p.zone z).state = .lost) →
            ((p.zone z).chan = none → run .radio = refused .state)
            ∧ (∀ c a, (p.zone z).chan = some c → claimantOf z = some a → p.arbitrate a c none true = none →
                run .radio = refused .tunerBusy)))
    ∧ ∀ n, 6 ≤ n → exec (.zoneSource h (zoneCode z) n) ⟨p, w⟩ = refused .badValue

/-- R25, R119: ZONE_VOLUME sets the step of FRONT, HP_LEFT and HP_RIGHT in any state, a headphone zone's up to its
seat's maximum, answered CLAMPED where that limits it; nothing else changes but the seat's pending report. Other zones
and steps above 40 are refused; that a zone that takes no volume refuses first, whatever the step, is the model's
choice (log entry 41). R27: ZONE_MUTE sets or clears the mute flag of any zone in any state, and changes nothing else
but the seat's pending report. A value outside the two, or a zone there is not, is refused with BAD_VALUE. That
ZONE_OFFSET for a zone that takes none is refused with ZONE_ROLE, though its entry is poisoned, is the model's choice
(log entry 86). -/
def Obligations.ZoneVolumeAndMuteSetTheRecord : Prop :=
  (∀ (h : ReqHeader) (z : ZoneId) (n : Nat) (p : Part) (w : List Instr), p.takes 0x22 h = true →
     exec (.zoneVolume h (zoneCode z) n) ⟨p, w⟩ =
       if z.ownSource = false then .next ⟨answered 0x22 h .zoneRole [] p, w⟩
       else if 40 < n then .next ⟨answered 0x22 h .badValue [] p, w⟩
       else match z.rearSeat? with
         | none => .next ⟨answered 0x22 h .ok [] (noteReports p (p.setZone z { p.zone z with step := n })), w⟩
         | some r => .next ⟨answered 0x22 h (if p.rlu.maxCopy.get r < n then .clamped else .ok) []
             (noteReports p (p.setZone z { p.zone z with step := min n (p.rlu.maxCopy.get r) })), w⟩)
  ∧ (∀ (h : ReqHeader) (z : ZoneId) (p : Part) (w : List Instr), p.takes 0x24 h = true →
      (∀ v : Bool, exec (.zoneMute h (zoneCode z) (codeOfBool v)) ⟨p, w⟩
          = .next ⟨answered 0x24 h .ok [] (noteReports p (p.setZone z { p.zone z with mute := v })), w⟩)
      ∧ ∀ n v, 6 ≤ n ∨ 2 ≤ v → exec (.zoneMute h n v) ⟨p, w⟩ = .next ⟨answered 0x24 h .badValue [] p, w⟩)
  ∧ ∀ (h : ReqHeader) (z : ZoneId) (off : Int) (p : Part) (w : List Instr), p.takes 0x23 h = true →
      z ≠ .rearCabin → z ≠ .cargo → p.unitPoisoned 3 (zoneCode z) 0 = true →
      exec (.zoneOffset h (zoneCode z) off) ⟨p, w⟩ = .next ⟨answered 0x23 h .zoneRole [] p, w⟩

/-- R26 whole: ZONE_OFFSET writes the follow offset of REAR_CABIN or CARGO, clamped to 0 to 96, in any zone state; the
entry's other fields and all else stay. The next render block of the Zone Mixer takes the offset into the
entertainment target of a zone that plays, where that is a code sum and not MUTE; a TABLE_READ gives it, and a RESET
and a wake keep it. Other zones, and a poisoned entry, are refused; of another zone whose own entry is poisoned, to
which both refusals apply, R26 says no order, and it is in `ZoneVolumeAndMuteSetTheRecord`. -/
def Obligations.ZoneOffsetWritesTheFollowOffset : Prop :=
  (∀ (h : ReqHeader) (z : ZoneId) (off : Int) (p : Part) (w : List Instr), p.takes 0x23 h = true →
    p.tst.latent = [] →
    (z ≠ .rearCabin → z ≠ .cargo → p.unitPoisoned 3 (zoneCode z) 0 = false →
      exec (.zoneOffset h (zoneCode z) off) ⟨p, w⟩ = .next ⟨answered 0x23 h .zoneRole [] p, w⟩)
    ∧ ((z = .rearCabin ∨ z = .cargo) →
        (p.unitPoisoned 3 (zoneCode z) 0 = true →
          exec (.zoneOffset h (zoneCode z) off) ⟨p, w⟩ = .next ⟨answered 0x23 h .badEntry [] p, w⟩)
        ∧ (p.unitPoisoned 3 (zoneCode z) 0 = false →
          ∀ n res, (n, res) = (if off < 0 then (0, Result.clamped) else if 96 < off then (96, .clamped)
              else (off.toNat, .ok)) →
            ∃ q, exec (.zoneOffset h (zoneCode z) off) ⟨p, w⟩ = .next ⟨answered 0x23 h res [] q, w⟩
              ∧ q = { p with tst := { p.tst with
                  zones := p.tst.zones.set z { p.tst.zones.get z with followOffset := n } } }
              ∧ (q.zoneCfg z).followOffset = n
              ∧ (entryFields q 3 (zoneCode z)).map (fun fs => fs[6]?) = some (some (byte1 n))
              ∧ (p.running = true → p.quiet = true → p.pwc.ramp = none →
                  ∃ u, exec .zmxRenderBlock ⟨answered 0x23 h res [] q, w⟩ = .next ⟨u, w⟩
                    ∧ let r := u.zone z; let cfg := p.zoneCfg z
                      (r.state = .playing → r.mute = false → tunerAway p r = false →
                        p.curveCode cfg.headphoneCurve r.step ≠ 384 →
                        (∀ d ∈ presentRows p, p.unitPoisoned 5 d 0 = false) →
                        r.ent.target = codeSum [p.curveCode cfg.headphoneCurve r.step, sourceTrim p r.source,
                          softMuteTerm p r,
                          if z = .rearCabin ∧ ((u.zone .hpLeft).state = .playing ∨ (u.zone .hpRight).state = .playing)
                            then cfg.rearQuiet else 0,
                          n, duckOf p z,
                          if cfg.speedComp then
                            -(min (p.zoneCfg .front).compMax (p.zmx.speed / 10 * (p.zoneCfg .front).compStep) : Nat)
                          else 0])))))
  ∧ ∀ (c : Instr) (p q : Part) (w : List Instr), restarts c p = true → readsStraps c = false →
      exec c ⟨p, w⟩ = .next ⟨q, w⟩ → q.tst.zones = p.tst.zones

/-- R7, R8, R22, R31, R32, R34 to R37: the render block of the Zone Mixer. A zone with a source of its own moves by
its readiness, a follower with FRONT, and each zone that enters LOST posts ZONE_LOST; each target is the code sum of
its rule or MUTE, as where a present DUCKS row is poisoned; each applied code moves toward its target by the attack
and release rates and stops on it, and a call is cut. From this block the SOURCES entries and cargo-auto are in force
as they stand (R17, R20); that a poisoned SOURCES entry is in force as an empty one is the model's reading (log entry
50). That several ZONE_LOST of one block are posted in the order of the zone ids is the model's choice (log entry 61).
-/
def Obligations.ZoneMixerMovesZonesAndRamps : Prop :=
  ∀ (p : Part) (w : List Instr), p.running = true → p.quiet = true → p.tst.latent = [] →
    ∃ q, exec .zmxRenderBlock ⟨p, w⟩ = .next ⟨q, w⟩
      ∧ q = { p with zmx := { p.zmx with zones := q.zmx.zones, sources := q.zmx.sources
                                         cargoAuto := (p.zoneCfg .cargo).cargoAuto }
                     nfu := q.nfu, rlu := q.rlu, pwc := { p.pwc with ramp := p.pwc.ramp.map (· + 1) } }
      ∧ (∀ k, q.zmx.sources[k]? = (p.tst.sources[k]?).map fun e => if p.unitPoisoned 2 k 0 then {} else e)
      ∧ q.nfu = (ZoneId.all.filter fun z => (q.zone z).state == .lost && (p.zone z).state != .lost).foldl
          (fun n z => n.post .zoneLost (zoneCode z) none) p.nfu
      ∧ ∀ z, let r := q.zone z; let old := p.zone z; let cfg := p.zoneCfg z
        let toward := fun target applied =>
          if applied < target then min target (applied + cfg.attack)
          else if target < applied then max target (applied - cfg.release) else applied
        (z.ownSource = true → r.state = match old.state with
          | .off => .off
          | .silent => .silent
          | .pending => if zoneReady p z then .playing
              else if old.source = .radio ∧ old.att = none then .lost else .pending
          | _ => if zoneReady p z then .playing else .lost)
        ∧ (z.follows = true → old.state ≠ .off →
            r.source = (q.zone .front).source ∧ r.step = (q.zone .front).step
            ∧ r.state = (if (q.zone .front).state = .off then .silent else (q.zone .front).state))
        ∧ (z.follows = true → old.state = .off → r.state = .off) ∧ (z = .driver → r.state = old.state)
        ∧ r.ent.applied = toward r.ent.target old.ent.applied ∧ r.prm.applied = toward r.prm.target old.prm.applied
        ∧ r.call.applied = (if r.call.target = 384 then 384 else toward r.call.target old.call.applied)
        ∧ r.ent.target = (
            if p.pwc.ramp.isSome ∨ r.state ≠ .playing ∨ r.mute ∨ z = .driver ∨ tunerAway p r
              ∨ p.curveCode cfg.headphoneCurve r.step = 384 ∨ (∃ d ∈ presentRows p, p.unitPoisoned 5 d 0 = true)
              then 384
            else codeSum [p.curveCode cfg.headphoneCurve r.step, sourceTrim p r.source, softMuteTerm p r,
              if z = .rearCabin ∧ ((q.zone .hpLeft).state = .playing ∨ (q.zone .hpRight).state = .playing)
                then cfg.rearQuiet else 0,
              if z.follows then cfg.followOffset else 0, duckOf p z,
              if cfg.speedComp then
                -(min (p.zoneCfg .front).compMax (p.zmx.speed / 10 * (p.zoneCfg .front).compStep) : Nat) else 0])
        ∧ r.prm.target = (match p.anu.playing with
          | none => 384
          | some m => if p.pwc.ramp.isSome ∨ m.zones.get z = false ∨ r.state = .off then 384
            else codeSum [m.level, cfg.promptOffset,
              if p.clp.state = .active ∧ m.cls = .nav ∧ p.clp.zones.get z then p.callCfg.navDuck else 0])
        ∧ r.call.target = (if p.pwc.ramp.isSome ∨ p.clp.state ≠ .active ∨ p.clp.zones.get z = false ∨ r.state = .off
            then 384 else codeSum [p.callCfg.level, cfg.callOffset])

/-- R4 to R6, R17, R75: the zone buses of a frame. On each side a zone has the round-sum of its entertainment signal,
the prompt's and the phone's, saturated, and each saturated side adds one to the zone's clip counter. The
entertainment signal is a media source's, by the channels in force since the last render block; or the radio signal of
the zone's tuner, in a switch the mix of the two (R90); or nothing. The prompt's is the NAV voice, the chime's sample
or a tuner's radio signal (R106). R111: the chime's sample is the tone sample at its phase by the segment's level, and
the phase moves on. R62: the radio signal is the blend of the tuner's last output pair. That nothing sounds in the
prompt's place where none plays, also while the prompt applied code still ramps, is the model's choice (log entry 40),
and so is the nothing of a zone on RADIO that is attached to no tuner, also while its applied code ramps (log entry 84).
The case left out is a media source with a poisoned entry, whose samples are free values (log entry 3). -/
def Obligations.ZoneBusesAreSaturatedRoundSums : Prop :=
  ∀ (f : Frame) (mics : List Sample) (z : ZoneId) (p : Part) (w : List Instr),
    p.rif.addressValid = true → p.rif.joined = true → p.pwc.mode ≠ .dormant → p.tst.latent = [] →
    f.occupied = false → p.rif.rx = [] → p.rif.tx = none →
    ∃ q, exec (.validFrame f mics) ⟨p, w⟩ = .next ⟨q, w⟩
      ∧ q.anu = (match p.anu.chime.segment with
        | none => { p.anu with sample := 0 }
        | some s => { p.anu with
            sample := (toneSample p.anu.chime.phase * (linear s.level : Int) + 4194304) / 8388608
            chime := { p.anu.chime with phase := (p.anu.chime.phase + p.anu.chime.increment) % 4294967296 } })
      ∧ let channel := fun ch : Option Nat => match ch with
          | none => 0
          | some c => q.rif.channels.getD c 0
        let mono := fun k : Nat => if p.unitPoisoned 2 k 0 then 0 else channel (p.zmx.sources.getD k {}).left
        let radio := fun t : TunerId =>
          let x := (q.tuner t).adapter.last
          let d := ((p.tuner t).sep : Int) * (x.1 - x.2)
          if (p.tuner t).adapter.primed then ((x.1 + x.2 + d.tdiv 100) / 2, (x.1 + x.2 - d.tdiv 100) / 2) else (0, 0)
        let mix := fun (k : Nat) (old new : Int) =>
          (old * (8388608 - (k : Int) * 262144) + new * ((k : Int) * 262144) + 4194304) / 8388608
        let ent : Option (Int × Int) := match (p.zone z).source with
          | .none => some (0, 0)
          | .media k => if p.unitPoisoned 2 k.val 0 then none
            else some (channel (p.zmx.sources.getD k.val {}).left, channel (p.zmx.sources.getD k.val {}).right)
          | .radio => match (p.zone z).att, (p.zone z).att2 with
            | none, _ => some (0, 0)
            | some t, none => some (radio t)
            | some t, some u => some (mix (p.follow t).step (radio t).1 (radio u).1,
                mix (p.follow t).step (radio t).2 (radio u).2)
        let prompt : Int × Int := match p.anu.playing.map Prompt.source with
          | none => (0, 0)
          | some .navVoice => (mono 5, mono 5)
          | some (.pattern _) => (q.anu.sample, q.anu.sample)
          | some (.tuner t) => radio t
        let side := fun e m : Int => (e * (linear (p.zone z).ent.applied : Int) + m * (linear (p.zone z).prm.applied : Int)
            + mono 4 * (linear (p.zone z).call.applied : Int) + 4194304) / 8388608
        ∀ e, ent = some e →
          let l := side e.1 prompt.1
          let r := side e.2 prompt.2
          q.zmx.bus.get z = (max (-8388608) (min 8388607 l), max (-8388608) (min 8388607 r))
          ∧ (q.zone z).clip = min 65535 ((p.zone z).clip + (if l < -8388608 ∨ 8388607 < l then 1 else 0)
              + (if r < -8388608 ∨ 8388607 < r then 1 else 0))

/-! ### Tuners -/

/-- R71, R84: the head unit's TUNE for a zone that is OFF stores RADIO and the channel, given as a frequency or as the
channel of highest last quality of a station entry, and starts no tune; the zone's station index and code stay as they
were (log entry 26); the refusals of its arguments. That ZONE_ROLE comes before these, and POWER after them, is the
model's choice (log entry 86). -/
def Obligations.TuneStoresForZonesThatAreOff : Prop :=
  (∀ (h : ReqHeader) (z : ZoneId) (p : Part) (w : List Instr), p.takes 0x30 h = true → p.quiet = true →
    p.tst.latent = [] →
    let stored := fun c => Host.Outcome.next (⟨answered 0x30 h .ok []
      (noteReports p (p.setZone z { p.zone z with source := .radio, chan := some c })), w⟩ : State)
    let refused := fun r => Host.Outcome.next (⟨answered 0x30 h r [] p, w⟩ : State)
    let run := fun selector index freq => exec (.tune h (zoneCode z) selector index freq) ⟨p, w⟩
    (∀ s i f, 2 < s → run s i f = refused .badValue)
    ∧ (z.ownSource = false → ∀ s i f, s ≤ 2 → run s i f = refused .zoneRole)
    ∧ (z.ownSource = true →
        (∀ (c : Chan) i, validFreq c.band c.freq = true → (p.zone z).state = .off →
          run (bandCode c.band + 1) i c.freq = stored c)
        ∧ (∀ (b : Band) i f, validFreq b f = false → run (bandCode b + 1) i f = refused .badValue)
        ∧ (∀ (b : Band) i f, validFreq b f = true → (p.zone z).state ≠ .off → p.pwc.mode ≠ .active →
          run (bandCode b + 1) i f = refused .power)
        ∧ (∀ i f, 47 < i → run 0 i f = refused .badValue)
        ∧ (∀ i f, i ≤ 47 → p.station i = none → run 0 i f = refused .notFound)
        ∧ (∀ i f e it, i ≤ 47 → p.station i = some e → bestItem e.items = some it → (p.zone z).state = .off →
          run 0 i f = stored ⟨e.band, it.freq⟩)))
  ∧ ∀ items it, bestItem items = some it → it ∈ items ∧ ∀ x ∈ items, qualityRank x.quality ≤ qualityRank it.quality

/-- R58, R68, R72, R75: with both tuners free, TUNE for a zone that is on, and ZONE_SOURCE RADIO for one with a
remembered channel, take the first tuner that has a bus address: the zone's claim stands on it, it is TUNING to the
channel with its record as a tune start leaves it, the TUNE command goes on the link, and the zone is PENDING on
RADIO, attached to it, with the station entry that holds the channel. -/
def Obligations.ZonesOnRadioTakeAFreeTuner : Prop :=
  ∀ (h : ReqHeader) (z : ZoneId) (a : Claimant) (c : Chan) (t : TunerId) (cmd : Instr) (kind : Nat) (p : Part)
    (w : List Instr),
    (cmd = .tune h (zoneCode z) (bandCode c.band + 1) 0 c.freq ∧ kind = 0x30
      ∨ cmd = .zoneSource h (zoneCode z) 1 ∧ kind = 0x21 ∧ (p.zone z).chan = some c
        ∧ ((p.zone z).source ≠ .radio ∨ (p.zone z).state = .lost)) →
    p.takes kind h = true → p.quiet = true → p.tst.latent = [] → validFreq c.band c.freq = true →
    claimantOf z = some a → (p.zone z).state ≠ .off → p.pwc.mode = .active → p.tunersFree = true →
    p.tuc.link = none → p.tuc.queue = [] → p.hasAddress t = true → (t = .b → p.hasAddress .a = false) →
    ∃ q, exec cmd ⟨p, w⟩ = .next ⟨answered kind h .ok [] q, w⟩
      ∧ q.tuner t = { p.tuner t with
          state := .tuning, chan := some c, claims := [⟨a, false⟩], q := 0, s := 800, pilot := false, sep := 0
          softMute := 0, heard := none, adapter := { trim := (p.tuner t).adapter.trim }, settle := false
          acked := false, done := false, note := some z }
      ∧ q.tuner t.other = p.tuner t.other ∧ q.tuc.link = some (t, .tune c) ∧ q.tuc.queue = []
      ∧ q.zone z = { p.zone z with source := .radio, state := .pending, chan := some c, att := some t, att2 := none
                                   held := none, station := p.holderOf c
                                   code := ((p.holderOf c).bind p.station).map Station.code }
      ∧ (∀ x, x ≠ z → (x.follows = false ∨ z ≠ .front) → q.zone x = p.zone x)
      ∧ q = { p with zmx := { p.zmx with zones := q.zmx.zones }, tuc := q.tuc, stm := q.stm, rlu := q.rlu }

/-- R68, R72: a zone that tunes to the channel another zone's tuner plays shares that tuner: its claim joins the list,
TUNE_DONE is posted at once and no command goes to the tuner. A zone alone on its tuner moves it. With no tuner to be
had the request is refused with TUNER_BUSY and nothing changes. -/
def Obligations.TuneSharesMovesOrIsRefused : Prop :=
  ∀ (h : ReqHeader) (z : ZoneId) (a : Claimant) (c : Chan) (t : TunerId) (p : Part) (w : List Instr),
    p.takes 0x30 h = true → p.quiet = true → p.tst.latent = [] → validFreq c.band c.freq = true →
    claimantOf z = some a → (p.zone z).state ≠ .off → p.pwc.mode = .active →
    let run := exec (.tune h (zoneCode z) (bandCode c.band + 1) 0 c.freq) ⟨p, w⟩
    (p.holding a = none → p.arbitrate a c none true = none → run = .next ⟨answered 0x30 h .tunerBusy [] p, w⟩)
    ∧ (p.playsOn t = true → (p.tuner t.other).state = .idle → (p.tuner t.other).claims = [] →
        (p.tuner t.other).note = none → (p.tuner t.other).seek = none →
        (p.holding a = none → (p.tuner t).chan = some c → (p.tuner t).listened = true →
          (∀ k ∈ (p.tuner t).claims, k.who ≠ a) →
          ∃ q, run = .next ⟨answered 0x30 h .ok [] q, w⟩
            ∧ q.tuner t = { p.tuner t with claims := (q.tuner t).claims } ∧ ⟨a, false⟩ ∈ (q.tuner t).claims
            ∧ (∀ k ∈ (p.tuner t).claims, k ∈ (q.tuner t).claims) ∧ q.tuner t.other = p.tuner t.other
            ∧ q.tuc.link = p.tuc.link ∧ q.tuc.queue = p.tuc.queue
            ∧ (q.zone z).state = .pending ∧ (q.zone z).source = .radio ∧ (q.zone z).chan = some c
            ∧ (q.zone z).att = some t ∧ q.nfu = p.nfu.post .tuneDone (zoneCode z) (some c.freq) ∧ q.tst = p.tst)
        ∧ ((p.tuner t).claims = [⟨a, false⟩] → (p.tuner t).chan ≠ some c → p.hasAddress t = true →
          ∃ q, run = .next ⟨answered 0x30 h .ok [] q, w⟩
            ∧ (q.tuner t).state = .tuning ∧ (q.tuner t).chan = some c ∧ (q.tuner t).claims = [⟨a, false⟩]
            ∧ (q.tuner t).note = some z ∧ (q.tuner t).s = 800 ∧ q.tuner t.other = p.tuner t.other
            ∧ (t, LinkCmd.tune c) ∈ q.tuc.link.toList ++ q.tuc.queue
            ∧ (q.zone z).state = .pending ∧ (q.zone z).source = .radio ∧ (q.zone z).chan = some c
            ∧ (q.zone z).att = some t ∧ q.nfu = p.nfu ∧ q.tst = p.tst))

/-- R73, R74: SEEK sets the zone's tuner on the next channel in its direction, wrapping at the ends of the band,
TUNING, with the zone PENDING; a step whose three reports do not come is followed by the next one; the refusals,
TUNER_BUSY among them, STATE before POWER by the model's choice (log entry 86). A report after the tune is scored; the third judges the step: at or above seek_threshold the
seek ends on that channel, below it goes on. Where the step that came back to the start frequency completes, by a
settled report or its settle timeout, the seek ends there with no value. At its end the tuner plays the channel, the
zone holds it with its station, the model's reading (log entry 26), and SEEK_DONE is posted. Before the step's tune
has completed SEEK_JUDGE_TIMEOUT changes nothing, the model's choice (log entry 10). -/
def Obligations.SeekStepsThroughTheBand : Prop :=
  (∀ (h : ReqHeader) (z : ZoneId) (up : Bool) (p : Part) (w : List Instr), p.takes 0x31 h = true → p.quiet = true →
    let run := exec (.seek h (zoneCode z) (if up then 0 else 1)) ⟨p, w⟩
    let refused := fun r => Host.Outcome.next (⟨answered 0x31 h r [] p, w⟩ : State)
    (z.ownSource = false → run = refused .zoneRole)
    ∧ (z.ownSource = true → ((p.zone z).chan = none ∨ (p.zone z).state = .off ∨ (p.zone z).source ≠ .radio) →
        run = refused .state)
    ∧ (∀ c, (p.zone z).chan = some c → z.ownSource = true → (p.zone z).state ≠ .off → (p.zone z).source = .radio →
        p.pwc.mode ≠ .active → run = refused .power)
    ∧ (∀ (a : Claimant) (c : Chan), claimantOf z = some a → (p.zone z).chan = some c → (p.zone z).state ≠ .off →
        (p.zone z).source = .radio → p.pwc.mode = .active → p.holding a = none → p.arbitrate a c none false = none →
        run = refused .tunerBusy)
    ∧ (∀ n, 2 ≤ n → exec (.seek h (zoneCode z) n) ⟨p, w⟩ = refused .badValue)
    ∧ (∀ (a : Claimant) (t : TunerId) (c : Chan), claimantOf z = some a → (p.zone z).chan = some c →
        (p.zone z).state ≠ .off → (p.zone z).source = .radio → p.pwc.mode = .active → p.playsOn t = true →
        (p.tuner t).claims = [⟨a, false⟩] → (∀ k ∈ (p.tuner t.other).claims, k.who ≠ a) → p.hasAddress t = true →
        ∃ q, run = .next ⟨answered 0x31 h .ok [] q, w⟩
          ∧ (q.tuner t).state = .tuning ∧ (q.tuner t).chan = some ⟨c.band, nextFreq c.band up c.freq⟩
          ∧ (q.tuner t).claims = [⟨a, false⟩]
          ∧ (q.tuner t).seek = some { zone := z, up := up, start := c.freq, reports := 0
                                      returning := nextFreq c.band up c.freq == c.freq }
          ∧ (t, LinkCmd.tune ⟨c.band, nextFreq c.band up c.freq⟩) ∈ q.tuc.link.toList ++ q.tuc.queue
          ∧ (q.zone z).state = .pending ∧ (q.zone z).chan = some c ∧ q.nfu = p.nfu ∧ q.tst = p.tst))
  ∧ (∀ (t : TunerId) (k : Seek) (c : Chan) (p : Part) (w : List Instr), p.running = true → p.quiet = true →
      (p.tuner t).seek = some k → (p.tuner t).chan = some c → k.returning = false →
      ((p.tuner t).done = false → exec (.seekJudgeTimeout t) ⟨p, w⟩ = .next ⟨p, w⟩)
      ∧ ((p.tuner t).done = true → p.hasAddress t = true → (p.tuner t).state = .tuning → (p.tuner t).retry = none →
          ∃ q, exec (.seekJudgeTimeout t) ⟨p, w⟩ = .next ⟨q, w⟩
            ∧ (q.tuner t).state = .tuning ∧ (q.tuner t).chan = some ⟨c.band, nextFreq c.band k.up c.freq⟩
            ∧ (q.tuner t).seek = some { k with reports := 0, returning := nextFreq c.band k.up c.freq == k.start }
            ∧ (t, LinkCmd.tune ⟨c.band, nextFreq c.band k.up c.freq⟩) ∈ q.tuc.link.toList ++ q.tuc.queue
            ∧ q = { p with tuc := q.tuc, stm := { p.stm with labels := q.stm.labels } }))
  ∧ (∀ (t : TunerId) (k : Seek) (c : Chan) (p : Part) (w : List Instr), p.still = true → p.tst.latent = [] →
       (p.tuner t).seek = some k → (p.tuner t).chan = some c → (p.tuner t).state = .tuning →
       (p.radioCfg.afEnable = false ∨ (p.tuner t).heard = none) →
       let ended := fun (run : Host.Outcome State Fault Refusal) (value : Option Nat) =>
         ∃ q, run = .next ⟨q, w⟩ ∧ (q.tuner t).state = .playing ∧ (q.tuner t).seek = none ∧ (q.tuner t).done = true
           ∧ (q.tuner t).chan = some c ∧ (q.tuner t).claims = (p.tuner t).claims
           ∧ (∀ z, q.zone z = if z = k.zone then { p.zone z with
               chan := some c, station := p.holderOf c
               code := ((p.holderOf c).bind p.station).map Station.code } else p.zone z)
           ∧ q.nfu = p.nfu.post .seekDone (zoneCode k.zone) value
           ∧ q = { p with tuc := q.tuc, zmx := q.zmx, nfu := q.nfu, rlu := q.rlu }
       (∀ fs mp adj settled pilot, (p.tuner t).acked = true → (p.tuner t).done = true → k.returning = false →
         let run := exec (.qualityReport t fs mp adj settled pilot) ⟨p, w⟩
         let score := max 0 (min 100 (2 * ((fs : Int) - p.radioCfg.fsFloor) - (mp : Int) / 8 - (adj : Int) / 16))
         let s := (p.tuner t).s - (p.tuner t).s / 8 + 2 * score.toNat
         (k.reports < 2 → ∃ q, run = .next ⟨q, w⟩ ∧ (q.tuner t).seek = some { k with reports := k.reports + 1 }
           ∧ (q.tuner t).state = .tuning ∧ (q.tuner t).chan = some c ∧ (q.tuner t).s = s ∧ q = { p with tuc := q.tuc })
         ∧ (k.reports = 2 → p.radioCfg.seekThreshold ≤ s / 16 → ended run (some c.freq))
         ∧ (k.reports = 2 → s / 16 < p.radioCfg.seekThreshold → p.hasAddress t = true → (p.tuner t).retry = none →
             ∃ q, run = .next ⟨q, w⟩
               ∧ (q.tuner t).state = .tuning ∧ (q.tuner t).chan = some ⟨c.band, nextFreq c.band k.up c.freq⟩
               ∧ (q.tuner t).seek = some { k with reports := 0, returning := nextFreq c.band k.up c.freq == k.start }
               ∧ (t, LinkCmd.tune ⟨c.band, nextFreq c.band k.up c.freq⟩) ∈ q.tuc.link.toList ++ q.tuc.queue
               ∧ q = { p with tuc := q.tuc, stm := { p.stm with labels := q.stm.labels } }))
       ∧ ((p.tuner t).done = false → k.returning = true →
           (∀ fs mp adj pilot, (p.tuner t).acked = true →
             ended (exec (.qualityReport t fs mp adj true pilot) ⟨p, w⟩) none)
           ∧ (p.running = true → (p.tuner t).settle = true → ended (exec (.settleTimeout t) ⟨p, w⟩) none)))
  ∧ ∀ (b : Band) (f : Nat), validFreq b f = true →
      validFreq b (nextFreq b true f) = true ∧ validFreq b (nextFreq b false f) = true
        ∧ nextFreq b false (nextFreq b true f) = f
        ∧ nextFreq b true (bandTop b) = bandBottom b ∧ nextFreq b false (bandBottom b) = bandTop b

/-- R87: SCAN takes a tuner at the bottom of the band; a step whose reports do not come and a dwell that runs out move
it on by a channel, and above the top the scan ends with SCAN_DONE and the found count; SCAN_STOP ends it aborted; the
refusals, TUNER_BUSY among them. -/
def Obligations.ScanMovesUpTheBand : Prop :=
  (∀ (h : ReqHeader) (p : Part) (w : List Instr), p.takes 0x32 h = true → p.quiet = true →
    (∀ n, 2 ≤ n → exec (.scan h n) ⟨p, w⟩ = .next ⟨answered 0x32 h .badValue [] p, w⟩)
    ∧ ∀ b : Band,
        (p.pwc.mode ≠ .active → exec (.scan h (bandCode b)) ⟨p, w⟩ = .next ⟨answered 0x32 h .power [] p, w⟩)
        ∧ (p.pwc.mode = .active → p.stm.scan ≠ none →
            exec (.scan h (bandCode b)) ⟨p, w⟩ = .next ⟨answered 0x32 h .busy [] p, w⟩)
        ∧ (p.pwc.mode = .active → p.stm.scan = none → p.arbitrate .scan ⟨b, bandBottom b⟩ none false = none →
            exec (.scan h (bandCode b)) ⟨p, w⟩ = .next ⟨answered 0x32 h .tunerBusy [] p, w⟩)
        ∧ (∀ t, p.pwc.mode = .active → p.stm.scan = none → p.tunersFree = true → p.hasAddress t = true →
            (t = .b → p.hasAddress .a = false) →
            ∃ q, exec (.scan h (bandCode b)) ⟨p, w⟩ = .next ⟨answered 0x32 h .ok [] q, w⟩
              ∧ q.stm.scan = some { band := b, tuner := t } ∧ (q.tuner t).claims = [⟨.scan, false⟩]
              ∧ (q.tuner t).state = .tuning ∧ (q.tuner t).chan = some ⟨b, bandBottom b⟩
              ∧ q.tuner t.other = p.tuner t.other ∧ q = { p with tuc := q.tuc, stm := q.stm }))
  ∧ (∀ (h : ReqHeader) (s : Scan) (p : Part) (w : List Instr), p.takes 0x33 h = true → p.quiet = true →
      (p.stm.scan = none → exec (.scanStop h) ⟨p, w⟩ = .next ⟨answered 0x33 h .state [] p, w⟩)
      ∧ (p.stm.scan = some s → (p.tuner s.tuner).claims = [⟨.scan, false⟩] → (p.tuner s.tuner).state = .playing →
          p.switching s.tuner = false → p.switching s.tuner.other = false →
          (p.tuner s.tuner.other).claims = [] → (p.tuner s.tuner.other).state = .idle →
          ∃ q, exec (.scanStop h) ⟨p, w⟩ = .next ⟨answered 0x33 h .ok [] q, w⟩
            ∧ q.stm.scan = none ∧ (q.tuner s.tuner).state = .idle ∧ (q.tuner s.tuner).claims = []
            ∧ q.nfu = p.nfu.post .scanDone (bandCode s.band) (some (256 + s.found))
            ∧ q = { p with tuc := q.tuc, stm := q.stm, nfu := q.nfu }))
  ∧ ∀ (s : Scan) (c : Chan) (cmd : Instr) (p : Part) (w : List Instr), p.running = true → p.quiet = true →
      p.tst.latent = [] → p.stm.scan = some s → (p.tuner s.tuner).chan = some c → (p.tuner s.tuner).state ≠ .fault →
      (p.tuner s.tuner).retry = none →
      (cmd = .scanJudgeTimeout ∧ (p.tuner s.tuner).done = true ∧ s.dwelling = false
        ∨ cmd = .scanDwellTimeout ∧ s.dwelling = true) →
      (c.freq + bandStep s.band ≤ bandTop s.band → p.hasAddress s.tuner = true →
        ∃ q, exec cmd ⟨p, w⟩ = .next ⟨q, w⟩
          ∧ q.stm.scan = some { s with reports := 0, dwelling := false }
          ∧ (q.tuner s.tuner).chan = some ⟨s.band, c.freq + bandStep s.band⟩ ∧ (q.tuner s.tuner).state = .tuning
          ∧ (q.tuner s.tuner).claims = (p.tuner s.tuner).claims
          ∧ (s.tuner, LinkCmd.tune ⟨s.band, c.freq + bandStep s.band⟩) ∈ q.tuc.link.toList ++ q.tuc.queue
          ∧ q = { p with tuc := q.tuc, stm := q.stm })
      ∧ (bandTop s.band < c.freq + bandStep s.band →
          ∃ q, exec cmd ⟨p, w⟩ = .next ⟨q, w⟩ ∧ q.stm.scan = none
            ∧ (∀ t, ∀ k ∈ (q.tuner t).claims, k.who ≠ .scan)
            ∧ q.nfu = p.nfu.post .scanDone (bandCode s.band) (some s.found))

/-- R60 to R63, and R61 whole: an applied quality report of a tuner that plays gives its scores. Every applied report
smooths S, also in a tune, a seek, a scan and a check, up to the report at which these judge; so does the forced step
of a settle timeout. S stays in 0 to 1607, so that Qs stays in 0 to 100, and with a steady Q about seven eighths of
the distance are left; a tune start sets S to 800; TUNER_STATE returns Q, S and Qs. A report is disregarded in IDLE,
in FAULT and before the acknowledge. -/
def Obligations.QualityReportsAreScoredAndSmoothed : Prop :=
  (∀ (t : TunerId) (fs mp adj : Nat) (settled pilot : Bool) (p : Part) (w : List Instr), p.calm = true →
    p.tst.latent = [] → p.playsOn t = true → (p.follow t.other).lowTimer = false →
    ∃ q, exec (.qualityReport t fs mp adj settled pilot) ⟨p, w⟩ = .next ⟨q, w⟩
      ∧ (let cfg := p.radioCfg
         let score := max 0 (min 100 (2 * ((fs : Int) - cfg.fsFloor) - (mp : Int) / 8 - (adj : Int) / 16))
         let s := (p.tuner t).s - (p.tuner t).s / 8 + 2 * score.toNat
         q.tuner t = { p.tuner t with
            q := score.toNat, s := s, pilot := pilot
            sep := if pilot = false ∨ s / 16 ≤ cfg.blendLo then 0 else if cfg.blendHi ≤ s / 16 then 100
              else (s / 16 - cfg.blendLo) * 100 / (cfg.blendHi - cfg.blendLo)
            softMute := if cfg.muteHi ≤ s / 16 then 0 else min cfg.muteMax ((cfg.muteHi - s / 16) * cfg.muteSlope)
            scoring := (q.tuner t).scoring }
          ∧ (q.follow t).lowTimer = (p.eligible t && decide (s / 16 < cfg.afThreshold)))
      ∧ q = { p with tuc := { p.tuc with tuners := p.tuc.tuners.set t (q.tuner t) }, stm := q.stm })
  ∧ (∀ (t : TunerId) (fs mp adj : Nat) (settled pilot : Bool) (p : Part) (w : List Instr), p.calm = true →
      p.tst.latent = [] → (p.follow t.other).lowTimer = false →
      ((p.tuner t).state = .tuning ∨ (p.tuner t).state = .playing ∨ (p.tuner t).state = .checking) →
      (p.tuner t).acked = true →
      (∀ k, (p.tuner t).seek = some k → k.reports < 2) → (∀ x, p.stm.scan = some x → x.reports < 2) →
      (p.follow t).reports < 4 →
      ∃ q, exec (.qualityReport t fs mp adj settled pilot) ⟨p, w⟩ = .next ⟨q, w⟩
        ∧ (q.tuner t).q = (max 0 (min 100 (2 * ((fs : Int) - p.radioCfg.fsFloor) - (mp : Int) / 8
            - (adj : Int) / 16))).toNat
        ∧ (q.tuner t).s = (p.tuner t).s - (p.tuner t).s / 8 + 2 * (q.tuner t).q)
  ∧ (∀ (t : TunerId) (fs mp adj : Nat) (settled pilot : Bool) (p : Part) (w : List Instr), p.quiet = true →
      ((p.tuner t).state = .idle ∨ (p.tuner t).state = .fault ∨ (p.tuner t).acked = false) →
      exec (.qualityReport t fs mp adj settled pilot) ⟨p, w⟩ = .next ⟨p, w⟩)
  ∧ (∀ (t : TunerId) (p : Part) (w : List Instr), p.calm = true → p.tst.latent = [] → p.running = true →
      (p.tuner t).settle = true → ∃ q, exec (.settleTimeout t) ⟨p, w⟩ = .next ⟨q, w⟩
        ∧ (q.tuner t).q = 0 ∧ (q.tuner t).s = (p.tuner t).s - (p.tuner t).s / 8)
  ∧ (∀ s q : Nat, s ≤ 1607 → q ≤ 100 → smooth s q ≤ 1607 ∧ smooth s q / 16 ≤ 100)
  ∧ smooth 1607 100 = 1607
  ∧ (∀ s q : Nat, 0 ≤ 8 * ((smooth s q : Int) - 16 * q) - 7 * ((s : Int) - 16 * q)
      ∧ 8 * ((smooth s q : Int) - 16 * q) - 7 * ((s : Int) - 16 * q) < 8)
  ∧ (∀ (t : TunerId) (c : Chan) (note : Option ZoneId) (b : Bool) (p : Part),
      ((tuneStart t c note b p).tuner t).s = 800 ∧ ((tuneStart t c note b p).tuner t).qs = 50)
  ∧ ∀ (t : TunerId) (p : Part), (entryFields p 14 (tunerCode t)).bind (fun fs => fs[3]?)
      = some (byte1 (p.tuner t).q ++ byte2 (p.tuner t).s ++ byte1 ((p.tuner t).s / 16))

/-- R59: a tune completes at the first report flagged SETTLED after its acknowledge, or at the settle timeout with one
smoothing step of Q 0, the pilot flag cleared and the timeout counted: the tuner is PLAYING and TUNE_DONE is posted
for the zone that the tune is noted for. A settle timeout without its timer changes nothing, the model's choice (log
entry 10). R57: a report takes the fields of RADIO_CFG into force. The timeout is none: its soft mute is by those in
force, which a write or a clear leaves. That each tuner holds them is the model's reading (log entry 68). R55, R56:
the acknowledge of a TUNE frees the link and starts the settle timer; the first missing acknowledge counts and has the
tuner wait to resend, the newer command if one waits (log entry 39); the wait's end issues it again. On a free link,
and without a retry, the events change nothing, the model's choice (log entry 10). -/
def Obligations.TunesAreAckedAndComplete : Prop :=
  (∀ (t : TunerId) (z : ZoneId) (c : Chan) (fs mp adj : Nat) (pilot : Bool) (p : Part) (w : List Instr),
     p.quiet = true → p.tst.latent = [] → p.running = true → (p.tuner t).state = .tuning → (p.tuner t).done = false →
     (p.tuner t).seek = none → (p.tuner t).note = some z → (p.tuner t).chan = some c →
     p.radioCfg.afEnable = false →
     ((p.tuner t).acked = true →
       ∃ q, exec (.qualityReport t fs mp adj true pilot) ⟨p, w⟩ = .next ⟨q, w⟩
         ∧ (q.tuner t).state = .playing ∧ (q.tuner t).done = true ∧ (q.tuner t).settle = false
         ∧ (q.tuner t).note = none ∧ (q.tuner t).chan = some c ∧ (q.tuner t).claims = (p.tuner t).claims
         ∧ (let cfg := p.radioCfg
            (q.tuner t).scoring = ⟨cfg.blendLo, cfg.blendHi, cfg.muteHi, cfg.muteSlope, cfg.muteMax⟩)
         ∧ q.nfu = p.nfu.post .tuneDone (zoneCode z) (some c.freq)
         ∧ q = { p with tuc := q.tuc, nfu := q.nfu })
     ∧ ((p.tuner t).settle = true →
       ∃ q, exec (.settleTimeout t) ⟨p, w⟩ = .next ⟨q, w⟩
         ∧ (q.tuner t).state = .playing ∧ (q.tuner t).done = true ∧ (q.tuner t).settle = false
         ∧ (q.tuner t).note = none ∧ (q.tuner t).q = 0 ∧ (q.tuner t).s = (p.tuner t).s - (p.tuner t).s / 8
         ∧ (q.tuner t).pilot = false ∧ (q.tuner t).sep = 0
         ∧ (let cfg := p.scoring t
            let qs := (q.tuner t).s / 16
            (q.tuner t).softMute = if cfg.muteHi ≤ qs then 0 else min cfg.muteMax ((cfg.muteHi - qs) * cfg.muteSlope))
         ∧ (q.tuner t).settleTimeouts = min 65535 ((p.tuner t).settleTimeouts + 1)
         ∧ q.nfu = p.nfu.post .tuneDone (zoneCode z) (some c.freq)
         ∧ q = { p with tuc := q.tuc, nfu := q.nfu })
     ∧ ((p.tuner t).settle = false → exec (.settleTimeout t) ⟨p, w⟩ = .next ⟨p, w⟩)
     ∧ (∀ (h : ReqHeader) (mask : Nat) (values : List Byte),
         (∃ q, exec (.tableWrite h 9 0 mask values) ⟨p, w⟩ = .next ⟨q, w⟩ ∧ ∀ u, q.scoring u = p.scoring u)
         ∧ ∃ q, exec (.tableClear h 9) ⟨p, w⟩ = .next ⟨q, w⟩ ∧ ∀ u, q.scoring u = p.scoring u))
  ∧ ∀ (t : TunerId) (c : Chan) (cmd : LinkCmd) (p : Part) (w : List Instr),
      (p.tuc.link = none → exec .linkAck ⟨p, w⟩ = .next ⟨p, w⟩)
      ∧ (p.tuc.link = some (t, .tune c) → p.tuc.queue = [] → (p.tuner t).working = true → (p.tuner t).chan = some c →
          (p.tuner t).done = false →
          exec .linkAck ⟨p, w⟩ = .next ⟨{ p with tuc := { p.tuc with
            link := none
            tuners := p.tuc.tuners.set t { p.tuner t with missed := 0, acked := true, settle := true } } }, w⟩)
      ∧ (p.tuc.link = some (t, cmd) → p.tuc.queue = [] → p.quiet = true → (p.tuner t).missed = 0 →
          exec .linkNoAck ⟨p, w⟩ = .next ⟨{ p with tuc := { p.tuc with
            link := none
            tuners := p.tuc.tuners.set t { p.tuner t with
              missed := 1, missedAcks := min 65535 ((p.tuner t).missedAcks + 1), retry := some cmd } } }, w⟩)
      ∧ (∀ new, p.tuc.link = some (t, cmd) → p.tuc.queue = [(t, new)] → p.quiet = true → (p.tuner t).missed = 0 →
          exec .linkNoAck ⟨p, w⟩ = .next ⟨{ p with tuc := { p.tuc with
            link := none, queue := []
            tuners := p.tuc.tuners.set t { p.tuner t with
              missed := 1, missedAcks := min 65535 ((p.tuner t).missedAcks + 1), retry := some new } } }, w⟩)
      ∧ ((p.tuner t).retry = some cmd → p.running = true → p.hasAddress t = true → (p.tuner t).state ≠ .fault →
          p.tuc.link = none → p.tuc.queue = [] →
          exec (.ackRetryWaitExpiry t) ⟨p, w⟩ = .next ⟨{ p with tuc := { p.tuc with
            link := some (t, cmd), tuners := p.tuc.tuners.set t { p.tuner t with retry := none } } }, w⟩)
      ∧ ((p.tuner t).retry = none → exec (.ackRetryWaitExpiry t) ⟨p, w⟩ = .next ⟨p, w⟩)

/-- R64, R66: a sample of a tuner that has completed its tune joins its adapter's FIFO, and the adapter is primed when
128 are held; a full FIFO discards it, counted as an overflow and reported as a slip. R65: at a render block a primed
adapter moves its trim by twice the fill's distance from 128, within −8192 to 8192. Nothing else changes. At a frame a
primed adapter gives the pair that stands between its two oldest samples at its phase, which moves on by 2^24 and the
trim, a sample leaving the FIFO for each 2^24; with fewer than two samples it repeats its last pair, counts an
underflow and reports a slip (R65, R66); one that is not primed stays as it is. That tuner A's slip is reported before
B's in one frame is the model's choice (log entry 74). -/
def Obligations.AdaptersFillAndTrim : Prop :=
  (∀ (f : Frame) (mics : List Sample) (p : Part) (w : List Instr),
    p.rif.addressValid = true → p.rif.joined = true → p.pwc.mode ≠ .dormant → p.tst.latent = [] →
    f.occupied = false → p.rif.rx = [] → p.rif.tx = none →
    ∃ q, exec (.validFrame f mics) ⟨p, w⟩ = .next ⟨q, w⟩
      ∧ (∀ t, let a := (p.tuner t).adapter
        (a.primed = false → q.tuner t = p.tuner t)
        ∧ (a.primed = true → a.fifo.length < 2 →
            q.tuner t = { p.tuner t with underflows := min 65535 ((p.tuner t).underflows + 1) })
        ∧ (a.primed = true → 2 ≤ a.fifo.length →
            let s0 := a.fifo.getD 0 (0, 0)
            let s1 := a.fifo.getD 1 (0, 0)
            let between := fun x y : Int => x + ((y - x) * (a.phase : Int) + 8388608) / 16777216
            let next := ((a.phase : Int) + 16777216 + a.trim).toNat
            q.tuner t = { p.tuner t with adapter := { a with
              last := (between s0.1 s1.1, between s0.2 s1.2), phase := next % 16777216
              fifo := a.fifo.drop (next / 16777216) } }))
      ∧ q.tuc = { p.tuc with tuners := q.tuc.tuners }
      ∧ q.nfu = ([TunerId.a, .b].filter fun t => (p.tuner t).adapter.primed && (p.tuner t).adapter.fifo.length < 2).foldl
          (fun n t => n.fault .slip (some (tunerCode t)) none p.rif.ringTime) p.nfu)
  ∧ ∀ (t : TunerId) (l r : Sample) (p : Part) (w : List Instr),
    let u := p.tuner t
    (u.state = .idle ∨ u.state = .fault ∨ u.done = false →
      exec (.tunerAudioSample t l r) ⟨p, w⟩ = .next ⟨p, w⟩)
    ∧ ((u.state = .playing ∨ u.state = .tuning ∨ u.state = .checking) → u.done = true →
        (u.adapter.fifo.length < 256 →
          exec (.tunerAudioSample t l r) ⟨p, w⟩ = .next ⟨p.setTuner t { u with adapter := { u.adapter with
            fifo := u.adapter.fifo ++ [(l, r)]
            primed := u.adapter.primed || decide (128 ≤ u.adapter.fifo.length + 1) } }, w⟩)
        ∧ (256 ≤ u.adapter.fifo.length →
          exec (.tunerAudioSample t l r) ⟨p, w⟩ = .next ⟨{ p.setTuner t { u with
            overflows := min 65535 (u.overflows + 1) } with
            nfu := p.nfu.fault .slip (some (tunerCode t)) none p.rif.ringTime }, w⟩))
    ∧ (p.running = true → u.adapter.primed = true →
        exec (.adapterTrimAdjust t) ⟨p, w⟩ = .next ⟨p.setTuner t { u with adapter := { u.adapter with
          trim := max (-8192) (min 8192 (u.adapter.trim + ((u.adapter.fifo.length : Int) - 128) * 2)) } }, w⟩)
    ∧ ((p.running = false ∨ u.adapter.primed = false) → exec (.adapterTrimAdjust t) ⟨p, w⟩ = .next ⟨p, w⟩)

/-- R56, R66: at the second missing acknowledge the tuner enters FAULT: its claims are withdrawn and its zones
detached, its pending command is discarded, its adapter emptied, TUNER_FAULT is posted and the fault is reported. -/
def Obligations.SecondMissingAckIsATunerFault : Prop :=
  ∀ (t : TunerId) (cmd : LinkCmd) (p : Part) (w : List Instr), p.quiet = true → p.tuc.link = some (t, cmd) →
    (p.tuner t).missed = 1 → p.switching t = false → p.switching t.other = false →
    ∃ q, exec .linkNoAck ⟨p, w⟩ = .next ⟨q, w⟩
      ∧ (q.tuner t).state = .fault ∧ (q.tuner t).claims = [] ∧ (q.tuner t).missed = 2
      ∧ (q.tuner t).missedAcks = min 65535 ((p.tuner t).missedAcks + 1)
      ∧ (q.tuner t).adapter = { trim := (p.tuner t).adapter.trim } ∧ (q.tuner t).retry = none
      ∧ (∀ x ∈ q.tuc.link.toList ++ q.tuc.queue, x.1 ≠ t) ∧ q.tuner t.other = p.tuner t.other
      ∧ (∀ z a, claimantOf z = some a → ⟨a, false⟩ ∈ (p.tuner t).claims → (q.zone z).att = none)
      ∧ q.nfu = (p.nfu.post .tunerFault (tunerCode t) none).fault .tuner (some (tunerCode t)) none p.rif.ringTime
      ∧ q.tst = p.tst ∧ q.rmx = p.rmx ∧ q.anu = p.anu ∧ q.clp = p.clp ∧ q.pwc = p.pwc

/-! ### Stations -/

/-- R83, R164: a full write of STATIONS is refused with BAD_VALUE where a field lies outside its range or the entry
would have no code or no frequency, then with DUPLICATE where its code, a frequency or its favourite number stands
elsewhere, then with STATE where it takes the frequency that a listening zone's tuner plays from the entry the zone
names. Taken, it creates or replaces the entry: an item kept keeps its quality and time, a new one has none; marks and
origin stay; zones that reference the entry take a new code; the watch is cleared where the write clears the capable
flag. A write that frees the index is refused with STATE where a listening zone references it; else the entry goes,
its mark stays, and zones, watch and bulletin record lose it. That only a flag that goes from set to clear ends the
watch is the model's reading (log entry 24); that the tuner's frequency counts where the entry held it, and that a
tuner in a check plays the candidate, is the model's choice (log entries 71, 62). R85: a tuner that plays for a
listening, BULLETIN or WATCH claim of its own stores its quality and the ring time into the item of its frequency, in
the entry that holds it, without setting the mark; with no such entry, and in any other state, nothing is stored. That
provisional copies alone store nothing is the model's choice (log entry 47). No table error waits unfound (log entry
14). -/
def Obligations.StationsAreWrittenRemovedAndStored : Prop :=
  (∀ (h : ReqHeader) (i : Nat) (e : Station) (p : Part) (w : List Instr), p.takes 0x11 h = true → p.still = true →
       p.tst.latent = [] → i < 48 → p.tst.stations.length = 48 →
       e.code < 65536 → e.items.length ≤ 12 → (∀ it ∈ e.items, it.freq < 65536) →
       (∀ n, e.favourite = some n → 1 ≤ n ∧ n < 256) →
       (∀ l, e.label = some l → l.length = 8 ∧ ∀ b ∈ l, 0x20 ≤ b.toNat ∧ b.toNat ≤ 0x7E) →
       let run := exec (.tableWrite h 8 i 255 (stationFields e false).flatten) ⟨p, w⟩
       let refused := fun r => Host.Outcome.next (⟨answered 0x11 h r [] p, w⟩ : State)
       let valid := 1 ≤ e.code ∧ e.items ≠ [] ∧ (∀ it ∈ e.items, validFreq e.band it.freq = true)
         ∧ ∀ n, e.favourite = some n → n ≤ 12
       let unique := (e.items.map Item.freq).Nodup ∧ ∀ j o, j ≠ i → p.station j = some o →
         o.code ≠ e.code ∧ (e.favourite = none ∨ o.favourite ≠ e.favourite)
           ∧ ∀ it ∈ e.items, o.holds ⟨e.band, it.freq⟩ = false
       let kept := ∀ o z t c, p.station i = some o → p.refersTo z i = true → p.zoneTuner z = some t →
         (p.tuner t).chan = some c → o.holds c = true → e.holds c = true
       (¬ valid → run = refused .badValue)
       ∧ (valid → ¬ unique → run = refused .duplicate)
       ∧ (valid → unique → ¬ kept → run = refused .state)
       ∧ (valid → unique → kept → ∃ q its, run = .next ⟨answered 0x11 h .ok [] q, w⟩
           ∧ q.station i = some { e with items := its, learned := (p.station i).any Station.learned }
           ∧ its.map Item.freq = e.items.map Item.freq
           ∧ (∀ it ∈ its, (∃ o, p.station i = some o ∧ it ∈ o.items)
               ∨ (it = { freq := it.freq } ∧ ∀ o, p.station i = some o → ∀ x ∈ o.items, x.freq ≠ it.freq))
           ∧ q.tst.stations.map StationSlot.mark = p.tst.stations.map StationSlot.mark
           ∧ (∀ j, j ≠ i → q.station j = p.station j) ∧ q.entryPoisoned 8 i = false
           ∧ (∀ z, q.zone z = if p.refersTo z i = true ∧ (p.station i).any (fun o => o.code != e.code) = true
               then { p.zone z with code := some e.code } else p.zone z)
           ∧ q.stm.watch = (if p.stm.watch = some i ∧ (p.station i).any Station.capable = true ∧ e.capable = false
               then none else p.stm.watch)
           ∧ q = { p with tst := q.tst, zmx := q.zmx, stm := q.stm, tuc := q.tuc, rlu := q.rlu }))
  ∧ (∀ (h : ReqHeader) (i : Nat) (o : Station) (p : Part) (w : List Instr), p.takes 0x11 h = true → p.still = true →
         p.tst.latent = [] → i < 48 → p.station i = some o → p.entryPoisoned 8 i = false →
         let run := exec (.tableWrite h 8 i 1 (byte1 0)) ⟨p, w⟩
         (∀ z, p.refersTo z i = true → run = .next ⟨answered 0x11 h .state [] p, w⟩)
         ∧ ((∀ z, p.refersTo z i = false) → ∃ q, run = .next ⟨answered 0x11 h .ok [] q, w⟩
             ∧ q.station i = none ∧ (∀ j, j ≠ i → q.station j = p.station j)
             ∧ q.tst.stations.map StationSlot.mark = p.tst.stations.map StationSlot.mark
             ∧ (∀ z, (q.zone z) = if (p.zone z).station = some i then { p.zone z with station := none } else p.zone z)
             ∧ q.stm.watch = (if p.stm.watch = some i then none else p.stm.watch)
             ∧ q.stm.bulletin
               = { p.stm.bulletin with station := p.stm.bulletin.station.filter fun j => j != i }
             ∧ q = { p with tst := q.tst, zmx := q.zmx, stm := q.stm, tuc := q.tuc, rlu := q.rlu }))
  ∧ ∀ (t : TunerId) (c : Chan) (p : Part) (w : List Instr), p.running = true → p.tst.latent = [] →
    (p.tuner t).chan = some c →
    ((p.tuner t).state ≠ .playing ∨ (p.tuner t).done = false ∨ p.holderOf c = none
        ∨ (∀ k ∈ (p.tuner t).claims, k.prov = true) →
      exec (.qualityStore t) ⟨p, w⟩ = .next ⟨p, w⟩)
    ∧ (∀ i e, (p.tuner t).state = .playing → (p.tuner t).done = true →
        (∃ k ∈ (p.tuner t).claims, k.prov = false ∧ (k.who.listens = true ∨ k.who = .bulletin ∨ k.who = .watch)) →
        p.holderOf c = some i → p.station i = some e →
        ∃ q, exec (.qualityStore t) ⟨p, w⟩ = .next ⟨q, w⟩
          ∧ q.station i = some { e with items := e.items.map fun it =>
              if it.freq = c.freq then { it with quality := some (p.tuner t).qs, heard := some p.rif.ringTime } else it }
          ∧ (∀ j, j ≠ i → q.tst.stations[j]? = p.tst.stations[j]?)
          ∧ (∀ j, (q.tst.stations.getD j {}).mark = (p.tst.stations.getD j {}).mark)
          ∧ q = { p with tst := { p.tst with stations := q.tst.stations } })

/-- R86: at the end of a background dwell the tuner's quality is stored and the tuner goes to the next visit of the
cycle. The cycle position stands at the visit being made, the model's choice (log entry 21). -/
def Obligations.BackgroundCycleGoesOn : Prop :=
  ∀ (t : TunerId) (c : Chan) (v : Nat × Nat × Chan) (p : Part) (w : List Instr), p.running = true →
    p.tst.latent = [] → p.pwc.mode = .active → p.radioCfg.background = true → p.stm.watch = none → p.stm.watchState = .inactive →
    p.stm.bulletin.latch = .none → p.holding .watch = none → (p.follow .a).lowTimer = false →
    (p.follow .b).lowTimer = false → (p.tuner t).claims = [⟨.background, false⟩] →
    (∀ k ∈ (p.tuner t.other).claims, k.who ≠ .background) → (p.tuner t).state = .playing → (p.tuner t).done = true →
    (p.tuner t).retry = none → (p.tuner t).chan = some c → p.hasAddress t = true →
    nextVisit t.other { p with stm := { p.stm with bgItem := p.stm.bgItem + 1 } } = some v →
    ∃ q, exec .backgroundDwellEnd ⟨p, w⟩ = .next ⟨q, w⟩
      ∧ q.stm = { p.stm with bgIndex := v.1, bgItem := v.2.1, labels := q.stm.labels }
      ∧ (q.tuner t).state = .tuning ∧ (q.tuner t).chan = some v.2.2 ∧ (q.tuner t).claims = [⟨.background, false⟩]
      ∧ (t, LinkCmd.tune v.2.2) ∈ q.tuc.link.toList ++ q.tuc.queue ∧ q.tuner t.other = p.tuner t.other
      ∧ (∀ i e, p.holderOf c = some i → p.station i = some e → ∃ e', q.station i = some e'
          ∧ ∀ it ∈ e'.items, it.freq = c.freq → it.quality = some (p.tuner t).qs ∧ it.heard = some p.rif.ringTime)
      ∧ q = { p with tst := { p.tst with stations := q.tst.stations }, tuc := q.tuc, stm := q.stm }

/-- R92: WATCH names the watch station, or none with 255; with bulletins disabled the watch is INACTIVE; with them
enabled and a tuner free a WATCH claim is granted at the entry's channel of highest last quality and the watch is
COVERED; 255 clears a standing watch, and its claim, alone on a tuner, is withdrawn. While the watch is UNCOVERED,
WATCH_RETRY asks again, and WATCH_RESTORED is posted; when the tuner of its claim enters FAULT, WATCH_LOST is posted
and the claim is not asked for at once. The refusals. When the claim is asked for is log entry 21; that WATCH_RETRY
changes nothing where no watch stands is the model's choice (log entry 10). -/
def Obligations.WatchAsksForATuner : Prop :=
  (∀ (h : ReqHeader) (i : Nat) (p : Part) (w : List Instr), p.takes 0x34 h = true → p.quiet = true →
    p.tst.latent = [] → p.tunersFree = true →
    let run := exec (.watch h i) ⟨p, w⟩
    let refused := fun r => Host.Outcome.next (⟨answered 0x34 h r [] p, w⟩ : State)
    (i = 255 → run = .next ⟨answered 0x34 h .ok [] p, w⟩)
    ∧ (47 < i → i ≠ 255 → run = refused .badValue) ∧ (i ≤ 47 → p.station i = none → run = refused .notFound)
    ∧ (∀ e, i ≤ 47 → p.station i = some e → e.capable = false → run = refused .state)
    ∧ (∀ e, i ≤ 47 → p.station i = some e → e.capable = true → p.radioCfg.bulletins = false →
        run = .next ⟨answered 0x34 h .ok [] { p with stm := { p.stm with watch := some i } }, w⟩)
    ∧ (∀ e it t, i ≤ 47 → p.station i = some e → e.capable = true → p.radioCfg.bulletins = true →
        p.pwc.mode = .active → (p.zone .front).state ≠ .playing → bestItem e.items = some it →
        p.hasAddress t = true → (t = .b → p.hasAddress .a = false) →
        ∃ q, run = .next ⟨answered 0x34 h .ok [] q, w⟩ ∧ q.stm.watch = some i ∧ q.stm.watchState = .covered
          ∧ (q.tuner t).claims = [⟨.watch, false⟩] ∧ (q.tuner t).state = .tuning
          ∧ (q.tuner t).chan = some ⟨e.band, it.freq⟩ ∧ q.tuner t.other = p.tuner t.other
          ∧ q = { p with tuc := q.tuc, stm := q.stm }))
  ∧ (∀ (h : ReqHeader) (p : Part) (w : List Instr), p.takes 0x34 h = true → p.tst.latent = [] →
      p.stm.bulletin.latch = .none → p.radioCfg.background = false → p.holding .background = none →
      (p.follow .a).lowTimer = false → (p.follow .b).lowTimer = false →
      ((∀ x, ∀ k ∈ (p.tuner x).claims, k.who ≠ .watch) → (∀ x, (p.tuner x).claims = [] → (p.tuner x).state = .idle) →
        exec (.watch h 255) ⟨p, w⟩
          = .next ⟨answered 0x34 h .ok [] { p with stm := { p.stm with watch := none, watchState := .inactive } }, w⟩)
      ∧ ∀ t, (p.tuner t).claims = [⟨.watch, false⟩] → (∀ k ∈ (p.tuner t.other).claims, k.who ≠ .watch) →
          (p.tuner t.other).claims ≠ [] → p.hasAddress t = true → (p.tuner t).state ≠ .fault → (p.tuner t).retry = none →
          ∃ q, exec (.watch h 255) ⟨p, w⟩ = .next ⟨answered 0x34 h .ok [] q, w⟩ ∧ q.stm.watch = none
            ∧ q.stm.watchState = .inactive ∧ (q.tuner t).claims = [] ∧ (q.tuner t).state = .idle
            ∧ q.tuner t.other = p.tuner t.other ∧ (t, LinkCmd.standby) ∈ q.tuc.link.toList ++ q.tuc.queue
            ∧ q.nfu = p.nfu ∧ q.tst = p.tst)
  ∧ (∀ (p : Part) (w : List Instr), p.quiet = true → exec .watchRetry ⟨p, w⟩ = .next ⟨p, w⟩)
  ∧ (∀ (i : Nat) (e : Station) (t : TunerId) (cmd : LinkCmd) (p : Part) (w : List Instr), p.running = true →
      p.tst.latent = [] → p.stm.watch = some i → p.stm.watchState = .covered → p.stm.bulletin.latch = .none →
      p.station i = some e → p.radioCfg.bulletins = true → p.radioCfg.background = false → p.pwc.mode = .active →
      (p.zone .front).state ≠ .playing → (p.tuner t).claims = [⟨.watch, false⟩] → (p.tuner t.other).claims = [] →
      (p.tuner t).missed = 1 → p.tuc.link = some (t, cmd) → (∀ x, p.switching x = false) → p.stm.scan = none →
      p.nfu.notices.length ≤ 29 →
      ∃ q, exec .linkNoAck ⟨p, w⟩ = .next ⟨q, w⟩ ∧ (q.tuner t).state = .fault ∧ (q.tuner t).claims = []
        ∧ q.stm.watch = some i ∧ q.stm.watchState = .uncovered ∧ (q.tuner t.other).claims = []
        ∧ (∃ m ∈ q.nfu.notices, m.kind = .watchLost) ∧ ∀ m ∈ q.nfu.notices, m.kind = .watchRestored → m ∈ p.nfu.notices)
  ∧ ∀ (i : Nat) (e : Station) (it : Item) (t : TunerId) (p : Part) (w : List Instr), p.running = true →
      p.tst.latent = [] → p.stm.watch = some i → p.stm.watchState = .uncovered → p.stm.bulletin.latch = .none →
      p.station i = some e → p.radioCfg.bulletins = true → p.radioCfg.background = false → p.pwc.mode = .active →
      (p.zone .front).state ≠ .playing → bestItem e.items = some it → p.tunersFree = true →
      (p.follow .a).lowTimer = false → (p.follow .b).lowTimer = false →
      p.hasAddress t = true → (t = .b → p.hasAddress .a = false) →
      ∃ q, exec .watchRetry ⟨p, w⟩ = .next ⟨q, w⟩ ∧ q.stm.watch = some i ∧ q.stm.watchState = .covered
        ∧ (q.tuner t).claims = [⟨.watch, false⟩] ∧ (q.tuner t).chan = some ⟨e.band, it.freq⟩
        ∧ q.nfu = p.nfu.post .watchRestored 0 none ∧ q = { p with tuc := q.tuc, stm := q.stm, nfu := q.nfu }

/-- R95, R96: CAPTURE names a tuner and a count, or ends the capture with 255; CAPTURE_READ returns up to four packets
from the front of the queue, removed, after the number left and the number returned; when the idle timer runs out it
stops, and CAPTURE_READY is posted if packets wait. Without a running timer, and in DORMANT, its expiry changes
nothing, the model's choice (log entries 10, 28). R167, R168, R171, R172: NOTICE_FETCH returns up to 8 notices from
the front, removed, after the overflow flag, which is cleared, and their number. FAULT_READ returns the diagnostic
record and clears it. FAULT_LEVEL sets the level, or is refused with BAD_VALUE. Posting updates the notice of the kind
and subject in place, or adds one, or sets the overflow flag; a fault is counted at every level, and a recorded one
fills the record and posts FAULT, or counts in a full one. -/
def Obligations.QueuesAndRecordsAreFetched : Prop :=
  ((∀ (h : ReqHeader) (tuner count : Nat) (p : Part) (w : List Instr), p.takes 0x35 h = true →
     exec (.capture h tuner count) ⟨p, w⟩ =
       if tuner = 255 then .next ⟨answered 0x35 h .ok [] { p with stm := { p.stm with capTuner := none, capCount := 0 } }, w⟩
       else if 1 < tuner ∨ count = 0 ∨ 255 < count then .next ⟨answered 0x35 h .badValue [] p, w⟩
       else .next ⟨answered 0x35 h .ok [] { p with stm := { p.stm with
         capTuner := some (if tuner = 0 then .a else .b), capCount := count } }, w⟩)
   ∧ (∀ (h : ReqHeader) (p : Part) (w : List Instr), p.takes 0x36 h = true →
       exec (.captureRead h) ⟨p, w⟩ = .next ⟨answered 0x36 h .ok
         (byte1 (p.stm.capQueue.length - 4) ++ byte1 (min 4 p.stm.capQueue.length)
           ++ (p.stm.capQueue.take 4).flatMap capturedBytes)
         { p with stm := { p.stm with capQueue := p.stm.capQueue.drop 4 } }, w⟩)
   ∧ ∀ (p : Part) (w : List Instr),
       exec .captureIdleTimeout ⟨p, w⟩ = if p.running = true ∧ p.stm.capTimer = true then
           .next ⟨{ p with stm := { p.stm with capTimer := false }
                           nfu := if p.stm.capQueue = [] then p.nfu else p.nfu.post .captureReady 0 none }, w⟩
         else .next ⟨p, w⟩)
  ∧ (∀ (h : ReqHeader) (p : Part) (w : List Instr), p.takes 0x60 h = true →
      exec (.noticeFetch h) ⟨p, w⟩ = .next ⟨answered 0x60 h .ok
        (byte1 (codeOfBool p.nfu.overflow) ++ byte1 (min 8 p.nfu.notices.length)
          ++ (p.nfu.notices.take 8).flatMap fun n => byte1 (noticeCode n.kind) ++ byte2 n.subject
              ++ byte2 (n.value.getD 65535) ++ byte1 n.count)
        { p with nfu := { p.nfu with notices := p.nfu.notices.drop 8, overflow := false } }, w⟩)
    ∧ (∀ (h : ReqHeader) (p : Part) (w : List Instr), p.takes 0x61 h = true →
        exec (.faultRead h) ⟨p, w⟩ = .next ⟨answered 0x61 h .ok (match p.nfu.record with
            | none => List.replicate 10 0#8
            | some d => byte1 1 ++ byte1 (faultCode d.kind) ++ byte1 (d.subject.getD 255) ++ byte1 (d.entry.getD 255)
                ++ byte4 d.time ++ byte2 d.later)
          { p with nfu := { p.nfu with record := none } }, w⟩)
    ∧ (∀ (h : ReqHeader) (p : Part) (w : List Instr), p.takes 0x62 h = true →
        (∀ l, exec (.faultLevel h (levelCode l)) ⟨p, w⟩
          = .next ⟨answered 0x62 h .ok [] { p with nfu := { p.nfu with level := l } }, w⟩)
        ∧ ∀ n, 4 ≤ n → exec (.faultLevel h n) ⟨p, w⟩ = .next ⟨answered 0x62 h .badValue [] p, w⟩)
    ∧ (∀ (n : Nfu) (k : NoticeKind) (i : Nat) (v : Option Nat),
        (n.notices.any (fun m => m.kind == k && m.subject == i) = true →
          n.post k i v = { n with notices := n.notices.map fun m =>
            if m.kind == k && m.subject == i then { m with value := v, count := min 255 (m.count + 1) } else m })
        ∧ (n.notices.any (fun m => m.kind == k && m.subject == i) = false →
          n.post k i v = if n.notices.length < 32 then { n with notices := n.notices ++ [⟨k, i, v, 1⟩] }
            else { n with overflow := true }))
    ∧ ∀ (n : Nfu) (k : FaultKind) (i e : Option Nat) (t : Nat), n.counts.length = 7 →
        (n.fault k i e t).counts = n.counts.set (faultCode k) (min 65535 (n.counts.getD (faultCode k) 0 + 1))
        ∧ (n.fault k i e t).level = n.level
        ∧ (recordedAt k n.level = false → (n.fault k i e t).record = n.record ∧ (n.fault k i e t).notices = n.notices)
        ∧ (recordedAt k n.level = true → n.record = none → (n.fault k i e t).record = some ⟨k, i, e, t, 0⟩
            ∧ ((n.notices.length < 32 ∨ n.notices.any (fun m => m.kind == .fault && m.subject == 0) = true) →
                (n.fault k i e t).notices.any (fun m => m.kind == .fault) = true))
        ∧ (∀ d, recordedAt k n.level = true → n.record = some d →
            (n.fault k i e t).record = some { d with later := min 65535 (d.later + 1) }
              ∧ (n.fault k i e t).notices = n.notices)

/-- R77 to R82, R95: a service packet is disregarded while no tune has completed, and dropped and counted with its
check failed. An IDENT that the full part of the table does not know is filed as a learned entry at the lowest free
index, with its mark set and STATION_CHANGED posted; an IDENT of code 0, no code (log entry 23), is counted as
unfiled. A FREQS packet with no entry of its code is dropped and counted; a LABEL segment joins the tuner's assembly.
R93: an IDENT that shows a bulletin on the bulletin station of FRONT pushes a BULLETIN prompt at the back, with a
claim that shares the tuner, and the record names both. -/
def Obligations.ServicePacketsAreFiled : Prop :=
  (∀ (t : TunerId) (c : Chan) (p : Part) (w : List Instr), p.quiet = true → p.tst.latent = [] →
     p.playsOn t = true → (p.tuner t).chan = some c → p.stm.capTuner = none → p.stm.bulletin.latch = .none →
     p.radioCfg.bulletins = false → p.radioCfg.afEnable = false →
     (∀ pk, exec (.servicePacket t false pk) ⟨p, w⟩ = .next ⟨{ p with stm := { p.stm with
         checkFails := p.stm.checkFails.set t (min 65535 (p.stm.checkFails.get t + 1)) } }, w⟩)
     ∧ (∀ cap act, ∃ q, exec (.servicePacket t true (.ident 0 cap act)) ⟨p, w⟩ = .next ⟨q, w⟩
         ∧ q.stm.unfiled = min 65535 (p.stm.unfiled + 1) ∧ (q.tuner t).heard = none ∧ q.tst = p.tst
         ∧ q.zmx = p.zmx ∧ q.nfu = p.nfu)
     ∧ (∀ code cap act i, 1 ≤ code → p.indexOfCode code = none → p.holderOf c = none → p.freeIndex = some i →
         (p.tst.stations.getD i {}).mark = false → p.unitPoisoned 8 i 0 = false →
         ∃ q, exec (.servicePacket t true (.ident code cap act)) ⟨p, w⟩ = .next ⟨q, w⟩
           ∧ q.station i = some { code := code, band := c.band, label := none
                                  items := [⟨c.freq, some (p.tuner t).qs, some p.rif.ringTime⟩], favourite := none
                                  capable := cap, active := act, learned := true }
           ∧ (q.tst.stations.getD i {}).mark = true ∧ (q.tuner t).heard = some code
           ∧ (∀ j, j ≠ i → q.tst.stations[j]? = p.tst.stations[j]?)
           ∧ (∀ z a, claimantOf z = some a → ⟨a, false⟩ ∈ (p.tuner t).claims → (p.zone z).att = some t →
               (q.zone z).station = some i ∧ (q.zone z).code = some code)
           ∧ q.nfu = p.nfu.post .stationChanged 0 none ∧ q.stm.unfiled = p.stm.unfiled
           ∧ q.rif = p.rif ∧ q.rmx = p.rmx ∧ q.anu = p.anu ∧ q.clp = p.clp ∧ q.pwc = p.pwc)
     ∧ (∀ fs, (p.tuner t).heard.bind p.indexOfCode = none →
         exec (.servicePacket t true (.freqs fs)) ⟨p, w⟩ = .next ⟨{ p with stm := { p.stm with
           dropped := min 65535 (p.stm.dropped + fs.length) } }, w⟩)
     ∧ (∀ n c1 c2 code, (p.tuner t).heard = some code → p.indexOfCode code = none →
         exec (.servicePacket t true (.label n c1 c2)) ⟨p, w⟩ = .next ⟨{ p with stm := { p.stm with
           labels := p.stm.labels.set t ((p.stm.labels.get t).set n (some (c1, c2))) } }, w⟩))
  ∧ (∀ (t : TunerId) (c : Chan) (i : Nat) (e : Station) (p : Part) (w : List Instr), p.running = true → p.quiet = true →
      p.tst.latent = [] → p.pwc.mode = .active → p.playsOn t = true → (p.tuner t).chan = some c → p.serves t c = true →
      p.stm.capTuner = none → p.radioCfg.bulletins = true → p.stm.bulletin.latch = .none →
      p.radioCfg.bulletinZones.isEmpty = false →
      (p.zone .front).state = .playing → (p.zone .front).source = .radio → (p.zone .front).station = some i →
      p.station i = some e → e.holds c = true → 1 ≤ e.code → p.indexOfCode e.code = some i →
      p.holderOf c = some i → p.anu.waiting.length < 12 → p.anu.tagHeld p.anu.tagCounter = false →
      ∃ q, exec (.servicePacket t true (.ident e.code true true)) ⟨p, w⟩ = .next ⟨q, w⟩
        ∧ q.stm.bulletin = { latch := .prompted, tag := p.anu.tagCounter, tuner := t, station := some i }
        ∧ ⟨.bulletin, false⟩ ∈ (q.tuner t).claims ∧ (∀ k ∈ (p.tuner t).claims, k ∈ (q.tuner t).claims)
        ∧ (q.tuner t).state = .playing ∧ q.tuner t.other = p.tuner t.other
        ∧ q.anu = { p.anu with
            tagCounter := if p.anu.tagCounter = 65535 then 32768 else p.anu.tagCounter + 1
            waiting := p.anu.waiting ++ [{ tag := p.anu.tagCounter, cls := .bulletin, source := .tuner t
                                           zones := p.radioCfg.bulletinZones, level := p.radioCfg.bulletinLevel
                                           maxDuration := some 300000, front := false }] }
        ∧ q.station i = some { e with capable := true, active := true }
        ∧ q.rif = p.rif ∧ q.rmx = p.rmx ∧ q.clp = p.clp ∧ q.pwc = p.pwc)
  ∧ ∀ (t : TunerId) (ok : Bool) (pk : Packet) (p : Part) (w : List Instr), p.quiet = true →
      ((p.tuner t).state = .idle ∨ (p.tuner t).state = .fault ∨ (p.tuner t).done = false) →
      exec (.servicePacket t ok pk) ⟨p, w⟩ = .next ⟨p, w⟩

/-! ### Frequency following -/

/-- R88, R89, R91: when the low-quality timer has run, a tuner with a candidate tries it: with the other tuner free,
by a seamless switch, the other tuner holding provisional copies of its listening claims and tuned to the candidate;
with the other tuner taken, by a blind check, the tuner itself going to the candidate in CHECKING while the readiness
of its FRONT and headphone zones is held. Without a running timer nothing happens, the model's choice (log entry 10).
-/
def Obligations.FollowingTriesACandidate : Prop :=
  ∀ (t : TunerId) (cand home : Chan) (p : Part) (w : List Instr), p.running = true → p.calm = true →
    p.tst.latent = [] → p.playsOn t = true → p.eligible t = true → (p.follow t.other).lowTimer = false →
    (p.tuner t).chan = some home → p.candidate t = some cand → (p.tuner t.other).retry = none →
    ((p.follow t).lowTimer = false → exec (.afHoldExpiry t) ⟨p, w⟩ = .next ⟨p, w⟩)
    ∧ ((p.follow t).lowTimer = true → (p.tuner t.other).state = .idle → (p.tuner t.other).claims = [] →
        p.hasAddress t.other = true →
        ∃ q, exec (.afHoldExpiry t) ⟨p, w⟩ = .next ⟨q, w⟩
          ∧ q.follow t = { state := .switchVerify, lastCheck := (p.follow t).lastCheck, cand := cand.freq }
          ∧ (q.tuner t.other).state = .tuning ∧ (q.tuner t.other).chan = some cand
          ∧ (∀ k, k ∈ (q.tuner t.other).claims ↔ k.prov = true ∧ ∃ x ∈ (p.tuner t).claims, x.who = k.who
              ∧ x.who.listens = true)
          ∧ q.tuner t = p.tuner t ∧ (t.other, LinkCmd.tune cand) ∈ q.tuc.link.toList ++ q.tuc.queue
          ∧ q = { p with tuc := q.tuc, stm := q.stm })
    ∧ ((p.follow t).lowTimer = true → p.borrowable t.other = false → p.mayCheck t = true → p.hasAddress t = true →
        ∃ q, exec (.afHoldExpiry t) ⟨p, w⟩ = .next ⟨q, w⟩
          ∧ q.follow t = { state := .checkMeasure, lastCheck := some p.rif.ringTime, cand := cand.freq
                           home := home.freq, code := (p.tuner t).heard.getD 0, preScore := (p.tuner t).qs }
          ∧ (q.tuner t).state = .checking ∧ (q.tuner t).chan = some cand
          ∧ (q.tuner t).claims = (p.tuner t).claims ∧ q.tuner t.other = p.tuner t.other
          ∧ (∀ z, z.ownSource = true → (p.zone z).att = some t →
              (q.zone z).held.isSome = true ∧ (q.zone z).state = (p.zone z).state)
          ∧ (t, LinkCmd.tune cand) ∈ q.tuc.link.toList ++ q.tuc.queue
          ∧ q.tst = p.tst ∧ q.nfu = p.nfu)

/-- R89, R90: a switch whose verification window expires is abandoned: the weak tuner is back in MONITOR, with its
low-quality timer restarted while it is eligible, the copies are withdrawn, and the candidate tuner goes IDLE. A
verified switch with a primed candidate fades in 32 steps, its zones attached to both tuners, FRONT's followers that
are not OFF with them; at the block after step 32 the zones' claims move to the candidate tuner with its frequency,
the weak tuner goes IDLE, both are in MONITOR and AF_SWITCHED is posted. A readiness still held after a check stays
held as the fade begins: the model's choice (log entry 70). A follower in OFF keeps its record throughout (R28). That
either row of that block completes the switch, and that AF_SWITCH_COMPLETE changes nothing before, is the model's
choice (log entries 11, 10). -/
def Obligations.SwitchesFadeAndComplete : Prop :=
  ∀ (t : TunerId) (z : ZoneId) (a : Claimant) (home cand : Chan) (p : Part) (w : List Instr), p.running = true →
    p.quiet = true → p.tst.latent = [] → claimantOf z = some a → (p.zone z).att = some t → (p.tuner t).claims = [⟨a, false⟩] →
    (p.tuner t.other).claims = [⟨a, true⟩] → (p.tuner t).state = .playing → (p.tuner t.other).state = .playing →
    (p.tuner t).chan = some home → (p.tuner t.other).chan = some cand → p.switching t.other = false →
    p.hasAddress t = true → p.hasAddress t.other = true → (p.tuner t).retry = none →
    (p.tuner t.other).retry = none →
    ((p.follow t).state = .switchVerify →
      ∃ q, exec (.switchVerifyTimeout t) ⟨p, w⟩ = .next ⟨q, w⟩
        ∧ q.follow t = { state := .monitor, lowTimer := p.eligible t, lastCheck := (p.follow t).lastCheck }
        ∧ (q.tuner t.other).claims = [] ∧ (q.tuner t.other).state = .idle ∧ q.tuner t = p.tuner t
        ∧ (q.zone z).att = some t ∧ (q.zone z).att2 = none ∧ q.nfu = p.nfu
        ∧ (∀ x, x.follows = true → (p.zone x).state = .off → q.zone x = p.zone x)
        ∧ ∀ i, q.station i = if p.holderOf cand = some i then (p.station i).map fun e => { e with
            items := e.items.map fun it => if it.freq = cand.freq then
              { it with quality := some (p.tuner t.other).qs, heard := some p.rif.ringTime } else it }
          else p.station i)
    ∧ ((p.follow t).state = .switchVerify → (p.follow t).verified = true →
        (p.tuner t.other).adapter.primed = true →
        (∀ x, x ≠ z → x.ownSource = true → (p.zone x).att ≠ some t) →
        ∃ q, exec (.afFadeStep t) ⟨p, w⟩ = .next ⟨q, w⟩
          ∧ q.follow t = { p.follow t with state := .switchFade, step := 1 }
          ∧ q.zone z = { p.zone z with att2 := some t.other } ∧ q.tuc = p.tuc
          ∧ (∀ x, x.follows = true → (p.zone x).state ≠ .off → (p.zone x).att = some t →
              (q.zone x).att = some t ∧ (q.zone x).att2 = some t.other)
          ∧ (∀ x, x.follows = true → (p.zone x).state = .off → q.zone x = p.zone x))
    ∧ ((p.follow t).state = .switchVerify → (p.follow t).verified = false →
        exec (.afFadeStep t) ⟨p, w⟩ = .next ⟨p, w⟩)
    ∧ ((p.follow t).state = .switchFade → (p.follow t).step < 32 →
        exec (.afFadeStep t) ⟨p, w⟩
          = .next ⟨p.setFollow t { p.follow t with step := (p.follow t).step + 1 }, w⟩
        ∧ exec (.afSwitchComplete t) ⟨p, w⟩ = .next ⟨p, w⟩)
    ∧ ((p.follow t).state = .switchFade → (p.follow t).step = 32 →
        ∀ cmd, (cmd = .afFadeStep t ∨ cmd = .afSwitchComplete t) →
        ∃ q, exec cmd ⟨p, w⟩ = .next ⟨q, w⟩ ∧ ⟨a, false⟩ ∈ (q.tuner t.other).claims
          ∧ (∀ k ∈ (q.tuner t.other).claims, k = ⟨a, false⟩) ∧ (q.tuner t).claims = []
          ∧ (q.tuner t).state = .idle ∧ (q.tuner t.other).state = .playing
          ∧ (∀ u, (q.follow u).state = .monitor ∧ (q.follow u).lastCheck = (p.follow u).lastCheck)
          ∧ (q.zone z).att = some t.other ∧ (q.zone z).att2 = none ∧ (q.zone z).chan = some cand
          ∧ (∀ x, x.follows = true → (p.zone x).state ≠ .off → (p.zone x).att = some t →
              (q.zone x).att = some t.other ∧ (q.zone x).att2 = none ∧ (q.zone x).chan = some cand)
          ∧ (∀ x, x.follows = true → (p.zone x).state = .off → q.zone x = p.zone x)
          ∧ (t, LinkCmd.standby) ∈ q.tuc.link.toList ++ q.tuc.queue
          ∧ q.nfu = p.nfu.post .afSwitched (tunerCode t.other) none ∧ q.tst = p.tst)

/-- R91: at the end of its measurement a blind check takes the average of the reports, the missing ones as 0, and
stays on the candidate in CHECK_VERIFY if the average is high enough; otherwise, and when the code is not heard in
time, the tuner goes back to its home frequency in CHECK_RETURN. In MONITOR the two timeouts change nothing, the
model's choice (log entry 10). -/
def Obligations.BlindChecksStayOrReturn : Prop :=
  ∀ (t : TunerId) (c : Chan) (p : Part) (w : List Instr), p.running = true → p.quiet = true → p.tst.latent = [] →
    (p.tuner t).chan = some c → (p.tuner t).state ≠ .fault → (p.tuner t).retry = none → p.hasAddress t = true →
    (∀ cmd, (cmd = .blindCheckMeasureTimeout t ∧ (p.follow t).state = .checkMeasure ∧ (p.tuner t).done = true
          ∧ (p.follow t).sum / 5 < (p.follow t).preScore + p.radioCfg.afMargin
        ∨ cmd = .checkVerifyTimeout t ∧ (p.follow t).state = .checkVerify) →
      ∃ q, exec cmd ⟨p, w⟩ = .next ⟨q, w⟩
        ∧ q.follow t = { p.follow t with state := .checkReturn } ∧ (q.tuner t).state = .checking
        ∧ (q.tuner t).chan = some ⟨c.band, (p.follow t).home⟩ ∧ (q.tuner t).claims = (p.tuner t).claims
        ∧ (t, LinkCmd.tune ⟨c.band, (p.follow t).home⟩) ∈ q.tuc.link.toList ++ q.tuc.queue
        ∧ (∀ z, (p.zone z).att = some t → p.listening z = true → z.ownSource = true →
            (q.zone z).chan = some ⟨c.band, (p.follow t).home⟩)
        ∧ q.nfu = p.nfu)
    ∧ ((p.follow t).state = .checkMeasure → (p.tuner t).done = true →
        (p.follow t).preScore + p.radioCfg.afMargin ≤ (p.follow t).sum / 5 →
        ∃ q, exec (.blindCheckMeasureTimeout t) ⟨p, w⟩ = .next ⟨q, w⟩
          ∧ q.follow t = { p.follow t with state := .checkVerify }
          ∧ q.tuner t = { p.tuner t with state := .playing }
          ∧ (∀ z, (p.zone z).att = some t → p.listening z = true → z.ownSource = true → (q.zone z).chan = some c)
          ∧ (∀ i e, p.holderOf c = some i → q.station i = some e →
              ∀ it ∈ e.items, it.freq = c.freq → it.quality = some ((p.follow t).sum / 5))
          ∧ q.nfu = p.nfu)
    ∧ ((p.follow t).state = .monitor → exec (.blindCheckMeasureTimeout t) ⟨p, w⟩ = .next ⟨p, w⟩
        ∧ exec (.checkVerifyTimeout t) ⟨p, w⟩ = .next ⟨p, w⟩)

/-! ### Prompts -/

/-- R100 to R102: PROMPT_PUSH. Fields out of their ranges are refused with BAD_VALUE, then a tag in use with
DUPLICATE, then a push at BACK with 12 waiting with FULL. A NAV or CHIME joins the queue at the back, or in front of
the waiting ones; the reply carries its tag, one of the part's own where none is given. A SAFETY starts at once in the
place of a playing NAV, which is dropped. That the part of a block in which it starts counts as its first is the
model's choice (log entry 54). R107 to R109: PROMPT_CANCEL ends the prompt of any class that holds the tag, PROMPT_END
one of class NAV: playing, it ends at once; waiting, it is removed and those behind it close up; PROMPT_ENDED is
posted. R94, R108: a cancelled BULLETIN, playing or waiting, is told to the Station Manager: the latch becomes SPENT
where its station is still bulletin-active and NONE otherwise, with no station left NONE by the model's choice (log
entry 53), and its claim is withdrawn. A tag that nobody holds is refused with NOT_FOUND, an end of another class with
STATE. -/
def Obligations.PromptsArePushedAndEndedOnRequest : Prop :=
  (∀ (h : ReqHeader) (tag cls source zones level dur pos : Nat) (p : Part) (w : List Instr), p.takes 0x40 h = true →
     p.quiet = true → p.tst.latent = [] →
     let run := exec (.promptPush h tag cls source zones level dur pos) ⟨p, w⟩
     let refused := fun r => Host.Outcome.next (⟨answered 0x40 h r [] p, w⟩ : State)
     (32767 < tag ∨ (cls ≠ 0 ∧ cls ≠ 2 ∧ cls ≠ 4) ∨ (cls = 2 ∧ source ≠ 16) ∨ (cls ≠ 2 ∧ 16 ≤ source) ∨ zones = 0
         ∨ 64 ≤ zones ∨ 384 < level ∨ dur = 0 ∨ 600000 < dur ∨ 1 < pos → run = refused .badValue)
     ∧ (tag ≤ 32767 → 0 < zones → zones < 64 → level ≤ 384 → 1 ≤ dur → dur ≤ 600000 → pos ≤ 1 →
         let z : ZoneSet := .of fun x => zones.testBit (zoneCode x)
         (∀ c src, (cls = 2 ∧ source = 16 ∧ c = .nav ∧ src = PromptSource.navVoice
             ∨ cls = 4 ∧ source < 16 ∧ c = .chime ∧ src = .pattern source) →
           (tag ≠ 0 → p.anu.tagHeld tag = true → run = refused .duplicate)
           ∧ (tag = 0 ∨ p.anu.tagHeld tag = false → 12 ≤ p.anu.waiting.length → pos = 0 → run = refused .full)
           ∧ (∀ given, (given = tag ∧ tag ≠ 0 ∧ p.anu.tagHeld tag = false
                 ∨ tag = 0 ∧ given = p.anu.tagCounter ∧ p.anu.tagHeld given = false) → p.anu.waiting.length < 12 →
               let r : Prompt := { tag := given, cls := c, source := src, zones := z, level := level
                                   maxDuration := some dur, front := pos == 1 }
               run = .next ⟨answered 0x40 h .ok (byte2 given) { p with anu := { p.anu with
                 waiting := if pos = 1 then r :: p.anu.waiting else p.anu.waiting ++ [r]
                 tagCounter := if tag = 0 then (if given = 65535 then 32768 else given + 1)
                   else p.anu.tagCounter } }, w⟩))
         ∧ (∀ old, cls = 0 → source < 16 → tag ≠ 0 → p.anu.tagHeld tag = false → p.anu.playing = some old →
             old.cls = .nav → p.unitPoisoned 10 source 0 = false →
             ∃ q, run = .next ⟨answered 0x40 h .ok (byte2 tag) q, w⟩
               ∧ q.anu.playing = some { tag := tag, cls := .safety, source := .pattern source, zones := z
                                        level := level, maxDuration := some dur, front := pos == 1 }
               ∧ q.anu.waiting = p.anu.waiting
               ∧ q.anu.chime = Chime.begun (((p.tst.chimes.getD source {}).segments.getD 0 {})) 1
               ∧ q.nfu = (p.nfu.post .promptDropped old.tag none).post .promptStarted tag none
               ∧ q = { p with anu := q.anu, nfu := q.nfu })))
  ∧ (∀ (h : ReqHeader) (tag : Nat) (r : Prompt) (p : Part) (w : List Instr), p.takes 0x41 h = true → p.still = true →
         p.tst.latent = [] → p.switching .a = false → p.switching .b = false → p.anu.find tag = some r →
         r.cls = .bulletin → p.stm.bulletin.latch = .prompted →
         ∃ q, exec (.promptCancel h tag) ⟨p, w⟩ = .next ⟨answered 0x41 h .ok [] q, w⟩
           ∧ q.stm.bulletin = { p.stm.bulletin with
               latch := if (p.stm.bulletin.station.bind p.station).any Station.active then .spent else .none }
           ∧ (∀ t, let left := (p.tuner t).claims.filter fun c => c.who != .bulletin
               (q.tuner t).claims = left
                 ∧ (q.tuner t).state = if left = [] ∧ (p.tuner t).state ≠ .fault then .idle else (p.tuner t).state)
           ∧ q.anu = { p.anu with
               playing := p.anu.playing.filter fun x => x.tag != tag
               waiting := p.anu.waiting.filter fun x => x.tag != tag
               chime := if p.anu.playing.any fun x => x.tag == tag then {} else p.anu.chime }
           ∧ q.nfu = p.nfu.post .promptEnded tag none
           ∧ q = { p with anu := q.anu, stm := q.stm, tuc := q.tuc, nfu := q.nfu, rlu := q.rlu })
  ∧ ∀ (h : ReqHeader) (tag : Nat) (c : Instr) (kind : Nat) (p : Part) (w : List Instr),
      (c = .promptCancel h tag ∧ kind = 0x41 ∨ c = .promptEnd h tag ∧ kind = 0x42) → p.takes kind h = true →
      p.quiet = true →
      (p.anu.tagHeld tag = false → exec c ⟨p, w⟩ = .next ⟨answered kind h .notFound [] p, w⟩)
      ∧ (∀ r, p.anu.find tag = some r → kind = 0x42 → r.cls ≠ .nav →
          exec c ⟨p, w⟩ = .next ⟨answered kind h .state [] p, w⟩)
      ∧ (∀ r, p.anu.find tag = some r → (r.cls = .nav ∨ (kind = 0x41 ∧ r.cls ≠ .ring)) →
          exec c ⟨p, w⟩ = .next ⟨answered kind h .ok [] { p with
            anu := { p.anu with
              playing := p.anu.playing.filter fun x => x.tag != tag
              waiting := p.anu.waiting.filter fun x => x.tag != tag
              chime := if p.anu.playing.any fun x => x.tag == tag then {} else p.anu.chime }
            nfu := p.nfu.post .promptEnded tag none }, w⟩)
      ∧ (∀ r, p.anu.find tag = some r → kind = 0x41 → r.cls = .ring →
          ∃ q, exec c ⟨p, w⟩ = .next ⟨answered kind h .ok [] q, w⟩ ∧ q.clp = { p.clp with ringTag := none }
            ∧ q.anu.find tag = none ∧ q.nfu = p.nfu.post .promptEnded tag none
            ∧ q = { p with anu := q.anu, clp := q.clp, nfu := q.nfu })

/-- R104, R106, R110: the render block of the Announcement Unit. With nothing playing the first eligible record starts
with PROMPT_STARTED, wherever it stands in the queue: a BULLETIN is passed over, and keeps its place, while the call
is ALERTING or ACTIVE. A playing one counts the block and ends with PROMPT_ENDED when its time is up; a pattern counts
the block, or goes to its next segment or pass at the block after a segment's last, and its end ends the prompt. From
which block the time counts is the model's choice (log entry 36), as is that the expiry rows act beside the block's
(log entry 11) and change nothing before their time (log entry 10). -/
def Obligations.PromptsStartAdvanceAndEnd : Prop :=
  (∀ (r : Prompt) (passed rest : List Prompt) (p : Part) (w : List Instr), p.running = true → p.quiet = true →
    p.tst.latent = [] → p.anu.playing = none → p.anu.waiting = passed ++ r :: rest →
    (∀ x ∈ passed ++ rest, x.tag ≠ r.tag) →
    (∀ x ∈ passed, x.cls = .bulletin ∧ (p.clp.state = .alerting ∨ p.clp.state = .active)) →
    (r.cls = .nav ∧ r.source = .navVoice
      ∨ r.cls = .bulletin ∧ (∃ t, r.source = .tuner t) ∧ p.clp.state ≠ .alerting ∧ p.clp.state ≠ .active) →
    exec .anuRenderBlock ⟨p, w⟩ = .next ⟨{ p with
      anu := { p.anu with
        playing := some { r with elapsed := 0, pass := 1, segment := 0 }, waiting := passed ++ rest, chime := {} }
      nfu := p.nfu.post .promptStarted r.tag none }, w⟩)
  ∧ (∀ (p : Part) (w : List Instr), p.running = true → p.quiet = true → p.anu.playing = none →
      (∀ x ∈ p.anu.waiting, x.cls = .bulletin ∧ (p.clp.state = .alerting ∨ p.clp.state = .active)) →
      exec .anuRenderBlock ⟨p, w⟩ = .next ⟨p, w⟩)
  ∧ (∀ (r : Prompt) (m : Nat) (p : Part) (w : List Instr), p.running = true → p.quiet = true →
      p.anu.playing = some r → r.cls = .nav → r.source = .navVoice → r.maxDuration = some m →
      (r.elapsed + 1 < m →
        exec .anuRenderBlock ⟨p, w⟩ = .next ⟨{ p with anu := { p.anu with
          playing := some { r with elapsed := r.elapsed + 1 } } }, w⟩
        ∧ exec .promptDurationExpiry ⟨p, w⟩ = .next ⟨p, w⟩)
      ∧ (m ≤ r.elapsed + 1 →
        (p.anu.waiting = [] → exec .anuRenderBlock ⟨p, w⟩ = .next ⟨{ p with
          anu := { p.anu with playing := none, chime := {} }, nfu := p.nfu.post .promptEnded r.tag none }, w⟩)
        ∧ exec .promptDurationExpiry ⟨p, w⟩ = .next ⟨{ p with
          anu := { p.anu with playing := none, chime := {} }, nfu := p.nfu.post .promptEnded r.tag none }, w⟩))
  ∧ ∀ (r : Prompt) (n m : Nat) (s : Segment) (pat : Pattern) (p : Part) (w : List Instr), p.running = true →
      p.quiet = true → p.tst.latent = [] → p.anu.playing = some r → r.cls = .chime → r.source = .pattern n →
      p.anu.chime.segment = some s → p.unitPoisoned 10 n 0 = false → pat = p.tst.chimes.getD n {} →
      (p.anu.chime.played < s.duration → exec .chimeSegmentEnd ⟨p, w⟩ = .next ⟨p, w⟩
        ∧ (r.maxDuration = some m → r.elapsed + 1 < m →
          exec .anuRenderBlock ⟨p, w⟩ = .next ⟨{ p with anu := { p.anu with
            playing := some { r with elapsed := r.elapsed + 1 }
            chime := { p.anu.chime with played := p.anu.chime.played + 1 } } }, w⟩))
      ∧ (s.duration ≤ p.anu.chime.played →
          (∀ pass seg, (seg = r.segment + 1 ∧ pass = r.pass ∧ r.segment + 1 < pat.count
              ∨ seg = 0 ∧ pass = r.pass + 1 ∧ pat.count ≤ r.segment + 1 ∧ r.pass < pat.repeats) →
            (r.maxDuration = some m → r.elapsed + 1 < m →
              exec .anuRenderBlock ⟨p, w⟩ = .next ⟨{ p with anu := { p.anu with
                playing := some { r with elapsed := r.elapsed + 1, pass := pass, segment := seg }
                chime := { segment := some (pat.segments.getD seg {}), played := 1, phase := 0
                           increment := phaseIncrement (pat.segments.getD seg {}).freq } } }, w⟩)
            ∧ exec .chimeSegmentEnd ⟨p, w⟩ = .next ⟨{ p with anu := { p.anu with
              playing := some { r with pass := pass, segment := seg }
              chime := { segment := some (pat.segments.getD seg {}), played := 0, phase := 0
                         increment := phaseIncrement (pat.segments.getD seg {}).freq } } }, w⟩)
          ∧ (pat.count ≤ r.segment + 1 → pat.repeats ≤ r.pass →
            (r.maxDuration = some m → r.elapsed + 1 < m → p.anu.waiting = [] →
              exec .anuRenderBlock ⟨p, w⟩ = .next ⟨{ p with
                anu := { p.anu with playing := none, chime := {} }, nfu := p.nfu.post .promptEnded r.tag none }, w⟩)
            ∧ exec .chimeSegmentEnd ⟨p, w⟩ = .next ⟨{ p with
              anu := { p.anu with playing := none, chime := {} }, nfu := p.nfu.post .promptEnded r.tag none }, w⟩))

/-! ### Calls -/

/-- R103, R131, R132: CALL_ALERT takes an IDLE call to ALERTING, with a RING prompt before the waiting ones;
CALL_CONNECT takes it to ACTIVE with the default zones that may carry it, the seats of those zones admitted and their
contexts in TRAINING. R105: a BULLETIN that plays then is set back to the head of the queue, behind the RING at
CALL_ALERT, where the waiting ones beyond twelve are dropped from the back with PROMPT_DROPPED; at CALL_CONNECT the
RING ends, playing or waiting, with PROMPT_ENDED. The refusals. -/
def Obligations.CallsAlertAndConnect : Prop :=
  (∀ (h : ReqHeader) (n : Nat) (p : Part) (w : List Instr), p.takes 0x50 h = true → p.quiet = true →
    p.tst.latent = [] →
    (n = 0 ∨ 64 ≤ n → exec (.callAlert h n) ⟨p, w⟩ = .next ⟨answered 0x50 h .badValue [] p, w⟩)
    ∧ (0 < n → n < 64 → p.clp.state ≠ .idle →
        exec (.callAlert h n) ⟨p, w⟩ = .next ⟨answered 0x50 h .state [] p, w⟩)
    ∧ (0 < n → n < 64 → p.clp.state = .idle → p.pwc.ramp ≠ none →
        exec (.callAlert h n) ⟨p, w⟩ = .next ⟨answered 0x50 h .power [] p, w⟩)
    ∧ (0 < n → n < 64 → p.clp.state = .idle → p.pwc.ramp = none → (∀ r, p.anu.playing = some r → r.cls ≠ .bulletin) →
        p.anu.waiting.length < 12 → p.anu.tagHeld p.anu.tagCounter = false →
        exec (.callAlert h n) ⟨p, w⟩ = .next ⟨answered 0x50 h .ok (byte2 p.anu.tagCounter) { p with
          clp := { p.clp with state := .alerting, ringTag := some p.anu.tagCounter }
          anu := { p.anu with
            tagCounter := if p.anu.tagCounter = 65535 then 32768 else p.anu.tagCounter + 1
            waiting := { tag := p.anu.tagCounter, cls := .ring, source := .pattern p.callCfg.ringPattern
                         zones := .of fun z => n.testBit (zoneCode z), level := p.callCfg.level
                         maxDuration := none, front := true } :: p.anu.waiting } }, w⟩))
  ∧ (∀ (h : ReqHeader) (n : Nat) (r : Prompt) (front lost : List Prompt) (p : Part) (w : List Instr),
       p.takes 0x50 h = true → p.still = true → p.tst.latent = [] → 0 < n → n < 64 → p.clp.state = .idle →
       p.pwc.ramp = none → p.anu.playing = some r → r.cls = .bulletin → p.anu.waiting = front ++ lost →
       front.length ≤ 10 → lost.length ≤ 2 → (lost = [] ∨ front.length = 10) →
       (∀ x ∈ lost, x.cls ≠ .ring ∧ x.cls ≠ .bulletin) → p.anu.tagHeld p.anu.tagCounter = false →
       exec (.callAlert h n) ⟨p, w⟩ = .next ⟨answered 0x50 h .ok (byte2 p.anu.tagCounter) { p with
         clp := { p.clp with state := .alerting, ringTag := some p.anu.tagCounter }
         anu := { p.anu with
           tagCounter := if p.anu.tagCounter = 65535 then 32768 else p.anu.tagCounter + 1
           playing := none, chime := {}
           waiting := { tag := p.anu.tagCounter, cls := .ring, source := .pattern p.callCfg.ringPattern
                        zones := .of fun z => n.testBit (zoneCode z), level := p.callCfg.level
                        maxDuration := none, front := true }
             :: { r with elapsed := 0, pass := 1, segment := 0 } :: front }
         nfu := lost.reverse.foldl (fun q x => q.post .promptDropped x.tag none) p.nfu }, w⟩)
  ∧ (∀ (h : ReqHeader) (p : Part) (w : List Instr) (anu : Anu) (nfu : Nfu), p.takes 0x51 h = true → p.still = true →
       p.tst.latent = [] → p.pwc.ramp = none → p.clp.admitted = .of (fun _ => false) →
       ((p.clp.state = .idle ∨ p.clp.state = .alerting)
           ∧ (∀ x, p.anu.playing = some x ∨ x ∈ p.anu.waiting → x.cls ≠ .ring)
           ∧ (∀ x, p.anu.playing = some x → x.cls ≠ .bulletin) ∧ anu = p.anu ∧ nfu = p.nfu
         ∨ p.clp.state = .alerting ∧ (∃ r, p.anu.find r.tag = some r ∧ r.cls = .ring
             ∧ (∀ x, p.anu.playing = some x ∨ x ∈ p.anu.waiting → x.cls = .ring → x = r)
             ∧ (∀ x, p.anu.playing = some x → x.cls ≠ .bulletin)
             ∧ anu = { p.anu with
                 playing := p.anu.playing.filter fun x => x.tag != r.tag
                 waiting := p.anu.waiting.filter fun x => x.tag != r.tag
                 chime := if p.anu.playing.any fun x => x.tag == r.tag then {} else p.anu.chime }
             ∧ nfu = p.nfu.post .promptEnded r.tag none)
         ∨ p.clp.state = .idle ∧ (∀ x ∈ p.anu.waiting, x.cls ≠ .ring) ∧ p.anu.waiting.length < 12
           ∧ (∃ r, p.anu.playing = some r ∧ r.cls = .bulletin ∧ nfu = p.nfu ∧ anu = { p.anu with
               playing := none, chime := {}
               waiting := { r with elapsed := 0, pass := 1, segment := 0 } :: p.anu.waiting })) →
       ∃ q, exec (.callConnect h) ⟨p, w⟩ = .next ⟨answered 0x51 h .ok [] q, w⟩
         ∧ q.clp.state = .active ∧ q.clp.isPrivate = false ∧ q.clp.talker = none ∧ q.clp.ringTag = none
         ∧ (∀ z, q.clp.zones.get z =
             (p.callCfg.defaultZones.get z && !((z = .hpLeft ∨ z = .hpRight) && (p.zone z).state == .off)))
         ∧ q.clp.admitted = ⟨q.clp.zones.front || q.clp.zones.driver, q.clp.zones.front,
             q.clp.zones.hpLeft || q.clp.zones.rearCabin, q.clp.zones.hpRight || q.clp.zones.rearCabin⟩
         ∧ (∀ k, q.clp.admitted.get k = true → (q.seat k).context = .training ∧ (q.seat k).sig = some q.clp.sig)
         ∧ q.clp.sig = { p.clp.sig with zones := q.clp.zones } ∧ q.clp.lastTalker = p.clp.lastTalker ∧ q.anu = anu
         ∧ ((∀ k, (p.seat k).context = .reset) →
             q.nfu = if q.clp.admitted.get p.clp.lastTalker = true then
               nfu.post .canceller (seatCode p.clp.lastTalker) none else nfu)
         ∧ q = { p with clp := q.clp, anu := q.anu, nfu := q.nfu, rlu := q.rlu })
  ∧ ∀ (h : ReqHeader) (p : Part) (w : List Instr), p.takes 0x51 h = true → p.quiet = true → p.tst.latent = [] →
      (p.clp.state = .active ∨ p.clp.state = .held →
        exec (.callConnect h) ⟨p, w⟩ = .next ⟨answered 0x51 h .state [] p, w⟩)
      ∧ (p.clp.state = .idle ∨ p.clp.state = .alerting → p.pwc.ramp ≠ none →
        exec (.callConnect h) ⟨p, w⟩ = .next ⟨answered 0x51 h .power [] p, w⟩)
      ∧ (p.clp.state = .idle ∨ p.clp.state = .alerting → p.pwc.ramp = none → p.anu.playing = none →
        (p.anu.waiting.map Prompt.tag).Nodup → p.clp.admitted = .of (fun _ => false) →
        ∃ q, exec (.callConnect h) ⟨p, w⟩ = .next ⟨answered 0x51 h .ok [] q, w⟩
          ∧ q.clp.state = .active ∧ q.clp.isPrivate = false ∧ q.clp.talker = none ∧ q.clp.ringTag = none
          ∧ (∀ z, q.clp.zones.get z =
              (p.callCfg.defaultZones.get z && !((z = .hpLeft ∨ z = .hpRight) && (p.zone z).state == .off)))
          ∧ q.clp.admitted = ⟨q.clp.zones.front || q.clp.zones.driver, q.clp.zones.front,
              q.clp.zones.hpLeft || q.clp.zones.rearCabin, q.clp.zones.hpRight || q.clp.zones.rearCabin⟩
          ∧ (∀ k, q.clp.admitted.get k = true → (q.seat k).context = .training ∧ (q.seat k).sig = some q.clp.sig)
          ∧ q.clp.sig = { p.clp.sig with zones := q.clp.zones }
          ∧ (∀ r ∈ p.anu.waiting, r.cls ≠ .ring → r ∈ q.anu.waiting)
          ∧ q = { p with clp := q.clp, anu := q.anu, nfu := q.nfu, rlu := q.rlu })

/-- R133, R134, R148: CALL_HOLD and CALL_RESUME move the call between ACTIVE and HELD, all of it kept but the windows
of the contexts, which are dropped, and the uplink code, which is 384 while HELD. CALL_END ends the call from any
state. -/
def Obligations.CallsAreHeldResumedAndEnded : Prop :=
  (∀ (h : ReqHeader) (p : Part) (w : List Instr), p.takes 0x52 h = true →
    (p.clp.state ≠ .active → exec (.callHold h) ⟨p, w⟩ = .next ⟨answered 0x52 h .state [] p, w⟩)
    ∧ (p.clp.state = .active → exec (.callHold h) ⟨p, w⟩ = .next ⟨answered 0x52 h .ok [] { p with clp := { p.clp with
        state := .held, uplinkCode := 384
        seats := .of fun k => { p.seat k with windowOpen := false, micSum := 0, resSum := 0, refSum := 0 } } }, w⟩))
  ∧ (∀ (h : ReqHeader) (p : Part) (w : List Instr), p.takes 0x53 h = true → p.quiet = true → p.tst.latent = [] →
      (p.clp.state ≠ .held → exec (.callResume h) ⟨p, w⟩ = .next ⟨answered 0x53 h .state [] p, w⟩)
      ∧ (p.clp.state = .held → p.anu.playing = none →
          let k := p.clp.talker.getD p.clp.lastTalker
          exec (.callResume h) ⟨p, w⟩ = .next ⟨answered 0x53 h .ok [] { p with clp := { p.clp with
            state := .active
            uplinkCode := if p.clp.admitted.get k then
                codeSum [p.callCfg.uplinkBase, match (p.seat k).context with
                  | .training => 48
                  | .converged => 0
                  | .reset => 384, if p.clp.talker = none then p.callCfg.gateAtt else 0]
              else 384 } }, w⟩))
  ∧ ∀ (h : ReqHeader) (p : Part) (w : List Instr), p.takes 0x54 h = true →
      (p.clp.state = .idle → exec (.callEnd h) ⟨p, w⟩ = .next ⟨answered 0x54 h .ok [] p, w⟩)
      ∧ (p.clp.state ≠ .idle → ∃ q, exec (.callEnd h) ⟨p, w⟩ = .next ⟨answered 0x54 h .ok [] q, w⟩
          ∧ q.clp.state = .idle ∧ q.clp.isPrivate = false ∧ (∀ z, q.clp.zones.get z = false)
          ∧ (∀ k, q.clp.admitted.get k = false ∧ (q.seat k).context = .reset ∧ (q.seat k).sig = none)
          ∧ q.clp.ringTag = none ∧ q.clp.talker = none ∧ q.clp.lastTalker = .driver ∧ q.clp.aboveGate = none
          ∧ q.clp.uplinkCode = 384 ∧ (∀ r, q.anu.playing = some r → p.anu.playing = some r)
          ∧ q = { p with clp := q.clp, anu := q.anu, nfu := q.nfu, rlu := q.rlu })

/-- R135 to R139: CALL_PRIVATE makes the DRIVER zone the call's only one, and back; CALL_ZONES sets the zones, checked
in the order of Table 8.4; CALL_JOIN and CALL_LEAVE of an admitted seat put its headphone zone into the call and take
it out, answered DONE. The admitted seats follow the zones by Table 8.5: a seat that becomes admitted trains with the
new path signature, one that loses admission is RESET, and a talker that loses it is gone; a context that runs on
trains anew with the changed signature. A request that changes nothing leaves all of it. -/
def Obligations.CallZonesDecideTheSeats : Prop :=
  let seats := fun (zs : ZoneSet) => (⟨zs.front || zs.driver, zs.front, zs.hpLeft || zs.rearCabin,
    zs.hpRight || zs.rearCabin⟩ : PerSeat Bool)
  (∀ (h : ReqHeader) (p : Part) (w : List Instr), p.takes 0x55 h = true → p.tst.latent = [] →
    (∀ n, 2 ≤ n → exec (.callPrivate h n) ⟨p, w⟩ = .next ⟨answered 0x55 h .badValue [] p, w⟩)
    ∧ (∀ v : Bool, p.clp.state ≠ .active → p.clp.state ≠ .held →
        exec (.callPrivate h (codeOfBool v)) ⟨p, w⟩ = .next ⟨answered 0x55 h .state [] p, w⟩)
    ∧ (∀ v : Bool, (p.clp.state = .active ∨ p.clp.state = .held) →
        ∃ q, exec (.callPrivate h (codeOfBool v)) ⟨p, w⟩ = .next ⟨answered 0x55 h .ok [] q, w⟩
          ∧ q.clp.isPrivate = v ∧ q.clp.state = p.clp.state
          ∧ (p.clp.isPrivate = v → q = p)
          ∧ (v = true → p.clp.isPrivate = false → q.clp.zones = .of (fun z => z == .driver)
              ∧ q.clp.admitted = ⟨true, false, false, false⟩ ∧ p.seatsFollow q)
          ∧ (v = false → p.clp.isPrivate = true → (∀ z, q.clp.zones.get z =
              (p.callCfg.defaultZones.get z && !((z = .hpLeft ∨ z = .hpRight) && (p.zone z).state == .off)))
              ∧ q.clp.admitted = seats q.clp.zones ∧ p.seatsFollow q)
          ∧ q = { p with clp := q.clp, nfu := q.nfu, rlu := q.rlu }))
  ∧ (∀ (h : ReqHeader) (n : Nat) (p : Part) (w : List Instr), p.takes 0x56 h = true → p.tst.latent = [] →
      let run := exec (.callZones h n) ⟨p, w⟩
      let refused := fun r => Host.Outcome.next (⟨answered 0x56 h r [] p, w⟩ : State)
      (64 ≤ n ∨ n.testBit 4 = true → run = refused .badValue)
      ∧ (n < 64 → n.testBit 4 = false →
          (p.clp.state ≠ .active → p.clp.state ≠ .held → run = refused .state)
          ∧ (p.clp.state = .active ∨ p.clp.state = .held →
              (p.clp.isPrivate = true → run = refused .privateCall)
              ∧ (p.clp.isPrivate = false →
                  ((n.testBit 2 = true ∧ (p.zone .hpLeft).state = .off)
                      ∨ (n.testBit 3 = true ∧ (p.zone .hpRight).state = .off) → run = refused .state)
                  ∧ ((n.testBit 2 = true → (p.zone .hpLeft).state ≠ .off) →
                      (n.testBit 3 = true → (p.zone .hpRight).state ≠ .off) →
                      ∃ q, run = .next ⟨answered 0x56 h .ok [] q, w⟩
                        ∧ q.clp.zones = .of (fun z => n.testBit (zoneCode z))
                        ∧ q.clp.state = p.clp.state ∧ q.clp.isPrivate = false
                        ∧ (q.clp.zones = p.clp.zones → q = p)
                        ∧ (q.clp.zones ≠ p.clp.zones → q.clp.admitted = seats q.clp.zones ∧ p.seatsFollow q)
                        ∧ q = { p with clp := q.clp, nfu := q.nfu, rlu := q.rlu })))))
  ∧ ∀ (r : RearSeat) (p : Part) (w : List Instr), p.rif.addressValid = true → p.tst.latent = [] →
      p.rlu.assembler ≠ .handling → p.admissionPoisoned r = false → p.pwc.mode = .active → (p.clp.state = .active ∨ p.clp.state = .held) →
      p.clp.isPrivate = false → (p.zone r.zone).state ≠ .off →
      ((p.tst.admission.get r).flags.getLsbD 6 = true →
        ∃ q, exec (.callJoin r) ⟨p, w⟩ = .next ⟨q, w⟩ ∧ q.clp.zones = p.clp.zones.set r.zone true
          ∧ q.rlu.pending.get r = some .done ∧ q.clp.state = p.clp.state ∧ q.clp.isPrivate = false
          ∧ (p.clp.zones.get r.zone = true → q.clp = p.clp)
          ∧ (p.clp.zones.get r.zone = false → q.clp.admitted = seats q.clp.zones ∧ p.seatsFollow q)
          ∧ q = { p with clp := q.clp, nfu := q.nfu, rlu := q.rlu })
      ∧ ((p.tst.admission.get r).flags.getLsbD 7 = true → p.clp.zones.get r.zone = true →
        ∃ q, exec (.callLeave r) ⟨p, w⟩ = .next ⟨q, w⟩ ∧ q.clp.zones = p.clp.zones.set r.zone false
          ∧ q.rlu.pending.get r = some .done ∧ q.clp.state = p.clp.state ∧ q.clp.isPrivate = false
          ∧ q.clp.admitted = seats q.clp.zones ∧ p.seatsFollow q
          ∧ q = { p with clp := q.clp, nfu := q.nfu, rlu := q.rlu })

/-- R141, R142: METER_UPDATE of a running part whose window is open completes: the seat's level is the level of its
sum, and a new sum begins. That a window under way when its SEATS entry is found poisoned keeps its sum and is judged
by the window then in force is the model's choice (log entry 64). If the seat is admitted and the call ACTIVE the
talker is judged: with none, the best admitted seat at or below gate_level becomes it, and with no such seat there
stays none; the talker's own update starts or stops its above-gate time; the best seat replaces the talker when it is
louder by switch_margin, or the above-gate time has reached talker_hold, and a talker held above the gate that long
with no such seat is lost. Each change posts CALL_TALKER. R146, R147: ERLE_WINDOW_END in an ACTIVE call of a context
that runs completes: a counting window stores its figure and moves the context; one that does not count is dropped.
Elsewhere the two change nothing, the model's choice (log entry 10). -/
def Obligations.MetersAndCancellersJudgeTheirWindows : Prop :=
  (∀ (k : Seat) (p : Part) (w : List Instr), p.tst.latent = [] →
    (p.running = false ∨ (p.seat k).meterOpen = false → exec (.meterUpdate k) ⟨p, w⟩ = .next ⟨p, w⟩)
    ∧ (p.running = true → (p.seat k).meterOpen = true →
        ∃ q, exec (.meterUpdate k) ⟨p, w⟩ = .next ⟨q, w⟩
          ∧ q.seat k = { p.seat k with
              v := meterLevel (p.seat k).meterSum (p.seatCfg k).window, meterSum := 0 }
          ∧ (∀ j, j ≠ k → q.seat j = p.seat j)
          ∧ (let kept := q.clp.talker = p.clp.talker ∧ q.clp.lastTalker = p.clp.lastTalker ∧ q.nfu = p.nfu
            let becomes := fun (t : Seat) => q.clp.talker = some t ∧ q.clp.lastTalker = t ∧ q.clp.aboveGate = none
              ∧ q.nfu = p.nfu.post .callTalker 0 none
            (p.clp.state ≠ .active ∨ p.clp.admitted.get k = false → kept ∧ q.clp.aboveGate = p.clp.aboveGate)
            ∧ (p.clp.state = .active → p.clp.admitted.get k = true →
                (p.clp.talker = none →
                  (∀ b, q.bestSeat b → becomes b)
                  ∧ ((∀ j, q.clp.admitted.get j = true → p.callCfg.gateLevel < (q.seat j).v) →
                      kept ∧ q.clp.aboveGate = p.clp.aboveGate))
                ∧ ∀ t, p.clp.talker = some t →
                    let time := if t ≠ k then p.clp.aboveGate
                      else if (q.seat t).v ≤ p.callCfg.gateLevel then none else some (p.clp.aboveGate.getD 0)
                    let held := ∃ n, time = some n ∧ p.callCfg.talkerHold ≤ n
                    (∀ b, q.bestSeat b → b ≠ t → ((q.seat b).v + p.callCfg.switchMargin ≤ (q.seat t).v ∨ held) →
                        becomes b)
                    ∧ ((∀ j, q.clp.admitted.get j = true → p.callCfg.gateLevel < (q.seat j).v) → held →
                        q.clp.talker = none ∧ q.clp.lastTalker = p.clp.lastTalker ∧ q.clp.aboveGate = none
                          ∧ q.nfu = p.nfu.post .callTalker 0 none)
                    ∧ (¬ held → (∀ b, q.bestSeat b → b = t
                          ∨ (q.seat t).v < (q.seat b).v + p.callCfg.switchMargin) →
                        kept ∧ q.clp.aboveGate = time)
                    ∧ (q.bestSeat t → kept ∧ q.clp.aboveGate = time)))
          ∧ q = { p with nfu := q.nfu
                         clp := { p.clp with seats := q.clp.seats, talker := q.clp.talker
                                             lastTalker := q.clp.lastTalker, aboveGate := q.clp.aboveGate
                                             uplinkCode := q.clp.uplinkCode } }))
  ∧ ∀ (k : Seat) (p : Part) (w : List Instr), p.tst.latent = [] →
      (p.running = false ∨ (p.seat k).windowOpen = false ∨ p.clp.state ≠ .active ∨ (p.seat k).context = .reset →
        exec (.erleWindowEnd k) ⟨p, w⟩ = .next ⟨p, w⟩)
      ∧ (p.running = true → (p.seat k).windowOpen = true → p.clp.state = .active → (p.seat k).context ≠ .reset →
          (windowCounts (p.seat k) = false → exec (.erleWindowEnd k) ⟨p, w⟩
            = .next ⟨p.setSeat k { p.seat k with micSum := 0, resSum := 0, refSum := 0 }, w⟩)
          ∧ (windowCounts (p.seat k) = true →
              let e := erleOf (p.seat k).micSum (p.seat k).resSum
              let old := p.seat k
              ∃ q, exec (.erleWindowEnd k) ⟨p, w⟩ = .next ⟨q, w⟩ ∧ (q.seat k).erle = e ∧ (q.seat k).micSum = 0
                ∧ (q.seat k).resSum = 0 ∧ (q.seat k).refSum = 0
                ∧ (∀ j, j ≠ k → q.seat j = p.seat j)
                ∧ (old.context = .training → e < p.callCfg.convErle →
                    (q.seat k).context = .training ∧ (q.seat k).convTimer = 0)
                ∧ (old.context = .training → p.callCfg.convErle ≤ e → old.convTimer + 16 < 256 →
                    (q.seat k).context = .training ∧ (q.seat k).convTimer = old.convTimer + 16)
                ∧ (old.context = .training → p.callCfg.convErle ≤ e → 256 ≤ old.convTimer + 16 →
                    (q.seat k).context = .converged ∧ (q.seat k).convTimer = 0)
                ∧ (old.context = .converged → p.callCfg.divErle ≤ e →
                    (q.seat k).context = .converged ∧ (q.seat k).divTimer = 0)
                ∧ (old.context = .converged → e < p.callCfg.divErle → old.divTimer + 16 < 128 →
                    (q.seat k).context = .converged ∧ (q.seat k).divTimer = old.divTimer + 16)
                ∧ (old.context = .converged → e < p.callCfg.divErle → 128 ≤ old.divTimer + 16 →
                    (q.seat k).context = .training ∧ (q.seat k).filterClear = true
                      ∧ (q.seat k).divCount = min 65535 (old.divCount + 1))
                ∧ q.nfu = (if (q.seat k).context ≠ old.context ∧ k = p.clp.talker.getD p.clp.lastTalker then
                    p.nfu.post .canceller (seatCode k) none else p.nfu)
                ∧ q = { p with nfu := q.nfu
                               clp := { p.clp with seats := q.clp.seats, uplinkCode := q.clp.uplinkCode } }))

/-! ### Notices, faults, memory -/

/-- R169, R170: a scrub pass starts at the first entry; each visit checks the entry at its place and moves on, the
last one ending the pass. A double-bit error found in a DUCKS row poisons it, a single-bit error is corrected; each is
reported with table and entry. R71, R84: TUNE by the index of a free STATIONS entry, which nothing references, checks
its in-use field: with a single-bit error, corrected and reported, it is refused with NOT_FOUND. That with an
uncorrectable one, reported, it is refused with BAD_ENTRY and the index is left free with its mark set, is the model's
choice (log entry 83), and that BAD_ENTRY and NOT_FOUND come before POWER (log entry 86). That errors come in by SCRUB_VISIT and stand until a check meets them, outside a pass as in
one, is the model's choice (log entry 12), as is that SCRUB_PASS_START changes nothing in DORMANT (log entry 10). -/
def Obligations.ScrubberChecksEntryByEntry : Prop :=
  (∀ (p : Part) (w : List Instr), exec .scrubPassStart ⟨p, w⟩ = if p.running then
      .next ⟨{ p with tst := { p.tst with scrubbing := true, scrubPos := 0 } }, w⟩ else .next ⟨p, w⟩)
  ∧ (∀ (p : Part) (w : List Instr), p.running = true → p.tst.scrubbing = true → p.tst.latent = [] →
      p.tst.scrubPos < 214 →
      exec (.scrubVisit []) ⟨p, w⟩ = .next ⟨{ p with tst := { p.tst with
        scrubbing := decide (p.tst.scrubPos < 213)
        scrubPos := if p.tst.scrubPos < 213 then p.tst.scrubPos + 1 else 0 } }, w⟩)
  ∧ (∀ (u : Upset) (p : Part) (w : List Instr), (p.running = false ∨ p.tst.scrubbing = false) → p.tst.latent = [] →
      exec (.scrubVisit [u]) ⟨p, w⟩ = .next ⟨{ p with tst := { p.tst with latent := [u] } }, w⟩)
  ∧ (∀ (row : Nat) (double inUse : Bool) (p : Part) (w : List Instr), p.running = true → p.quiet = true →
      p.tst.scrubbing = true → row < 7 → p.tst.scrubPos = 71 + row → p.tst.latent = [] →
      p.unitPoisoned 5 row 0 = false →
      exec (.scrubVisit [⟨⟨5, row, 0⟩, double, inUse⟩]) ⟨p, w⟩ = .next ⟨{ p with
        tst := { p.tst with
          scrubPos := 72 + row
          poisoned := if double then p.tst.poisoned ++ [⟨5, row, 0⟩] else p.tst.poisoned }
        nfu := p.nfu.fault (if double then .uncorrectable else .corrected) (some 5) (some row) p.rif.ringTime }, w⟩)
  ∧ ∀ (h : ReqHeader) (z : ZoneId) (i f : Nat) (p : Part) (w : List Instr), p.takes 0x30 h = true → p.quiet = true →
      z.ownSource = true → i ≤ 47 → p.tst.stations.length = 48 → p.station i = none → p.entryPoisoned 8 i = false →
      let run := exec (.tune h (zoneCode z) 0 i f) ⟨p, w⟩
      (p.tst.latent = [⟨⟨8, i, 0⟩, false, true⟩] → run = .next ⟨answered 0x30 h .notFound [] { p with
          tst := { p.tst with latent := [] }
          nfu := p.nfu.fault .corrected (some 8) (some i) p.rif.ringTime }, w⟩)
      ∧ (p.tst.latent = [⟨⟨8, i, 0⟩, true, true⟩] → p.referenced i none = false →
          ∃ q, run = .next ⟨answered 0x30 h .badEntry [] q, w⟩ ∧ q.station i = none
            ∧ (q.tst.stations[i]?).any StationSlot.mark = true ∧ q.tst.poisoned = p.tst.poisoned ∧ q.tst.latent = []
            ∧ (∀ j, j ≠ i → q.tst.stations[j]? = p.tst.stations[j]?)
            ∧ q.nfu = (if (p.tst.stations[i]?).any StationSlot.mark then p.nfu
                else p.nfu.post .stationChanged 0 none).fault .uncorrectable (some 8) (some i) p.rif.ringTime
            ∧ q.tuc = p.tuc ∧ q.stm = p.stm)

/-! ### Power and the broadcasts -/

/-- R174, R175: POWER_DOWN is refused in ACTIVE with STATE, with a call with CALL_ACTIVE, in a ramp with BUSY;
otherwise it starts the ramp. The ramp ends in DORMANT when every applied code is 384, and at its 100th block with
every one set to 384; every prompt is discarded. That POWER_DOWN_RAMP_END acts beside the block's row, and changes
nothing before it is due, block 0 of the ramp among them, is the model's choice (log entries 11, 10). -/
def Obligations.PowerDownRampsIntoDormant : Prop :=
  (∀ (h : ReqHeader) (p : Part) (w : List Instr), p.takes 0x70 h = true →
    exec (.powerDown h) ⟨p, w⟩ =
      if p.pwc.mode = .active then .next ⟨answered 0x70 h .state [] p, w⟩
      else if p.clp.state ≠ .idle then .next ⟨answered 0x70 h .callActive [] p, w⟩
      else if p.pwc.ramp ≠ none then .next ⟨answered 0x70 h .busy [] p, w⟩
      else .next ⟨answered 0x70 h .ok [] { p with pwc := { p.pwc with ramp := some 0 } }, w⟩)
  ∧ ∀ (n : Nat) (p : Part) (w : List Instr), p.running = true → p.quiet = true → p.pwc.ramp = some n →
      (n = 0 ∨ (n < 100 ∧ ∃ z, (p.zone z).ent.applied ≠ 384 ∨ (p.zone z).prm.applied ≠ 384
          ∨ (p.zone z).call.applied ≠ 384) → exec .powerDownRampEnd ⟨p, w⟩ = .next ⟨p, w⟩)
      ∧ (1 ≤ n → (100 ≤ n ∨ ∀ z, (p.zone z).ent.applied = 384 ∧ (p.zone z).prm.applied = 384
            ∧ (p.zone z).call.applied = 384) →
          ∃ q, exec .powerDownRampEnd ⟨p, w⟩ = .next ⟨q, w⟩
            ∧ q.pwc = { p.pwc with mode := .dormant, ramp := none, lossCount := false, lossInDormant := false
                                   dormantCause := some .powerDown }
            ∧ (∀ z, q.zone z = { p.zone z with
                ent := { (p.zone z).ent with applied := 384 }, prm := { (p.zone z).prm with applied := 384 }
                call := { (p.zone z).call with applied := 384 } })
            ∧ q.anu.playing = none ∧ q.anu.waiting = [] ∧ q.anu.tagCounter = p.anu.tagCounter
            ∧ q = { p with pwc := q.pwc, zmx := q.zmx, anu := q.anu, rlu := q.rlu })

/-- R31, R33, R38, R45, R70, R145, R160, R173: VEHICLE_STATE from the head unit holds the ignition, the speed up to
300 and the tailgate. ACCESSORY and ON bring REDUCED to ACTIVE; OFF brings ACTIVE to REDUCED, every claim withdrawn
and the headphone zones and CARGO OFF; each move posts MODE_CHANGED. A change of tailgate changes the column in force
and the path signature. In ACTIVE an opening switches a CARGO that is OFF on, with its auto-on mark, where cargo-auto
is on: it takes FRONT's programme and state, with ZONE_LOST where that is LOST. A closing switches a CARGO with the
mark off. Any other change of tailgate leaves the zones as they are. From another node, or with values outside the
codes, the broadcast is ignored and counted. In DORMANT, as before the join, it changes nothing; that one ignored in
DORMANT is not counted is the model's choice (log entry 65). -/
def Obligations.VehicleStateMovesTheMode : Prop :=
  (∀ (src ig speed tg : Nat) (p : Part) (w : List Instr), p.takesBroadcasts = true →
    (src ≠ 0 ∨ 2 < ig ∨ 1 < tg) → exec (.vehicleState src ig speed tg) ⟨p, w⟩
      = .next ⟨{ p with rif := { p.rif with laneErrors := min 65535 (p.rif.laneErrors + 1) } }, w⟩)
  ∧ (∀ (src ig speed tg : Nat) (p : Part) (w : List Instr), p.takesBroadcasts = false →
      exec (.vehicleState src ig speed tg) ⟨p, w⟩ = .next ⟨p, w⟩)
  ∧ (∀ (g : Ignition) (ig speed : Nat) (p : Part) (w : List Instr), p.takesBroadcasts = true → p.quiet = true →
      p.tst.latent = [] → (ig = 0 ∧ g = .off ∨ ig = 1 ∧ g = .accessory ∨ ig = 2 ∧ g = .on) →
      let tg := codeOfBool p.rmx.tailgateOpen
      ((p.pwc.mode = .reduced ∧ g = .off) ∨ (p.pwc.mode = .active ∧ g ≠ .off) →
        exec (.vehicleState 0 ig speed tg) ⟨p, w⟩ = .next ⟨{ p with
          pwc := { p.pwc with ignition := g }, zmx := { p.zmx with speed := min 300 speed } }, w⟩)
      ∧ (p.pwc.mode = .reduced → g ≠ .off →
          ∃ q, exec (.vehicleState 0 ig speed tg) ⟨p, w⟩ = .next ⟨q, w⟩
            ∧ q.pwc = { p.pwc with ignition := g, mode := .active, ramp := none }
            ∧ q.zmx = { p.zmx with speed := min 300 speed } ∧ q.nfu = p.nfu.post .modeChanged 0 none
            ∧ (∀ r, (q.rlu.pending.get r).isSome = true)
            ∧ q = { p with pwc := q.pwc, zmx := q.zmx, nfu := q.nfu, rlu := q.rlu })
      ∧ (p.pwc.mode = .active → g = .off →
          ∃ q, exec (.vehicleState 0 ig speed tg) ⟨p, w⟩ = .next ⟨q, w⟩
            ∧ q.pwc = { p.pwc with ignition := .off, mode := .reduced } ∧ q.zmx.speed = min 300 speed
            ∧ (∀ t, (q.tuner t).claims = []) ∧ q.stm.scan = none
            ∧ (q.zone .hpLeft).state = .off ∧ (q.zone .hpRight).state = .off ∧ (q.zone .cargo).state = .off
            ∧ (let onAir := fun z => (p.zone z).source = .radio
                ∧ ((p.zone z).state = .pending ∨ (p.zone z).state = .playing)
              (q.zone .front).state = (if onAir .front then .lost else (p.zone .front).state)
              ∧ (q.zone .rearCabin).state = if onAir .rearCabin ∨ (onAir .front ∧ (p.zone .rearCabin).state ≠ .off)
                  then .lost else (p.zone .rearCabin).state)
            ∧ q.clp.state = p.clp.state
            ∧ (p.nfu.notices.length < 32 → (q.nfu.notices.any fun m => m.kind == .modeChanged) = true)))
  ∧ ∀ (ig speed : Nat) (p : Part) (w : List Instr), p.takesBroadcasts = true → p.quiet = true → p.tst.latent = [] →
      ig ≤ 2 → (p.pwc.mode = .active ∧ ig ≠ 0 ∨ p.pwc.mode = .reduced ∧ ig = 0) →
      let r := p.zone .cargo
      let front := p.zone .front
      let turnsOn := !p.rmx.tailgateOpen && p.cargoAuto && r.state == .off && p.pwc.mode == .active
      let turnsOff := p.rmx.tailgateOpen && r.autoOn && r.state != .off
      ∃ q, exec (.vehicleState 0 ig speed (codeOfBool (!p.rmx.tailgateOpen))) ⟨p, w⟩ = .next ⟨q, w⟩
        ∧ q.rmx = { p.rmx with tailgateOpen := !p.rmx.tailgateOpen }
        ∧ q.clp.sig = { p.clp.sig with openCol := !p.rmx.tailgateOpen }
        ∧ q.zmx = { p.zmx with
            speed := min 300 speed
            zones := if turnsOn then p.zmx.zones.set .cargo { r with
                source := front.source, chan := front.chan, station := front.station, code := front.code
                step := front.step, att := front.att, att2 := front.att2, held := front.held, autoOn := true
                state := if front.state = .off then .silent else front.state }
              else if turnsOff then p.zmx.zones.set .cargo { r with state := .off, autoOn := false }
              else p.zmx.zones }
        ∧ ((∀ k, (p.seat k).context = .reset) →
            q.nfu = if turnsOn && front.state == .lost then p.nfu.post .zoneLost 4 none else p.nfu)
        ∧ q.tst = p.tst ∧ q.tuc = p.tuc ∧ q.anu = p.anu ∧ q.pwc.mode = p.pwc.mode

/-- R155, R160: RING_TIME from the head unit sets the ring time; from another node it is ignored and counted. At each
render block the ring time rises by 1 and wraps. With it the Call Processor takes its render block, the model's choice
(log entry 19): the above-gate time counts while the call is ACTIVE, and windows begin. -/
def Obligations.RingTimeIsSetAndCounts : Prop :=
  (∀ (src n : Nat) (p : Part) (w : List Instr), n < 4294967296 → p.takesBroadcasts = true →
    exec (.ringTime src n) ⟨p, w⟩ = if src = 0 then .next ⟨{ p with rif := { p.rif with ringTime := n } }, w⟩
      else .next ⟨{ p with rif := { p.rif with laneErrors := min 65535 (p.rif.laneErrors + 1) } }, w⟩)
  ∧ ∀ (p : Part) (w : List Instr),
      (p.running = false → exec .ringTimeTick ⟨p, w⟩ = .next ⟨p, w⟩)
      ∧ (p.running = true → p.rif.ringTime < 4294967296 →
          ∃ q, exec .ringTimeTick ⟨p, w⟩ = .next ⟨q, w⟩
            ∧ q.rif = { p.rif with ringTime := if p.rif.ringTime = 4294967295 then 0 else p.rif.ringTime + 1 }
            ∧ q.clp = { p.clp with
                aboveGate := if p.clp.state = .active then p.clp.aboveGate.map (fun n => min 65535 (n + 1))
                  else p.clp.aboveGate
                seats := q.clp.seats }
            ∧ (∀ k, (q.seat k).meterOpen = true ∧ (q.seat k).v = (p.seat k).v
                ∧ (q.seat k).windowOpen = ((p.seat k).windowOpen
                    || decide (p.clp.state = .active ∧ (p.seat k).context ≠ .reset)))
            ∧ q = { p with rif := q.rif, clp := q.clp })

/-! ### The rear panel -/

/-- R117, R119, R121, R125, R126: the refusals of a rear request, in their order: not admitted (every flag reads DENY
while the entry is poisoned), a source that is not allowed, a mode other than ACTIVE. Each is the seat's pending
result and changes nothing else; STATE_QUERY is answered DONE by a report in any mode. The row of a request, with no
taken one in HANDLING, stands for its whole frame (log entry 13). R119, R122 to R125: what an admitted request of a
seat does to its headphone zone, or to REAR_CABIN's offset: its effect is the ring request's, on a zone that is on as
on one that is OFF, REAR_CHANGE is posted, and the result is the seat's pending report. HP_STATION chooses the
favourite of the number, or the next or the previous one; with none there it is answered NOT_FOUND; for a zone that is
OFF it leaves the station index and code as they were (log entry 26). That REAR_CHANGE is posted after the notices of
the request's effect is the model's choice (log entry 90). -/
def Obligations.RearRequestsAreAdmittedThenAct : Prop :=
  (∀ (c : Instr) (kind : Nat) (r : RearSeat) (args : List Byte) (p : Part) (w : List Instr),
     rearRequestOf c = some (kind, r, args) → c.wellFormed = true → p.rif.addressValid = true → p.tst.latent = [] →
     p.quiet = true → p.rlu.assembler ≠ .handling →
     let reported := fun x => Host.Outcome.next (⟨{ p with rlu := { p.rlu with
       pending := p.rlu.pending.set r (some x) } }, w⟩ : State)
     exec (.stateQuery r) ⟨p, w⟩ = reported .done
     ∧ (kind ≠ 9 → (p.admissionPoisoned r = true ∨ (p.tst.admission.get r).flags.getLsbD (kind - 1) = false) →
         exec c ⟨p, w⟩ = reported .denied)
     ∧ (kind ≠ 9 → p.admissionPoisoned r = false → (p.tst.admission.get r).flags.getLsbD (kind - 1) = true →
         let ok := (p.tst.admission.get r).allowed
         let denied := kind = 3 ∧ ok.radio = false ∨ kind = 2 ∧ (args = [1#8] ∧ ok.radio = false
           ∨ args = [2#8] ∧ ok.media1 = false ∨ args = [3#8] ∧ ok.media2 = false ∨ args = [4#8] ∧ ok.media3 = false
           ∨ args = [5#8] ∧ ok.media4 = false)
         (denied → exec c ⟨p, w⟩ = reported .sourceDenied)
         ∧ (¬ denied → p.pwc.mode ≠ .active → exec c ⟨p, w⟩ = reported .power)))
  ∧ ∀ (r : RearSeat) (p : Part) (w : List Instr), p.rif.addressValid = true → p.tst.latent = [] → p.quiet = true →
      p.rlu.assembler ≠ .handling →
      p.admissionPoisoned r = false → (p.tst.admission.get r).flags = 255#8 → p.pwc.mode = .active →
      let z := r.zone
      let reported := fun (x : RearResult) (q : Part) => Host.Outcome.next (⟨{ q with
        nfu := q.nfu.post .rearChange (rearCode r) none
        rlu := { q.rlu with pending := q.rlu.pending.set r (some x) } }, w⟩ : State)
      (∀ (h : ReqHeader) (v : Bool), p.takes 0x20 h = true →
          ∀ q, exec (.zonePower h (zoneCode z) (codeOfBool v)) ⟨p, w⟩ = .next ⟨answered 0x20 h .ok [] q, w⟩ →
            q.rif = p.rif → exec (.hpPower r (if v then 1 else 2)) ⟨p, w⟩ = reported .done q)
      ∧ (∀ (h : ReqHeader) (s : Source), p.takes 0x21 h = true →
          (s = .none ∨ allowedSource (p.tst.admission.get r).allowed s = true) →
          (∀ q, exec (.zoneSource h (zoneCode z) (sourceCode s)) ⟨p, w⟩ = .next ⟨answered 0x21 h .ok [] q, w⟩ →
            q.rif = p.rif → exec (.hpSource r (sourceCode s)) ⟨p, w⟩ = reported .done q)
          ∧ ∀ res x, (res = Result.tunerBusy ∧ x = RearResult.tunerBusy ∨ res = .state ∧ x = .state) →
            exec (.zoneSource h (zoneCode z) (sourceCode s)) ⟨p, w⟩ = .next ⟨answered 0x21 h res [] p, w⟩ →
            exec (.hpSource r (sourceCode s)) ⟨p, w⟩ = .next ⟨{ p with rlu := { p.rlu with
              pending := p.rlu.pending.set r (some x) } }, w⟩)
      ∧ (∀ (h : ReqHeader) (n i : Nat) (e : Station), p.takes 0x30 h = true → 1 ≤ n → n ≤ 12 →
          (p.tst.admission.get r).allowed.radio = true → p.station i = some e → e.favourite = some n →
          (∀ j, j ≠ i → (p.station j).bind Station.favourite ≠ some n) →
          ∀ q, exec (.tune h (zoneCode z) 0 i 0) ⟨p, w⟩ = .next ⟨answered 0x30 h .ok [] q, w⟩ → q.rif = p.rif →
            exec (.hpStation r n) ⟨p, w⟩ = reported .done q)
      ∧ ((p.tst.admission.get r).allowed.radio = true →
          (∀ n, n ≤ 12 → 1 ≤ n → (∀ j, (p.station j).bind Station.favourite ≠ some n) →
            exec (.hpStation r n) ⟨p, w⟩ = .next ⟨{ p with rlu := { p.rlu with
              pending := p.rlu.pending.set r (some .notFound) } }, w⟩)
          ∧ ∀ (i n : Nat) (e : Station), p.station i = some e → e.favourite = some n → 1 ≤ n → n ≤ 12 →
              (∀ j, j ≠ i → (p.station j).bind Station.favourite ≠ some n) →
              let here := ((p.zone z).station.bind p.station).bind Station.favourite
              let others := fun (P : Nat → Prop) => ∀ s ∈ p.tst.stations, ∀ m, s.entry.bind Station.favourite = some m → P m
              (((∃ m, here = some m ∧ m < n ∧ others fun x => x ≤ m ∨ n ≤ x)
                  ∨ ((here = none ∨ ∃ m, here = some m ∧ others fun x => x ≤ m) ∧ others fun x => n ≤ x)) →
                exec (.hpStation r 0x81) ⟨p, w⟩ = exec (.hpStation r n) ⟨p, w⟩)
              ∧ (((∃ m, here = some m ∧ n < m ∧ others fun x => m ≤ x ∨ x ≤ n)
                  ∨ ((here = none ∨ ∃ m, here = some m ∧ others fun x => m ≤ x) ∧ others fun x => x ≤ n)) →
                exec (.hpStation r 0x82) ⟨p, w⟩ = exec (.hpStation r n) ⟨p, w⟩))
      ∧ ((p.zone z).state ≠ .off → (p.zone z).source = .none → p.clp.zones.get z = false →
          p.tunersFree = true →
          ∃ q, exec (.hpPower r 2) ⟨p, w⟩ = .next ⟨q, w⟩ ∧ (q.zone z).state = .off
            ∧ (q.zone z).source = (p.zone z).source ∧ (q.zone z).step = (p.zone z).step
            ∧ q.rlu.pending.get r = some .done ∧ q.nfu = p.nfu.post .rearChange (rearCode r) none
            ∧ q = { p with zmx := q.zmx, rlu := q.rlu, nfu := q.nfu })
      ∧ ((p.zone z).state = .off → (p.zone z).source = .none →
          exec (.hpPower r 1) ⟨p, w⟩ = .next ⟨{ p.setZone z { p.zone z with state := .silent } with
            nfu := p.nfu.post .rearChange (rearCode r) none
            rlu := { p.rlu with pending := p.rlu.pending.set r (some .done) } }, w⟩)
      ∧ ((p.zone z).state = .off → ∀ s, (s = .none ∨ allowedSource (p.tst.admission.get r).allowed s = true) →
          exec (.hpSource r (sourceCode s)) ⟨p, w⟩ = .next ⟨{ p.setZone z { p.zone z with source := s } with
            nfu := p.nfu.post .rearChange (rearCode r) none
            rlu := { p.rlu with pending := p.rlu.pending.set r (some .done) } }, w⟩)
      ∧ (∀ n i e it, 1 ≤ n → n ≤ 12 → (p.tst.admission.get r).allowed.radio = true → (p.zone z).state = .off →
          (∀ j, j ≠ i → (p.station j).bind Station.favourite ≠ some n) → p.station i = some e →
          e.favourite = some n → bestItem e.items = some it →
          exec (.hpStation r n) ⟨p, w⟩
            = .next ⟨{ p.setZone z { p.zone z with source := .radio, chan := some ⟨e.band, it.freq⟩ } with
              nfu := p.nfu.post .rearChange (rearCode r) none
              rlu := { p.rlu with pending := p.rlu.pending.set r (some .done) } }, w⟩)
      ∧ (∀ n, n < 256 → exec (.hpVolume r n) ⟨p, w⟩
          = .next ⟨{ p.setZone z { p.zone z with step := min n (p.rlu.maxCopy.get r) } with
            nfu := p.nfu.post .rearChange (rearCode r) none
            rlu := { p.rlu with
              pending := p.rlu.pending.set r (some (if p.rlu.maxCopy.get r < n then .clamped else .done)) } }, w⟩)
      ∧ (∀ v : Bool, exec (.hpMute r (if v then 1 else 2)) ⟨p, w⟩
          = .next ⟨{ p.setZone z { p.zone z with mute := v } with
            nfu := p.nfu.post .rearChange (rearCode r) none
            rlu := { p.rlu with pending := p.rlu.pending.set r (some .done) } }, w⟩)
      ∧ (∀ up : Bool, p.unitPoisoned 3 1 0 = false →
          let old : Int := p.tst.zones.rearCabin.followOffset
          let new : Int := if up then old + 4 else old - 4
          exec (.cabinOffset r (if up then 1 else 2)) ⟨p, w⟩ = .next ⟨{ p with
            tst := { p.tst with zones := { p.tst.zones with rearCabin := { p.tst.zones.rearCabin with
              followOffset := (max 0 (min 96 new)).toNat } } }
            nfu := p.nfu.post .rearChange (rearCode r) none
            rlu := { p.rlu with
              pending := p.rlu.pending.set r (some (if 0 ≤ new ∧ new ≤ 96 then .done else .clamped)) } }, w⟩)

/-- R114 to R116, R118: a byte without its stop bit is a line error and one at a full FIFO an overflow that empties
it; each abandons the frame, is counted and is reported. In HANDLING the taken request is kept through both, and a
byte waits in the FIFO. An idle line in the midst of a frame is a frame error. In HUNT a byte that is not SYNC is
dropped, and an idle line changes nothing, the model's choice (log entry 10). Nothing is taken while the node address
is invalid (section 11.6; that such bytes leave no trace is log entry 31). -/
def Obligations.RearLineErrorsAreCounted : Prop :=
  ∀ (b : Byte) (p : Part) (w : List Instr),
    let fault := p.nfu.fault .rearLink none none p.rif.ringTime
    (p.rif.addressValid = false → ∀ stop, exec (.rearByteReceived b stop) ⟨p, w⟩ = .next ⟨p, w⟩)
    ∧ (p.rif.addressValid = true →
        (p.rlu.assembler ≠ .handling →
          exec (.rearByteReceived b false) ⟨p, w⟩ = .next ⟨{ p with nfu := fault, rlu := { p.rlu with
            lineErrors := min 65535 (p.rlu.lineErrors + 1), assembler := .hunt, frame := [], length := 0 } }, w⟩
          ∧ (32 ≤ p.rlu.fifo.length →
            exec (.rearByteReceived b true) ⟨p, w⟩ = .next ⟨{ p with nfu := fault, rlu := { p.rlu with
              overflows := min 65535 (p.rlu.overflows + 1), fifo := [], assembler := .hunt, frame := []
              length := 0 } }, w⟩))
        ∧ (p.rlu.assembler = .handling →
          exec (.rearByteReceived b false) ⟨p, w⟩ = .next ⟨{ p with nfu := fault, rlu := { p.rlu with
            lineErrors := min 65535 (p.rlu.lineErrors + 1) } }, w⟩
          ∧ exec (.rearByteReceived b true) ⟨p, w⟩ = if p.rlu.fifo.length < 32 then
              .next ⟨{ p with rlu := { p.rlu with fifo := p.rlu.fifo ++ [b] } }, w⟩
            else .next ⟨{ p with nfu := fault, rlu := { p.rlu with
              overflows := min 65535 (p.rlu.overflows + 1), fifo := [] } }, w⟩)
        ∧ (p.rlu.fifo = [] → p.rlu.assembler = .hunt → b ≠ 0xA5#8 →
          exec (.rearByteReceived b true) ⟨p, w⟩ = .next ⟨p, w⟩)
        ∧ (p.rlu.fifo = [] → p.rlu.assembler = .length → (b.toNat < 4 ∨ 16 < b.toNat) →
          exec (.rearByteReceived b true) ⟨p, w⟩ = .next ⟨{ p with nfu := fault, rlu := { p.rlu with
            frameErrors := min 65535 (p.rlu.frameErrors + 1), assembler := .hunt, frame := [], length := 0 } }, w⟩))
    ∧ (p.rif.addressValid = true → p.rlu.fifo = [] → (p.rlu.assembler = .length ∨ p.rlu.assembler = .body) →
        exec .rearIdleTimeout ⟨p, w⟩ = .next ⟨{ p with nfu := fault, rlu := { p.rlu with
          frameErrors := min 65535 (p.rlu.frameErrors + 1), assembler := .hunt, frame := [], length := 0 } }, w⟩)
    ∧ (p.rlu.assembler = .hunt → exec .rearIdleTimeout ⟨p, w⟩ = .next ⟨p, w⟩)

/-- R126 and Table 7.7: a change that a seat's view shows queues a report with no new result, and nothing else
changes. R127 and Table 12.7: the transmitter starts the report of the seat that has one pending, of two the seat not
sent last; the report is no longer pending, and its frame gives the seat's state as it stands, every field of Table
12.7, with a sum of 0. That the frame goes out in one step is the model's choice (log entry 34), as is that with none
pending nothing happens (log entry 10). -/
def Obligations.RearReportsAreQueuedAndSentInTurn : Prop :=
  (∀ p q : Part, noteReports p q = { q with rlu := { q.rlu with pending := (noteReports p q).rlu.pending } }
     ∧ ∀ r, (noteReports p q).rlu.pending.get r =
         if reportView p r = reportView q r then q.rlu.pending.get r
         else some ((q.rlu.pending.get r).getD .none))
  ∧ (∀ (r : RearSeat) (x : RearResult) (p : Part) (w : List Instr), p.rif.addressValid = true → p.tst.latent = [] →
      p.rlu.pending.get r = some x → (p.rlu.pending.get r.other = none ∨ p.rlu.lastSent = r.other) →
      ∃ bytes, exec .reportSend ⟨p, w⟩ = .next ⟨{ p with rlu := { p.rlu with
          pending := p.rlu.pending.set r none, lastSent := r, sent := bytes } }, w⟩
        ∧ ((∀ l, ((p.zone r.zone).station.bind p.station).bind Station.label = some l → l.length = 8) →
            bytes.length = 23)
        ∧ (bytes.map BitVec.toNat).sum % 256 = 0 ∧ bytes.take 4 = [0xA5#8, 23#8, 0x40#8, if r = .left then 1#8 else 2#8]
        ∧ bytes[4]? = some (BitVec.ofNat 8 (rearResultCode x))
        ∧ bytes[5]? = some (BitVec.ofNat 8 (zoneStateCode (p.zone r.zone).state))
        ∧ bytes[6]? = some (BitVec.ofNat 8 (sourceCode (p.zone r.zone).source))
        ∧ (let z := p.zone r.zone
          let label := (z.station.bind p.station).bind Station.label
          let station := if z.source ≠ .radio then List.replicate 9 0#8
            else match label, z.code with
              | some l, _ => 1#8 :: l
              | none, some c => 2#8 :: byte2 c ++ List.replicate 6 0#8
              | none, none => List.replicate 9 0#8
          let tail := [BitVec.ofNat 8 z.step, BitVec.ofNat 8 (p.rlu.maxCopy.get r), BitVec.ofNat 8 (codeOfBool z.mute),
            if p.clp.zones.get r.zone = true then 2#8
              else if (p.clp.state = .active ∨ p.clp.state = .held) ∧ p.clp.isPrivate = false ∧ z.state ≠ .off then 1#8
              else 0#8,
            if p.admissionPoisoned r = true then 0#8 else (p.tst.admission.get r).flags,
            BitVec.ofNat 8 (modeCode p.pwc.mode)]
          (bytes.drop 7).take (station.length + 6) = station ++ tail ∧ bytes.length = station.length + 14))
    ∧ ∀ (p : Part) (w : List Instr), p.rlu.pending.left = none → p.rlu.pending.right = none →
        exec .reportSend ⟨p, w⟩ = .next ⟨p, w⟩

/-! ### What every command keeps -/

/-- R167: the notice queue holds at most 32 notices, no two with the same kind and subject, each counted 1 to 255:
every command keeps it so, in any state in which it is so. -/
def Obligations.NoticeQueueStaysSound : Prop :=
  ∀ (s t : State), s.part.nfu.Sound → step s = .next t → t.part.nfu.Sound

/-- R150: no command but POWER_ON changes the node address, or whether it is valid. -/
def Obligations.AddressChangesOnlyAtPowerOn : Prop :=
  ∀ (c : Instr) (s t : State), readsStraps c = false → exec c s = .next t →
    t.part.rif.address = s.part.rif.address ∧ t.part.rif.addressValid = s.part.rif.addressValid
end

