-- ==== Sys2Proof/Laws/Keep.lean ====
section
/-! SUPPORT. What the frame lemmas stand on: a fold of steps that leave a block as it was leaves it so; and what the
operations do to the Notice and Fault Unit, which is to post notices and to report faults. -/

namespace Sys2Proof.Machine

/-- `m` comes from `n` by posting notices and reporting faults (R167, R171). -/
inductive Posts (n : Nfu) : Nfu → Prop
  | refl : Posts n n
  | post {m : Nfu} (k : NoticeKind) (subject : Nat) (value : Option Nat) : Posts n m → Posts n (m.post k subject value)
  | fault {m : Nfu} (k : FaultKind) (subject entry : Option Nat) (time : Nat) :
      Posts n m → Posts n (m.fault k subject entry time)

@[simp] theorem Posts.then_post {n m : Nfu} {k : NoticeKind} {i : Nat} {v : Option Nat} (h : Posts n m) :
    Posts n (m.post k i v) := .post k i v h

@[simp] theorem Posts.then_fault {n m : Nfu} {k : FaultKind} {i e : Option Nat} {t : Nat} (h : Posts n m) :
    Posts n (m.fault k i e t) := .fault k i e t h

@[simp] theorem Posts.rfl' (n : Nfu) : Posts n n := .refl

variable {α : Type} (l : List α) (f : Part → α → Part) (p : Part)

theorem foldl_keeps {β : Type} (g : Part → β) (h : ∀ q a, g (f q a) = g q) : g (l.foldl f p) = g p := by
  induction l generalizing p with
  | nil => rfl
  | cons a l ih => rw [List.foldl_cons, ih, h]

@[simp] theorem foldl_rif (h : ∀ q a, (f q a).rif = q.rif) : (l.foldl f p).rif = p.rif := foldl_keeps l f p Part.rif h
@[simp] theorem foldl_tst (h : ∀ q a, (f q a).tst = q.tst) : (l.foldl f p).tst = p.tst := foldl_keeps l f p Part.tst h
@[simp] theorem foldl_zmx (h : ∀ q a, (f q a).zmx = q.zmx) : (l.foldl f p).zmx = p.zmx := foldl_keeps l f p Part.zmx h
@[simp] theorem foldl_rmx (h : ∀ q a, (f q a).rmx = q.rmx) : (l.foldl f p).rmx = p.rmx := foldl_keeps l f p Part.rmx h
@[simp] theorem foldl_tuc (h : ∀ q a, (f q a).tuc = q.tuc) : (l.foldl f p).tuc = p.tuc := foldl_keeps l f p Part.tuc h
@[simp] theorem foldl_stm (h : ∀ q a, (f q a).stm = q.stm) : (l.foldl f p).stm = p.stm := foldl_keeps l f p Part.stm h
@[simp] theorem foldl_anu (h : ∀ q a, (f q a).anu = q.anu) : (l.foldl f p).anu = p.anu := foldl_keeps l f p Part.anu h
@[simp] theorem foldl_rlu (h : ∀ q a, (f q a).rlu = q.rlu) : (l.foldl f p).rlu = p.rlu := foldl_keeps l f p Part.rlu h
@[simp] theorem foldl_clp (h : ∀ q a, (f q a).clp = q.clp) : (l.foldl f p).clp = p.clp := foldl_keeps l f p Part.clp h
@[simp] theorem foldl_nfu (h : ∀ q a, (f q a).nfu = q.nfu) : (l.foldl f p).nfu = p.nfu := foldl_keeps l f p Part.nfu h
@[simp] theorem foldl_pwc (h : ∀ q a, (f q a).pwc = q.pwc) : (l.foldl f p).pwc = p.pwc := foldl_keeps l f p Part.pwc h
@[simp] theorem foldl_draws (h : ∀ q a, (f q a).draws = q.draws) : (l.foldl f p).draws = p.draws :=
  foldl_keeps l f p Part.draws h

@[simp] theorem ite_rif (c : Prop) [Decidable c] (a b : Part) :
    (if c then a else b).rif = if c then a.rif else b.rif := by split <;> rfl
@[simp] theorem ite_tst (c : Prop) [Decidable c] (a b : Part) :
    (if c then a else b).tst = if c then a.tst else b.tst := by split <;> rfl
@[simp] theorem ite_zmx (c : Prop) [Decidable c] (a b : Part) :
    (if c then a else b).zmx = if c then a.zmx else b.zmx := by split <;> rfl
@[simp] theorem ite_rmx (c : Prop) [Decidable c] (a b : Part) :
    (if c then a else b).rmx = if c then a.rmx else b.rmx := by split <;> rfl
@[simp] theorem ite_tuc (c : Prop) [Decidable c] (a b : Part) :
    (if c then a else b).tuc = if c then a.tuc else b.tuc := by split <;> rfl
@[simp] theorem ite_stm (c : Prop) [Decidable c] (a b : Part) :
    (if c then a else b).stm = if c then a.stm else b.stm := by split <;> rfl
@[simp] theorem ite_anu (c : Prop) [Decidable c] (a b : Part) :
    (if c then a else b).anu = if c then a.anu else b.anu := by split <;> rfl
@[simp] theorem ite_rlu (c : Prop) [Decidable c] (a b : Part) :
    (if c then a else b).rlu = if c then a.rlu else b.rlu := by split <;> rfl
@[simp] theorem ite_clp (c : Prop) [Decidable c] (a b : Part) :
    (if c then a else b).clp = if c then a.clp else b.clp := by split <;> rfl
@[simp] theorem ite_nfu (c : Prop) [Decidable c] (a b : Part) :
    (if c then a else b).nfu = if c then a.nfu else b.nfu := by split <;> rfl
@[simp] theorem ite_pwc (c : Prop) [Decidable c] (a b : Part) :
    (if c then a else b).pwc = if c then a.pwc else b.pwc := by split <;> rfl
@[simp] theorem ite_draws (c : Prop) [Decidable c] (a b : Part) :
    (if c then a else b).draws = if c then a.draws else b.draws := by split <;> rfl

theorem foldl_posts {n₀ : Nfu} (h : ∀ q a, Posts n₀ q.nfu → Posts n₀ (f q a).nfu) (hp : Posts n₀ p.nfu) :
    Posts n₀ (l.foldl f p).nfu := by
  induction l generalizing p with
  | nil => exact hp
  | cons a l ih => exact ih _ (h _ _ hp)

@[simp] theorem foldl_posts' {n₀ : Nfu} (hp : Posts n₀ p.nfu) (h : ∀ q a, Posts n₀ q.nfu → Posts n₀ (f q a).nfu) :
    Posts n₀ (l.foldl f p).nfu := foldl_posts l f p h hp

theorem ite_posts {n₀ : Nfu} (c : Prop) [Decidable c] (a b : Nfu) (ha : Posts n₀ a) (hb : Posts n₀ b) :
    Posts n₀ (if c then a else b) := by split <;> assumption

@[simp] theorem ite_posts' {n₀ : Nfu} (c : Prop) [Decidable c] (a b : Nfu) (ha : Posts n₀ a) (hb : Posts n₀ b) :
    Posts n₀ (if c then a else b) := ite_posts c a b ha hb

end Sys2Proof.Machine
end

