-- ==== Sys2Proof/Laws/Frames.lean ====
section
/-! SUPPORT. The frames of the shared operations, of the Table Store, the Announcement Unit, the Station Manager and the
Tuner Controller: which blocks of the part each leaves as they were, and that what it does to the notices is to post. -/

namespace Sys2Proof.Machine

/-! ### Operands -/

@[simp] theorem Part.setZone_frame (p : Part) (z : ZoneId) (r : Zone) :
    (Part.setZone p z r).rif = p.rif ∧ (Part.setZone p z r).tst = p.tst ∧ (Part.setZone p z r).rmx = p.rmx ∧
      (Part.setZone p z r).tuc = p.tuc ∧ (Part.setZone p z r).stm = p.stm ∧ (Part.setZone p z r).anu = p.anu ∧
      (Part.setZone p z r).rlu = p.rlu ∧ (Part.setZone p z r).clp = p.clp ∧ (Part.setZone p z r).nfu = p.nfu ∧
      (Part.setZone p z r).pwc = p.pwc ∧ (Part.setZone p z r).draws = p.draws := by simp [Part.setZone]

@[simp] theorem Part.setTuner_frame (p : Part) (t : TunerId) (r : Tuner) :
    (Part.setTuner p t r).rif = p.rif ∧ (Part.setTuner p t r).tst = p.tst ∧ (Part.setTuner p t r).zmx = p.zmx ∧
      (Part.setTuner p t r).rmx = p.rmx ∧ (Part.setTuner p t r).stm = p.stm ∧ (Part.setTuner p t r).anu = p.anu
      ∧ (Part.setTuner p t r).rlu = p.rlu ∧ (Part.setTuner p t r).clp = p.clp ∧ (Part.setTuner p t r).nfu =
      p.nfu ∧ (Part.setTuner p t r).pwc = p.pwc ∧ (Part.setTuner p t r).draws = p.draws := by simp [Part.setTuner]

@[simp] theorem Part.setFollow_frame (p : Part) (t : TunerId) (f : Follow) :
    (Part.setFollow p t f).rif = p.rif ∧ (Part.setFollow p t f).tst = p.tst ∧ (Part.setFollow p t f).zmx = p.zmx
      ∧ (Part.setFollow p t f).rmx = p.rmx ∧ (Part.setFollow p t f).tuc = p.tuc ∧ (Part.setFollow p t f).anu =
      p.anu ∧ (Part.setFollow p t f).rlu = p.rlu ∧ (Part.setFollow p t f).clp = p.clp ∧ (Part.setFollow p t
      f).nfu = p.nfu ∧ (Part.setFollow p t f).pwc = p.pwc ∧ (Part.setFollow p t f).draws = p.draws := by simp [Part.setFollow]

@[simp] theorem Part.setSeat_frame (p : Part) (k : Seat) (r : SeatRt) :
    (Part.setSeat p k r).rif = p.rif ∧ (Part.setSeat p k r).tst = p.tst ∧ (Part.setSeat p k r).zmx = p.zmx ∧
      (Part.setSeat p k r).rmx = p.rmx ∧ (Part.setSeat p k r).tuc = p.tuc ∧ (Part.setSeat p k r).stm = p.stm ∧
      (Part.setSeat p k r).anu = p.anu ∧ (Part.setSeat p k r).rlu = p.rlu ∧ (Part.setSeat p k r).nfu = p.nfu ∧
      (Part.setSeat p k r).pwc = p.pwc ∧ (Part.setSeat p k r).draws = p.draws := by simp [Part.setSeat]

@[simp] theorem Part.setBank_frame (p : Part) (k : BankId) (es : List RenderEntry) :
    (Part.setBank p k es).rif = p.rif ∧ (Part.setBank p k es).zmx = p.zmx ∧ (Part.setBank p k es).rmx = p.rmx ∧
      (Part.setBank p k es).tuc = p.tuc ∧ (Part.setBank p k es).stm = p.stm ∧ (Part.setBank p k es).anu = p.anu
      ∧ (Part.setBank p k es).rlu = p.rlu ∧ (Part.setBank p k es).clp = p.clp ∧ (Part.setBank p k es).nfu =
      p.nfu ∧ (Part.setBank p k es).pwc = p.pwc ∧ (Part.setBank p k es).draws = p.draws := by
  unfold Part.setBank; split <;> simp

@[simp] theorem Part.updStation_frame (p : Part) (i : Nat) (f : StationSlot → StationSlot) :
    (Part.updStation p i f).rif = p.rif ∧ (Part.updStation p i f).zmx = p.zmx ∧ (Part.updStation p i f).rmx =
      p.rmx ∧ (Part.updStation p i f).tuc = p.tuc ∧ (Part.updStation p i f).stm = p.stm ∧ (Part.updStation p i
      f).anu = p.anu ∧ (Part.updStation p i f).rlu = p.rlu ∧ (Part.updStation p i f).clp = p.clp ∧
      (Part.updStation p i f).nfu = p.nfu ∧ (Part.updStation p i f).pwc = p.pwc ∧ (Part.updStation p i f).draws
      = p.draws := by simp [Part.updStation]

/-! ### Flags -/

@[simp] theorem Part.post_frame (p : Part) (k : NoticeKind) (subject : Nat) (value : Option Nat) :
    (Part.post p k subject value).rif = p.rif ∧ (Part.post p k subject value).tst = p.tst ∧ (Part.post p k
      subject value).zmx = p.zmx ∧ (Part.post p k subject value).rmx = p.rmx ∧ (Part.post p k subject value).tuc
      = p.tuc ∧ (Part.post p k subject value).stm = p.stm ∧ (Part.post p k subject value).anu = p.anu ∧
      (Part.post p k subject value).rlu = p.rlu ∧ (Part.post p k subject value).clp = p.clp ∧ (Part.post p k
      subject value).pwc = p.pwc ∧ (Part.post p k subject value).draws = p.draws := by simp [Part.post]

@[simp] theorem Part.post_posts {n₀ : Nfu} (p : Part) (k : NoticeKind) (subject : Nat) (value : Option Nat) (h :
  Posts n₀ p.nfu) : Posts n₀ (Part.post p k subject value).nfu := by
  simp [Part.post, h]

@[simp] theorem Part.fault_frame (p : Part) (k : FaultKind) (subject entry : Option Nat) :
    (Part.fault p k subject entry).rif = p.rif ∧ (Part.fault p k subject entry).tst = p.tst ∧ (Part.fault p k
      subject entry).zmx = p.zmx ∧ (Part.fault p k subject entry).rmx = p.rmx ∧ (Part.fault p k subject
      entry).tuc = p.tuc ∧ (Part.fault p k subject entry).stm = p.stm ∧ (Part.fault p k subject entry).anu =
      p.anu ∧ (Part.fault p k subject entry).rlu = p.rlu ∧ (Part.fault p k subject entry).clp = p.clp ∧
      (Part.fault p k subject entry).pwc = p.pwc ∧ (Part.fault p k subject entry).draws = p.draws := by simp [Part.fault]

@[simp] theorem Part.fault_posts {n₀ : Nfu} (p : Part) (k : FaultKind) (subject entry : Option Nat) (h : Posts
  n₀ p.nfu) : Posts n₀ (Part.fault p k subject entry).nfu := by
  simp [Part.fault, h]

@[simp] theorem Part.queueReport_frame (p : Part) (r : RearSeat) (event : Option RearResult) :
    (Part.queueReport p r event).rif = p.rif ∧ (Part.queueReport p r event).tst = p.tst ∧ (Part.queueReport p r
      event).zmx = p.zmx ∧ (Part.queueReport p r event).rmx = p.rmx ∧ (Part.queueReport p r event).tuc = p.tuc ∧
      (Part.queueReport p r event).stm = p.stm ∧ (Part.queueReport p r event).anu = p.anu ∧ (Part.queueReport p
      r event).clp = p.clp ∧ (Part.queueReport p r event).nfu = p.nfu ∧ (Part.queueReport p r event).pwc = p.pwc
      ∧ (Part.queueReport p r event).draws = p.draws := by simp [Part.queueReport]

@[simp] theorem noteReports_frame (before p : Part) :
    (noteReports before p).rif = p.rif ∧ (noteReports before p).tst = p.tst ∧ (noteReports before p).zmx = p.zmx
      ∧ (noteReports before p).rmx = p.rmx ∧ (noteReports before p).tuc = p.tuc ∧ (noteReports before p).stm =
      p.stm ∧ (noteReports before p).anu = p.anu ∧ (noteReports before p).clp = p.clp ∧ (noteReports before
      p).nfu = p.nfu ∧ (noteReports before p).pwc = p.pwc ∧ (noteReports before p).draws = p.draws := by simp [noteReports]

@[simp] theorem recodeUplink_frame (p : Part) :
    (recodeUplink p).rif = p.rif ∧ (recodeUplink p).tst = p.tst ∧ (recodeUplink p).zmx = p.zmx ∧ (recodeUplink
      p).rmx = p.rmx ∧ (recodeUplink p).tuc = p.tuc ∧ (recodeUplink p).stm = p.stm ∧ (recodeUplink p).anu =
      p.anu ∧ (recodeUplink p).rlu = p.rlu ∧ (recodeUplink p).nfu = p.nfu ∧ (recodeUplink p).pwc = p.pwc ∧
      (recodeUplink p).draws = p.draws := by simp [recodeUplink]

/-! ### Claims -/

@[simp] theorem issue_frame (t : TunerId) (cmd : LinkCmd) (p : Part) :
    (issue t cmd p).rif = p.rif ∧ (issue t cmd p).tst = p.tst ∧ (issue t cmd p).zmx = p.zmx ∧ (issue t cmd
      p).rmx = p.rmx ∧ (issue t cmd p).stm = p.stm ∧ (issue t cmd p).anu = p.anu ∧ (issue t cmd p).rlu = p.rlu ∧
      (issue t cmd p).clp = p.clp ∧ (issue t cmd p).pwc = p.pwc ∧ (issue t cmd p).draws = p.draws := by simp [issue]

@[simp] theorem issue_posts {n₀ : Nfu} (t : TunerId) (cmd : LinkCmd) (p : Part) (h : Posts n₀ p.nfu) : Posts n₀
  (issue t cmd p).nfu := by
  simp [issue, h]

@[simp] theorem tuneStart_frame (t : TunerId) (c : Chan) (note : Option ZoneId) (checking : Bool) (p : Part) :
    (tuneStart t c note checking p).rif = p.rif ∧ (tuneStart t c note checking p).tst = p.tst ∧ (tuneStart t c
      note checking p).zmx = p.zmx ∧ (tuneStart t c note checking p).rmx = p.rmx ∧ (tuneStart t c note checking
      p).anu = p.anu ∧ (tuneStart t c note checking p).rlu = p.rlu ∧ (tuneStart t c note checking p).clp = p.clp
      ∧ (tuneStart t c note checking p).pwc = p.pwc ∧ (tuneStart t c note checking p).draws = p.draws := by simp [tuneStart]

@[simp] theorem tuneStart_posts {n₀ : Nfu} (t : TunerId) (c : Chan) (note : Option ZoneId) (checking : Bool) (p
  : Part) (h : Posts n₀ p.nfu) : Posts n₀ (tuneStart t c note checking p).nfu := by
  simp [tuneStart, h]

@[simp] theorem setClaims_frame (t : TunerId) (cs : List Claim) (p : Part) :
    (setClaims t cs p).rif = p.rif ∧ (setClaims t cs p).tst = p.tst ∧ (setClaims t cs p).zmx = p.zmx ∧
      (setClaims t cs p).rmx = p.rmx ∧ (setClaims t cs p).stm = p.stm ∧ (setClaims t cs p).anu = p.anu ∧
      (setClaims t cs p).rlu = p.rlu ∧ (setClaims t cs p).clp = p.clp ∧ (setClaims t cs p).nfu = p.nfu ∧
      (setClaims t cs p).pwc = p.pwc ∧ (setClaims t cs p).draws = p.draws := by simp [setClaims]

@[simp] theorem idleTuner_frame (t : TunerId) (p : Part) :
    (idleTuner t p).rif = p.rif ∧ (idleTuner t p).tst = p.tst ∧ (idleTuner t p).zmx = p.zmx ∧ (idleTuner t
      p).rmx = p.rmx ∧ (idleTuner t p).anu = p.anu ∧ (idleTuner t p).rlu = p.rlu ∧ (idleTuner t p).clp = p.clp ∧
      (idleTuner t p).pwc = p.pwc ∧ (idleTuner t p).draws = p.draws := by simp [idleTuner]

@[simp] theorem idleTuner_posts {n₀ : Nfu} (t : TunerId) (p : Part) (h : Posts n₀ p.nfu) : Posts n₀ (idleTuner t
  p).nfu := by
  simp [idleTuner, h]

@[simp] theorem idleIfFree_frame (t : TunerId) (p : Part) :
    (idleIfFree t p).rif = p.rif ∧ (idleIfFree t p).tst = p.tst ∧ (idleIfFree t p).zmx = p.zmx ∧ (idleIfFree t
      p).rmx = p.rmx ∧ (idleIfFree t p).anu = p.anu ∧ (idleIfFree t p).rlu = p.rlu ∧ (idleIfFree t p).clp =
      p.clp ∧ (idleIfFree t p).pwc = p.pwc ∧ (idleIfFree t p).draws = p.draws := by simp [idleIfFree]

@[simp] theorem idleIfFree_posts {n₀ : Nfu} (t : TunerId) (p : Part) (h : Posts n₀ p.nfu) : Posts n₀ (idleIfFree
  t p).nfu := by
  simp [idleIfFree, h]

@[simp] theorem detach_frame (z : ZoneId) (p : Part) :
    (detach z p).rif = p.rif ∧ (detach z p).tst = p.tst ∧ (detach z p).rmx = p.rmx ∧ (detach z p).tuc = p.tuc ∧
      (detach z p).stm = p.stm ∧ (detach z p).anu = p.anu ∧ (detach z p).rlu = p.rlu ∧ (detach z p).clp = p.clp
      ∧ (detach z p).nfu = p.nfu ∧ (detach z p).pwc = p.pwc ∧ (detach z p).draws = p.draws := by simp [detach]

@[simp] theorem attach_frame (z : ZoneId) (t : TunerId) (t2 : Option TunerId) (p : Part) :
    (attach z t t2 p).rif = p.rif ∧ (attach z t t2 p).tst = p.tst ∧ (attach z t t2 p).rmx = p.rmx ∧ (attach z t
      t2 p).tuc = p.tuc ∧ (attach z t t2 p).stm = p.stm ∧ (attach z t t2 p).anu = p.anu ∧ (attach z t t2 p).rlu
      = p.rlu ∧ (attach z t t2 p).clp = p.clp ∧ (attach z t t2 p).nfu = p.nfu ∧ (attach z t t2 p).pwc = p.pwc ∧
      (attach z t t2 p).draws = p.draws := by simp [attach]

@[simp] theorem dropClaim_frame (w : Claimant) (t : TunerId) (p : Part) :
    (dropClaim w t p).rif = p.rif ∧ (dropClaim w t p).tst = p.tst ∧ (dropClaim w t p).zmx = p.zmx ∧ (dropClaim w
      t p).rmx = p.rmx ∧ (dropClaim w t p).stm = p.stm ∧ (dropClaim w t p).anu = p.anu ∧ (dropClaim w t p).rlu =
      p.rlu ∧ (dropClaim w t p).clp = p.clp ∧ (dropClaim w t p).nfu = p.nfu ∧ (dropClaim w t p).pwc = p.pwc ∧
      (dropClaim w t p).draws = p.draws := by simp [dropClaim]

@[simp] theorem giveUp_frame (w : Claimant) (p : Part) :
    (giveUp w p).rif = p.rif ∧ (giveUp w p).tst = p.tst ∧ (giveUp w p).zmx = p.zmx ∧ (giveUp w p).rmx = p.rmx ∧
      (giveUp w p).anu = p.anu ∧ (giveUp w p).rlu = p.rlu ∧ (giveUp w p).clp = p.clp ∧ (giveUp w p).pwc = p.pwc
      ∧ (giveUp w p).draws = p.draws := by simp [giveUp]

@[simp] theorem giveUp_posts {n₀ : Nfu} (w : Claimant) (p : Part) (h : Posts n₀ p.nfu) : Posts n₀ (giveUp w
  p).nfu := by
  simp [giveUp, h]

/-! ### Memory -/

@[simp] theorem setMark_frame (i : Nat) (p : Part) :
    (setMark i p).rif = p.rif ∧ (setMark i p).zmx = p.zmx ∧ (setMark i p).rmx = p.rmx ∧ (setMark i p).tuc =
      p.tuc ∧ (setMark i p).stm = p.stm ∧ (setMark i p).anu = p.anu ∧ (setMark i p).rlu = p.rlu ∧ (setMark i
      p).clp = p.clp ∧ (setMark i p).pwc = p.pwc ∧ (setMark i p).draws = p.draws := by simp [setMark]

@[simp] theorem setMark_posts {n₀ : Nfu} (i : Nat) (p : Part) (h : Posts n₀ p.nfu) : Posts n₀ (setMark i p).nfu := by
  simp [setMark, h]

@[simp] theorem unnameStation_frame (i : Nat) (p : Part) :
    (unnameStation i p).rif = p.rif ∧ (unnameStation i p).tst = p.tst ∧ (unnameStation i p).rmx = p.rmx ∧
      (unnameStation i p).tuc = p.tuc ∧ (unnameStation i p).stm = p.stm ∧ (unnameStation i p).anu = p.anu ∧
      (unnameStation i p).rlu = p.rlu ∧ (unnameStation i p).clp = p.clp ∧ (unnameStation i p).nfu = p.nfu ∧
      (unnameStation i p).pwc = p.pwc ∧ (unnameStation i p).draws = p.draws := by simp [unnameStation]

@[simp] theorem cleanEntry_frame (table entry : Nat) (p : Part) :
    (cleanEntry table entry p).rif = p.rif ∧ (cleanEntry table entry p).zmx = p.zmx ∧ (cleanEntry table entry
      p).rmx = p.rmx ∧ (cleanEntry table entry p).tuc = p.tuc ∧ (cleanEntry table entry p).stm = p.stm ∧
      (cleanEntry table entry p).anu = p.anu ∧ (cleanEntry table entry p).rlu = p.rlu ∧ (cleanEntry table entry
      p).clp = p.clp ∧ (cleanEntry table entry p).nfu = p.nfu ∧ (cleanEntry table entry p).pwc = p.pwc ∧
      (cleanEntry table entry p).draws = p.draws := by simp [cleanEntry]

@[simp] theorem cleanUnit_frame (u : MemUnit) (p : Part) :
    (cleanUnit u p).rif = p.rif ∧ (cleanUnit u p).zmx = p.zmx ∧ (cleanUnit u p).rmx = p.rmx ∧ (cleanUnit u
      p).tuc = p.tuc ∧ (cleanUnit u p).stm = p.stm ∧ (cleanUnit u p).anu = p.anu ∧ (cleanUnit u p).rlu = p.rlu ∧
      (cleanUnit u p).clp = p.clp ∧ (cleanUnit u p).nfu = p.nfu ∧ (cleanUnit u p).pwc = p.pwc ∧ (cleanUnit u
      p).draws = p.draws := by simp [cleanUnit]

@[simp] theorem cleanTable_frame (table : Nat) (p : Part) :
    (cleanTable table p).rif = p.rif ∧ (cleanTable table p).zmx = p.zmx ∧ (cleanTable table p).rmx = p.rmx ∧
      (cleanTable table p).tuc = p.tuc ∧ (cleanTable table p).stm = p.stm ∧ (cleanTable table p).anu = p.anu ∧
      (cleanTable table p).rlu = p.rlu ∧ (cleanTable table p).clp = p.clp ∧ (cleanTable table p).nfu = p.nfu ∧
      (cleanTable table p).pwc = p.pwc ∧ (cleanTable table p).draws = p.draws := by simp [cleanTable]

@[simp] theorem removeStation_frame (i : Nat) (p : Part) :
    (removeStation i p).rif = p.rif ∧ (removeStation i p).rmx = p.rmx ∧ (removeStation i p).tuc = p.tuc ∧
      (removeStation i p).stm = p.stm ∧ (removeStation i p).anu = p.anu ∧ (removeStation i p).rlu = p.rlu ∧
      (removeStation i p).clp = p.clp ∧ (removeStation i p).pwc = p.pwc ∧ (removeStation i p).draws = p.draws := by simp [removeStation]

@[simp] theorem removeStation_posts {n₀ : Nfu} (i : Nat) (p : Part) (h : Posts n₀ p.nfu) : Posts n₀
  (removeStation i p).nfu := by
  simp [removeStation, h]

@[simp] theorem clearWatch_frame (p : Part) :
    (clearWatch p).rif = p.rif ∧ (clearWatch p).tst = p.tst ∧ (clearWatch p).zmx = p.zmx ∧ (clearWatch p).rmx =
      p.rmx ∧ (clearWatch p).anu = p.anu ∧ (clearWatch p).rlu = p.rlu ∧ (clearWatch p).clp = p.clp ∧ (clearWatch
      p).pwc = p.pwc ∧ (clearWatch p).draws = p.draws := by simp [clearWatch]

@[simp] theorem clearWatch_posts {n₀ : Nfu} (p : Part) (h : Posts n₀ p.nfu) : Posts n₀ (clearWatch p).nfu := by
  simp [clearWatch, h]

@[simp] theorem rebuildStation_frame (i : Nat) (t : Option TunerId) (zoneCode : Option Nat) (p : Part) :
    (rebuildStation i t zoneCode p).rif = p.rif ∧ (rebuildStation i t zoneCode p).rmx = p.rmx ∧ (rebuildStation
      i t zoneCode p).tuc = p.tuc ∧ (rebuildStation i t zoneCode p).stm = p.stm ∧ (rebuildStation i t zoneCode
      p).anu = p.anu ∧ (rebuildStation i t zoneCode p).rlu = p.rlu ∧ (rebuildStation i t zoneCode p).clp = p.clp
      ∧ (rebuildStation i t zoneCode p).pwc = p.pwc ∧ (rebuildStation i t zoneCode p).draws = p.draws := by
  unfold rebuildStation; split <;> simp

@[simp] theorem rebuildStation_posts {n₀ : Nfu} (i : Nat) (t : Option TunerId) (zoneCode : Option Nat) (p :
  Part) (h : Posts n₀ p.nfu) : Posts n₀ (rebuildStation i t zoneCode p).nfu := by
  unfold rebuildStation; split <;> simp [h]

@[simp] theorem stationPoisoned_frame (i : Nat) (p : Part) :
    (stationPoisoned i p).rif = p.rif ∧ (stationPoisoned i p).rmx = p.rmx ∧ (stationPoisoned i p).anu = p.anu ∧
      (stationPoisoned i p).rlu = p.rlu ∧ (stationPoisoned i p).clp = p.clp ∧ (stationPoisoned i p).pwc = p.pwc
      ∧ (stationPoisoned i p).draws = p.draws := by
  unfold stationPoisoned; split <;> simp

@[simp] theorem stationPoisoned_posts {n₀ : Nfu} (i : Nat) (p : Part) (h : Posts n₀ p.nfu) : Posts n₀
  (stationPoisoned i p).nfu := by
  unfold stationPoisoned; repeat' split
  all_goals simp (maxDischargeDepth := 30) +contextual [h]



@[simp] theorem tellOwner_frame (u : MemUnit) (p : Part) :
    (tellOwner u p).rif = p.rif ∧ (tellOwner u p).rmx = p.rmx ∧ (tellOwner u p).anu = p.anu
      ∧ (tellOwner u p).rlu = p.rlu ∧ (tellOwner u p).pwc = p.pwc ∧ (tellOwner u p).draws = p.draws := by
  unfold tellOwner; repeat' split
  all_goals simp

@[simp] theorem tellOwner_posts {n₀ : Nfu} (u : MemUnit) (p : Part) (h : Posts n₀ p.nfu) :
    Posts n₀ (tellOwner u p).nfu := by
  unfold tellOwner; repeat' split
  all_goals simp [h]

@[simp] theorem checkUnit_frame (u : MemUnit) (p : Part) :
    (checkUnit u p).rif = p.rif ∧ (checkUnit u p).rmx = p.rmx ∧ (checkUnit u p).anu = p.anu
      ∧ (checkUnit u p).rlu = p.rlu ∧ (checkUnit u p).pwc = p.pwc ∧ (checkUnit u p).draws = p.draws := by
  unfold checkUnit checkWith; dsimp only; repeat' split
  all_goals simp

@[simp] theorem checkUnit_posts {n₀ : Nfu} (u : MemUnit) (p : Part) (h : Posts n₀ p.nfu) :
    Posts n₀ (checkUnit u p).nfu := by
  unfold checkUnit checkWith; dsimp only; repeat' split
  all_goals simp [h]

@[simp] theorem checkPlain_frame (u : MemUnit) (p : Part) :
    (checkPlain u p).rif = p.rif ∧ (checkPlain u p).zmx = p.zmx ∧ (checkPlain u p).rmx = p.rmx
      ∧ (checkPlain u p).tuc = p.tuc ∧ (checkPlain u p).stm = p.stm ∧ (checkPlain u p).anu = p.anu
      ∧ (checkPlain u p).rlu = p.rlu ∧ (checkPlain u p).clp = p.clp ∧ (checkPlain u p).pwc = p.pwc
      ∧ (checkPlain u p).draws = p.draws := by
  unfold checkPlain checkWith; dsimp only; repeat' split
  all_goals simp

@[simp] theorem checkPlain_posts {n₀ : Nfu} (u : MemUnit) (p : Part) (h : Posts n₀ p.nfu) :
    Posts n₀ (checkPlain u p).nfu := by
  unfold checkPlain checkWith; dsimp only; repeat' split
  all_goals simp [h]

@[simp] theorem checkStation_frame (i : Nat) (p : Part) :
    (checkStation i p).rif = p.rif ∧ (checkStation i p).rmx = p.rmx ∧ (checkStation i p).anu = p.anu
      ∧ (checkStation i p).rlu = p.rlu ∧ (checkStation i p).clp = p.clp ∧ (checkStation i p).pwc = p.pwc
      ∧ (checkStation i p).draws = p.draws := by
  unfold checkStation checkWith; dsimp only; repeat' split
  all_goals simp

@[simp] theorem checkStation_posts {n₀ : Nfu} (i : Nat) (p : Part) (h : Posts n₀ p.nfu) :
    Posts n₀ (checkStation i p).nfu := by
  unfold checkStation checkWith; dsimp only; repeat' split
  all_goals simp [h]

@[simp] theorem checkEntry_frame (table entry : Nat) (p : Part) :
    (checkEntry table entry p).rif = p.rif ∧ (checkEntry table entry p).rmx = p.rmx ∧ (checkEntry table entry
      p).anu = p.anu ∧ (checkEntry table entry p).rlu = p.rlu ∧ (checkEntry table entry p).pwc = p.pwc ∧
      (checkEntry table entry p).draws = p.draws := by simp [checkEntry]

@[simp] theorem checkEntry_posts {n₀ : Nfu} (table entry : Nat) (p : Part) (h : Posts n₀ p.nfu) : Posts n₀
  (checkEntry table entry p).nfu := by
  simp (maxDischargeDepth := 30) +contextual [checkEntry, h]

@[simp] theorem checkUpsets_frame (read : Upset → Bool) (p : Part) :
    (checkUpsets read p).rif = p.rif ∧ (checkUpsets read p).rmx = p.rmx ∧ (checkUpsets read p).anu = p.anu ∧
      (checkUpsets read p).rlu = p.rlu ∧ (checkUpsets read p).pwc = p.pwc ∧ (checkUpsets read p).draws = p.draws := by
  simp [checkUpsets]

@[simp] theorem checkUpsets_posts {n₀ : Nfu} (read : Upset → Bool) (p : Part) (h : Posts n₀ p.nfu) :
    Posts n₀ (checkUpsets read p).nfu := by
  simp (maxDischargeDepth := 30) +contextual [checkUpsets, h]

@[simp] theorem ownerReads_frame (tables : List Nat) (p : Part) :
    (ownerReads tables p).rif = p.rif ∧ (ownerReads tables p).rmx = p.rmx ∧ (ownerReads tables p).anu = p.anu ∧
      (ownerReads tables p).rlu = p.rlu ∧ (ownerReads tables p).pwc = p.pwc ∧ (ownerReads tables p).draws =
      p.draws := by simp [ownerReads]

@[simp] theorem ownerReads_posts {n₀ : Nfu} (tables : List Nat) (p : Part) (h : Posts n₀ p.nfu) : Posts n₀
  (ownerReads tables p).nfu := by simp [ownerReads, h]

@[simp] theorem readOthers_frame (table i : Nat) (p : Part) :
    (readOthers table i p).rif = p.rif ∧ (readOthers table i p).rmx = p.rmx ∧ (readOthers table i p).anu = p.anu ∧
      (readOthers table i p).rlu = p.rlu ∧ (readOthers table i p).pwc = p.pwc ∧ (readOthers table i p).draws =
      p.draws := by simp [readOthers]

@[simp] theorem readOthers_posts {n₀ : Nfu} (table i : Nat) (p : Part) (h : Posts n₀ p.nfu) :
    Posts n₀ (readOthers table i p).nfu := by simp [readOthers, h]

@[simp] theorem correctReads_frame (table : Nat) (p : Part) :
    (correctReads table p).rif = p.rif ∧ (correctReads table p).rmx = p.rmx ∧ (correctReads table p).anu = p.anu ∧
      (correctReads table p).rlu = p.rlu ∧ (correctReads table p).pwc = p.pwc ∧ (correctReads table p).draws =
      p.draws := by simp [correctReads]

@[simp] theorem correctReads_posts {n₀ : Nfu} (table : Nat) (p : Part) (h : Posts n₀ p.nfu) :
    Posts n₀ (correctReads table p).nfu := by simp [correctReads, h]

@[simp] theorem scrubStep_frame (p : Part) :
    (scrubStep p).rif = p.rif ∧ (scrubStep p).rmx = p.rmx ∧ (scrubStep p).anu = p.anu ∧ (scrubStep p).rlu =
      p.rlu ∧ (scrubStep p).pwc = p.pwc ∧ (scrubStep p).draws = p.draws := by
  unfold scrubStep; split <;> simp

@[simp] theorem scrubStep_posts {n₀ : Nfu} (p : Part) (h : Posts n₀ p.nfu) : Posts n₀ (scrubStep p).nfu := by
  unfold scrubStep; split <;> simp [h]

@[simp] theorem scrubPassStart_frame (p : Part) :
    (scrubPassStart p).rif = p.rif ∧ (scrubPassStart p).zmx = p.zmx ∧ (scrubPassStart p).rmx = p.rmx ∧
      (scrubPassStart p).tuc = p.tuc ∧ (scrubPassStart p).stm = p.stm ∧ (scrubPassStart p).anu = p.anu ∧
      (scrubPassStart p).rlu = p.rlu ∧ (scrubPassStart p).clp = p.clp ∧ (scrubPassStart p).nfu = p.nfu ∧
      (scrubPassStart p).pwc = p.pwc ∧ (scrubPassStart p).draws = p.draws := by simp [scrubPassStart]

@[simp] theorem scrubVisit_frame (upsets : List Upset) (p : Part) :
    (scrubVisit upsets p).rif = p.rif ∧ (scrubVisit upsets p).rmx = p.rmx ∧ (scrubVisit upsets p).anu = p.anu ∧
      (scrubVisit upsets p).rlu = p.rlu ∧ (scrubVisit upsets p).pwc = p.pwc ∧ (scrubVisit upsets p).draws =
      p.draws := by simp [scrubVisit]

@[simp] theorem scrubVisit_posts {n₀ : Nfu} (upsets : List Upset) (p : Part) (h : Posts n₀ p.nfu) : Posts n₀
  (scrubVisit upsets p).nfu := by
  simp [scrubVisit, h]

/-! ### Arbiter -/

@[simp] theorem readHolder_frame (c : Chan) (p : Part) :
    (readHolder c p).rif = p.rif ∧ (readHolder c p).rmx = p.rmx ∧ (readHolder c p).anu = p.anu ∧ (readHolder c
      p).rlu = p.rlu ∧ (readHolder c p).clp = p.clp ∧ (readHolder c p).pwc = p.pwc ∧ (readHolder c p).draws =
      p.draws := by
  unfold readHolder; split <;> simp

@[simp] theorem readHolder_posts {n₀ : Nfu} (c : Chan) (p : Part) (h : Posts n₀ p.nfu) : Posts n₀ (readHolder c
  p).nfu := by
  unfold readHolder; split <;> simp [h]

@[simp] theorem storeQuality_frame (c : Chan) (q : Nat) (p : Part) :
    (storeQuality c q p).rif = p.rif ∧ (storeQuality c q p).rmx = p.rmx ∧ (storeQuality c q p).anu = p.anu ∧
      (storeQuality c q p).rlu = p.rlu ∧ (storeQuality c q p).clp = p.clp ∧ (storeQuality c q p).pwc = p.pwc ∧
      (storeQuality c q p).draws = p.draws := by
  unfold storeQuality; dsimp only; repeat' split
  all_goals simp

@[simp] theorem storeQuality_posts {n₀ : Nfu} (c : Chan) (q : Nat) (p : Part) (h : Posts n₀ p.nfu) : Posts n₀
  (storeQuality c q p).nfu := by
  unfold storeQuality; dsimp only; repeat' split
  all_goals simp (maxDischargeDepth := 30) +contextual [h]

@[simp] theorem nameStation_frame (z : ZoneId) (c : Chan) (p : Part) :
    (nameStation z c p).rif = p.rif ∧ (nameStation z c p).rmx = p.rmx ∧ (nameStation z c p).anu = p.anu ∧
      (nameStation z c p).rlu = p.rlu ∧ (nameStation z c p).clp = p.clp ∧ (nameStation z c p).pwc = p.pwc ∧
      (nameStation z c p).draws = p.draws := by simp [nameStation]

@[simp] theorem nameStation_posts {n₀ : Nfu} (z : ZoneId) (c : Chan) (p : Part) (h : Posts n₀ p.nfu) : Posts n₀
  (nameStation z c p).nfu := by
  simp [nameStation, h]

@[simp] theorem leaveFade_frame (p : Part) :
    (leaveFade p).rif = p.rif ∧ (leaveFade p).tst = p.tst ∧ (leaveFade p).rmx = p.rmx ∧ (leaveFade p).tuc =
      p.tuc ∧ (leaveFade p).stm = p.stm ∧ (leaveFade p).anu = p.anu ∧ (leaveFade p).rlu = p.rlu ∧ (leaveFade
      p).clp = p.clp ∧ (leaveFade p).nfu = p.nfu ∧ (leaveFade p).pwc = p.pwc ∧ (leaveFade p).draws = p.draws := by simp [leaveFade]

@[simp] theorem abandonSwitch_frame (t : TunerId) (p : Part) :
    (abandonSwitch t p).rif = p.rif ∧ (abandonSwitch t p).rmx = p.rmx ∧ (abandonSwitch t p).anu = p.anu ∧
      (abandonSwitch t p).rlu = p.rlu ∧ (abandonSwitch t p).clp = p.clp ∧ (abandonSwitch t p).pwc = p.pwc ∧
      (abandonSwitch t p).draws = p.draws := by
  unfold abandonSwitch; dsimp only; repeat' split
  all_goals simp

@[simp] theorem abandonSwitch_posts {n₀ : Nfu} (t : TunerId) (p : Part) (h : Posts n₀ p.nfu) : Posts n₀
  (abandonSwitch t p).nfu := by
  unfold abandonSwitch; dsimp only; repeat' split
  all_goals simp (maxDischargeDepth := 30) +contextual [h]

@[simp] theorem abandonSwitches_frame (t : TunerId) (p : Part) :
    (abandonSwitches t p).rif = p.rif ∧ (abandonSwitches t p).rmx = p.rmx ∧ (abandonSwitches t p).anu = p.anu ∧
      (abandonSwitches t p).rlu = p.rlu ∧ (abandonSwitches t p).clp = p.clp ∧ (abandonSwitches t p).pwc = p.pwc
      ∧ (abandonSwitches t p).draws = p.draws := by simp [abandonSwitches]

@[simp] theorem abandonSwitches_posts {n₀ : Nfu} (t : TunerId) (p : Part) (h : Posts n₀ p.nfu) : Posts n₀
  (abandonSwitches t p).nfu := by
  simp [abandonSwitches, h]

@[simp] theorem withdraw_frame (w : Claimant) (p : Part) :
    (withdraw w p).rif = p.rif ∧ (withdraw w p).rmx = p.rmx ∧ (withdraw w p).anu = p.anu ∧ (withdraw w p).rlu =
      p.rlu ∧ (withdraw w p).clp = p.clp ∧ (withdraw w p).pwc = p.pwc ∧ (withdraw w p).draws = p.draws := by
  unfold withdraw; split <;> simp

@[simp] theorem withdraw_posts {n₀ : Nfu} (w : Claimant) (p : Part) (h : Posts n₀ p.nfu) : Posts n₀ (withdraw w
  p).nfu := by
  unfold withdraw; repeat' split
  all_goals simp (maxDischargeDepth := 30) +contextual [h]

@[simp] theorem withdrawZone_frame (z : ZoneId) (p : Part) :
    (withdrawZone z p).rif = p.rif ∧ (withdrawZone z p).rmx = p.rmx ∧ (withdrawZone z p).anu = p.anu ∧
      (withdrawZone z p).rlu = p.rlu ∧ (withdrawZone z p).clp = p.clp ∧ (withdrawZone z p).pwc = p.pwc ∧
      (withdrawZone z p).draws = p.draws := by
  unfold withdrawZone; split <;> simp

@[simp] theorem withdrawZone_posts {n₀ : Nfu} (z : ZoneId) (p : Part) (h : Posts n₀ p.nfu) : Posts n₀
  (withdrawZone z p).nfu := by
  unfold withdrawZone; split <;> simp [h]

@[simp] theorem endScan_frame (aborted : Bool) (p : Part) :
    (endScan aborted p).rif = p.rif ∧ (endScan aborted p).tst = p.tst ∧ (endScan aborted p).zmx = p.zmx ∧
      (endScan aborted p).rmx = p.rmx ∧ (endScan aborted p).tuc = p.tuc ∧ (endScan aborted p).anu = p.anu ∧
      (endScan aborted p).rlu = p.rlu ∧ (endScan aborted p).clp = p.clp ∧ (endScan aborted p).pwc = p.pwc ∧
      (endScan aborted p).draws = p.draws := by
  unfold endScan; split <;> simp

@[simp] theorem endScan_posts {n₀ : Nfu} (aborted : Bool) (p : Part) (h : Posts n₀ p.nfu) : Posts n₀ (endScan
  aborted p).nfu := by
  unfold endScan; split <;> simp [h]

@[simp] theorem displaceOwner_frame (w : Claimant) (p : Part) :
    (displaceOwner w p).rif = p.rif ∧ (displaceOwner w p).tst = p.tst ∧ (displaceOwner w p).rmx = p.rmx ∧
      (displaceOwner w p).tuc = p.tuc ∧ (displaceOwner w p).anu = p.anu ∧ (displaceOwner w p).clp = p.clp ∧
      (displaceOwner w p).pwc = p.pwc ∧ (displaceOwner w p).draws = p.draws := by
  unfold displaceOwner; split <;> simp

@[simp] theorem displaceOwner_posts {n₀ : Nfu} (w : Claimant) (p : Part) (h : Posts n₀ p.nfu) : Posts n₀
  (displaceOwner w p).nfu := by
  unfold displaceOwner; split <;> simp [h]

@[simp] theorem displaceAll_frame (t : TunerId) (p : Part) :
    (displaceAll t p).rif = p.rif ∧ (displaceAll t p).rmx = p.rmx ∧ (displaceAll t p).anu = p.anu ∧ (displaceAll
      t p).clp = p.clp ∧ (displaceAll t p).pwc = p.pwc ∧ (displaceAll t p).draws = p.draws := by simp [displaceAll]

@[simp] theorem displaceAll_posts {n₀ : Nfu} (t : TunerId) (p : Part) (h : Posts n₀ p.nfu) : Posts n₀
  (displaceAll t p).nfu := by
  simp (maxDischargeDepth := 30) +contextual [displaceAll, h]

@[simp] theorem addClaim_frame (w : Claimant) (t : TunerId) (p : Part) :
    (addClaim w t p).rif = p.rif ∧ (addClaim w t p).tst = p.tst ∧ (addClaim w t p).zmx = p.zmx ∧ (addClaim w t
      p).rmx = p.rmx ∧ (addClaim w t p).stm = p.stm ∧ (addClaim w t p).anu = p.anu ∧ (addClaim w t p).rlu =
      p.rlu ∧ (addClaim w t p).clp = p.clp ∧ (addClaim w t p).nfu = p.nfu ∧ (addClaim w t p).pwc = p.pwc ∧
      (addClaim w t p).draws = p.draws := by
  unfold addClaim; split <;> simp

@[simp] theorem grant_frame (w : Claimant) (c : Chan) (t : TunerId) (shared : Bool) (p : Part) :
    (grant w c t shared p).rif = p.rif ∧ (grant w c t shared p).rmx = p.rmx ∧ (grant w c t shared p).anu = p.anu
      ∧ (grant w c t shared p).clp = p.clp ∧ (grant w c t shared p).pwc = p.pwc ∧ (grant w c t shared p).draws =
      p.draws := by
  unfold grant; repeat' split
  all_goals simp

@[simp] theorem grant_posts {n₀ : Nfu} (w : Claimant) (c : Chan) (t : TunerId) (shared : Bool) (p : Part) (h :
  Posts n₀ p.nfu) : Posts n₀ (grant w c t shared p).nfu := by
  unfold grant; repeat' split
  all_goals simp (maxDischargeDepth := 30) +contextual [h]

@[simp] theorem grantZone_frame (z : ZoneId) (c : Chan) (t : TunerId) (shared : Bool) (p : Part) :
    (grantZone z c t shared p).rif = p.rif ∧ (grantZone z c t shared p).rmx = p.rmx ∧ (grantZone z c t shared
      p).anu = p.anu ∧ (grantZone z c t shared p).clp = p.clp ∧ (grantZone z c t shared p).pwc = p.pwc ∧
      (grantZone z c t shared p).draws = p.draws := by
  unfold grantZone; split <;> simp

@[simp] theorem grantZone_posts {n₀ : Nfu} (z : ZoneId) (c : Chan) (t : TunerId) (shared : Bool) (p : Part) (h :
  Posts n₀ p.nfu) : Posts n₀ (grantZone z c t shared p).nfu := by
  unfold grantZone; repeat' split
  all_goals simp (maxDischargeDepth := 30) +contextual [h]

@[simp] theorem detachClaimant_frame (w : Claimant) (p : Part) :
    (detachClaimant w p).rif = p.rif ∧ (detachClaimant w p).tst = p.tst ∧ (detachClaimant w p).rmx = p.rmx ∧
      (detachClaimant w p).tuc = p.tuc ∧ (detachClaimant w p).stm = p.stm ∧ (detachClaimant w p).anu = p.anu ∧
      (detachClaimant w p).rlu = p.rlu ∧ (detachClaimant w p).clp = p.clp ∧ (detachClaimant w p).nfu = p.nfu ∧
      (detachClaimant w p).pwc = p.pwc ∧ (detachClaimant w p).draws = p.draws := by
  unfold detachClaimant; split <;> simp

@[simp] theorem releaseAll_frame (t : TunerId) (p : Part) :
    (releaseAll t p).rif = p.rif ∧ (releaseAll t p).tst = p.tst ∧ (releaseAll t p).rmx = p.rmx ∧ (releaseAll t
      p).stm = p.stm ∧ (releaseAll t p).anu = p.anu ∧ (releaseAll t p).rlu = p.rlu ∧ (releaseAll t p).clp =
      p.clp ∧ (releaseAll t p).nfu = p.nfu ∧ (releaseAll t p).pwc = p.pwc ∧ (releaseAll t p).draws = p.draws := by simp [releaseAll]

@[simp] theorem enterFault_frame (t : TunerId) (p : Part) :
    (enterFault t p).rif = p.rif ∧ (enterFault t p).rmx = p.rmx ∧ (enterFault t p).anu = p.anu ∧ (enterFault t
      p).rlu = p.rlu ∧ (enterFault t p).clp = p.clp ∧ (enterFault t p).pwc = p.pwc ∧ (enterFault t p).draws =
      p.draws := by
  unfold enterFault; dsimp only; repeat' split
  all_goals simp

@[simp] theorem enterFault_posts {n₀ : Nfu} (t : TunerId) (p : Part) (h : Posts n₀ p.nfu) : Posts n₀ (enterFault
  t p).nfu := by
  unfold enterFault; dsimp only; repeat' split
  all_goals simp (maxDischargeDepth := 30) +contextual [h]

@[simp] theorem releaseTuners_frame (p : Part) :
    (releaseTuners p).rif = p.rif ∧ (releaseTuners p).rmx = p.rmx ∧ (releaseTuners p).anu = p.anu ∧
      (releaseTuners p).rlu = p.rlu ∧ (releaseTuners p).clp = p.clp ∧ (releaseTuners p).pwc = p.pwc ∧
      (releaseTuners p).draws = p.draws := by simp [releaseTuners]

@[simp] theorem releaseTuners_posts {n₀ : Nfu} (p : Part) (h : Posts n₀ p.nfu) : Posts n₀ (releaseTuners p).nfu := by
  simp (maxDischargeDepth := 30) +contextual [releaseTuners, h]

/-! ### Prompts -/

@[simp] theorem readBulletin_frame (p : Part) :
    (readBulletin p).rif = p.rif ∧ (readBulletin p).rmx = p.rmx ∧ (readBulletin p).anu = p.anu
      ∧ (readBulletin p).rlu = p.rlu ∧ (readBulletin p).clp = p.clp ∧ (readBulletin p).pwc = p.pwc
      ∧ (readBulletin p).draws = p.draws := by
  unfold readBulletin; split <;> simp

@[simp] theorem readBulletin_posts {n₀ : Nfu} (p : Part) (h : Posts n₀ p.nfu) : Posts n₀ (readBulletin p).nfu := by
  unfold readBulletin; split <;> simp [h]

@[simp] theorem bulletinGone_frame (p : Part) :
    (bulletinGone p).rif = p.rif ∧ (bulletinGone p).rmx = p.rmx ∧ (bulletinGone p).anu = p.anu ∧ (bulletinGone
      p).rlu = p.rlu ∧ (bulletinGone p).clp = p.clp ∧ (bulletinGone p).pwc = p.pwc ∧ (bulletinGone p).draws =
      p.draws := by simp [bulletinGone]

@[simp] theorem bulletinGone_posts {n₀ : Nfu} (p : Part) (h : Posts n₀ p.nfu) : Posts n₀ (bulletinGone p).nfu := by
  unfold bulletinGone; split <;> simp [h]

@[simp] theorem tellPrompt_frame (r : Prompt) (p : Part) :
    (tellPrompt r p).rif = p.rif ∧ (tellPrompt r p).rmx = p.rmx ∧ (tellPrompt r p).anu = p.anu ∧ (tellPrompt r
      p).rlu = p.rlu ∧ (tellPrompt r p).pwc = p.pwc ∧ (tellPrompt r p).draws = p.draws := by
  unfold tellPrompt; split <;> simp

@[simp] theorem tellPrompt_posts {n₀ : Nfu} (r : Prompt) (p : Part) (h : Posts n₀ p.nfu) : Posts n₀ (tellPrompt
  r p).nfu := by
  unfold tellPrompt; split <;> simp [h]

@[simp] theorem stopPlaying_frame (p : Part) :
    (stopPlaying p).rif = p.rif ∧ (stopPlaying p).tst = p.tst ∧ (stopPlaying p).zmx = p.zmx ∧ (stopPlaying
      p).rmx = p.rmx ∧ (stopPlaying p).tuc = p.tuc ∧ (stopPlaying p).stm = p.stm ∧ (stopPlaying p).rlu = p.rlu ∧
      (stopPlaying p).clp = p.clp ∧ (stopPlaying p).nfu = p.nfu ∧ (stopPlaying p).pwc = p.pwc ∧ (stopPlaying
      p).draws = p.draws := by simp [stopPlaying]

@[simp] theorem removePrompt_frame (tag : Nat) (p : Part) :
    (removePrompt tag p).rif = p.rif ∧ (removePrompt tag p).tst = p.tst ∧ (removePrompt tag p).zmx = p.zmx ∧
      (removePrompt tag p).rmx = p.rmx ∧ (removePrompt tag p).tuc = p.tuc ∧ (removePrompt tag p).stm = p.stm ∧
      (removePrompt tag p).rlu = p.rlu ∧ (removePrompt tag p).clp = p.clp ∧ (removePrompt tag p).nfu = p.nfu ∧
      (removePrompt tag p).pwc = p.pwc ∧ (removePrompt tag p).draws = p.draws := by simp [removePrompt]

@[simp] theorem endPlaying_frame (tell : Bool) (p : Part) :
    (endPlaying tell p).rif = p.rif ∧ (endPlaying tell p).rmx = p.rmx ∧ (endPlaying tell p).rlu = p.rlu ∧
      (endPlaying tell p).pwc = p.pwc ∧ (endPlaying tell p).draws = p.draws := by
  unfold endPlaying; split <;> simp

@[simp] theorem endPlaying_posts {n₀ : Nfu} (tell : Bool) (p : Part) (h : Posts n₀ p.nfu) : Posts n₀ (endPlaying
  tell p).nfu := by
  unfold endPlaying; repeat' split
  all_goals simp (maxDischargeDepth := 30) +contextual [h]

@[simp] theorem dropBack_frame (n : Nat) (p : Part) :
    (dropBack n p).rif = p.rif ∧ (dropBack n p).rmx = p.rmx ∧ (dropBack n p).rlu = p.rlu ∧ (dropBack n p).pwc =
      p.pwc ∧ (dropBack n p).draws = p.draws := by
  unfold dropBack; repeat' split
  all_goals simp

@[simp] theorem dropBack_posts {n₀ : Nfu} (n : Nat) (p : Part) (h : Posts n₀ p.nfu) : Posts n₀ (dropBack n
  p).nfu := by
  unfold dropBack; repeat' split
  all_goals simp (maxDischargeDepth := 30) +contextual [h]

@[simp] theorem beginSegment_frame (n pass seg played : Nat) (p : Part) :
    (beginSegment n pass seg played p).rif = p.rif ∧ (beginSegment n pass seg played p).rmx = p.rmx ∧
      (beginSegment n pass seg played p).rlu = p.rlu ∧ (beginSegment n pass seg played p).pwc = p.pwc ∧
      (beginSegment n pass seg played p).draws = p.draws := by simp [beginSegment]

@[simp] theorem beginSegment_posts {n₀ : Nfu} (n pass seg played : Nat) (p : Part) (h : Posts n₀ p.nfu) : Posts
  n₀ (beginSegment n pass seg played p).nfu := by
  simp [beginSegment, h]

@[simp] theorem startPrompt_frame (r : Prompt) (p : Part) :
    (startPrompt r p).rif = p.rif ∧ (startPrompt r p).rmx = p.rmx ∧ (startPrompt r p).rlu = p.rlu ∧ (startPrompt
      r p).pwc = p.pwc ∧ (startPrompt r p).draws = p.draws := by
  unfold startPrompt; dsimp only; repeat' split
  all_goals simp

@[simp] theorem startPrompt_posts {n₀ : Nfu} (r : Prompt) (p : Part) (h : Posts n₀ p.nfu) : Posts n₀
  (startPrompt r p).nfu := by
  unfold startPrompt; dsimp only; repeat' split
  all_goals simp (maxDischargeDepth := 30) +contextual [h]

@[simp] theorem endIfSilent_frame (p : Part) :
    (endIfSilent p).rif = p.rif ∧ (endIfSilent p).rmx = p.rmx ∧ (endIfSilent p).rlu = p.rlu ∧ (endIfSilent
      p).pwc = p.pwc ∧ (endIfSilent p).draws = p.draws := by
  unfold endIfSilent; split <;> simp

@[simp] theorem endIfSilent_posts {n₀ : Nfu} (p : Part) (h : Posts n₀ p.nfu) : Posts n₀ (endIfSilent p).nfu := by
  unfold endIfSilent; split <;> simp [h]

@[simp] theorem startNext_frame (p : Part) :
    (startNext p).rif = p.rif ∧ (startNext p).rmx = p.rmx ∧ (startNext p).rlu = p.rlu ∧ (startNext p).pwc =
      p.pwc ∧ (startNext p).draws = p.draws := by
  unfold startNext; repeat' split
  all_goals simp

@[simp] theorem startNext_posts {n₀ : Nfu} (p : Part) (h : Posts n₀ p.nfu) : Posts n₀ (startNext p).nfu := by
  unfold startNext; repeat' split
  all_goals simp (maxDischargeDepth := 30) +contextual [h]

@[simp] theorem joinQueue_frame (r : Prompt) (head : Bool) (p : Part) :
    (joinQueue r head p).rif = p.rif ∧ (joinQueue r head p).rmx = p.rmx ∧ (joinQueue r head p).rlu = p.rlu ∧
      (joinQueue r head p).pwc = p.pwc ∧ (joinQueue r head p).draws = p.draws := by simp [joinQueue]

@[simp] theorem joinQueue_posts {n₀ : Nfu} (r : Prompt) (head : Bool) (p : Part) (h : Posts n₀ p.nfu) : Posts n₀
  (joinQueue r head p).nfu := by
  simp [joinQueue, h]

@[simp] theorem setBack_frame (r : Prompt) (p : Part) :
    (setBack r p).rif = p.rif ∧ (setBack r p).rmx = p.rmx ∧ (setBack r p).rlu = p.rlu ∧ (setBack r p).pwc =
      p.pwc ∧ (setBack r p).draws = p.draws := by simp [setBack]

@[simp] theorem setBack_posts {n₀ : Nfu} (r : Prompt) (p : Part) (h : Posts n₀ p.nfu) : Posts n₀ (setBack r
  p).nfu := by
  simp [setBack, h]

@[simp] theorem placePrompt_frame (r : Prompt) (p : Part) :
    (placePrompt r p).rif = p.rif ∧ (placePrompt r p).rmx = p.rmx ∧ (placePrompt r p).rlu = p.rlu ∧ (placePrompt
      r p).pwc = p.pwc ∧ (placePrompt r p).draws = p.draws := by
  unfold placePrompt; repeat' split
  all_goals simp

@[simp] theorem placePrompt_posts {n₀ : Nfu} (r : Prompt) (p : Part) (h : Posts n₀ p.nfu) : Posts n₀
  (placePrompt r p).nfu := by
  unfold placePrompt; repeat' split
  all_goals simp (maxDischargeDepth := 30) +contextual [h]

@[simp] theorem setBackBulletin_frame (p : Part) :
    (setBackBulletin p).rif = p.rif ∧ (setBackBulletin p).rmx = p.rmx ∧ (setBackBulletin p).rlu = p.rlu ∧
      (setBackBulletin p).pwc = p.pwc ∧ (setBackBulletin p).draws = p.draws := by
  unfold setBackBulletin; split <;> simp

@[simp] theorem setBackBulletin_posts {n₀ : Nfu} (p : Part) (h : Posts n₀ p.nfu) : Posts n₀ (setBackBulletin
  p).nfu := by
  unfold setBackBulletin; split <;> simp [h]

@[simp] theorem endRing_frame (p : Part) :
    (endRing p).rif = p.rif ∧ (endRing p).tst = p.tst ∧ (endRing p).zmx = p.zmx ∧ (endRing p).rmx = p.rmx ∧
      (endRing p).tuc = p.tuc ∧ (endRing p).stm = p.stm ∧ (endRing p).rlu = p.rlu ∧ (endRing p).clp = p.clp ∧
      (endRing p).pwc = p.pwc ∧ (endRing p).draws = p.draws := by
  unfold endRing; split <;> simp

@[simp] theorem endRing_posts {n₀ : Nfu} (p : Part) (h : Posts n₀ p.nfu) : Posts n₀ (endRing p).nfu := by
  unfold endRing; split <;> simp [h]

@[simp] theorem endBulletin_frame (p : Part) :
    (endBulletin p).rif = p.rif ∧ (endBulletin p).rmx = p.rmx ∧ (endBulletin p).rlu = p.rlu ∧ (endBulletin
      p).clp = p.clp ∧ (endBulletin p).pwc = p.pwc ∧ (endBulletin p).draws = p.draws := by simp [endBulletin]

@[simp] theorem endBulletin_posts {n₀ : Nfu} (p : Part) (h : Posts n₀ p.nfu) : Posts n₀ (endBulletin p).nfu := by
  simp (maxDischargeDepth := 30) +contextual [endBulletin, h]

@[simp] theorem dropBulletin_frame (p : Part) (r : Prompt) :
    (dropBulletin p r).rif = p.rif ∧ (dropBulletin p r).rmx = p.rmx ∧ (dropBulletin p r).rlu = p.rlu ∧
      (dropBulletin p r).pwc = p.pwc ∧ (dropBulletin p r).draws = p.draws := by simp [dropBulletin]

@[simp] theorem dropBulletin_posts {n₀ : Nfu} (p : Part) (r : Prompt) (h : Posts n₀ p.nfu) : Posts n₀
  (dropBulletin p r).nfu := by
  simp (maxDischargeDepth := 30) +contextual [dropBulletin, h]

@[simp] theorem dropBulletins_frame (p : Part) :
    (dropBulletins p).rif = p.rif ∧ (dropBulletins p).rmx = p.rmx ∧ (dropBulletins p).rlu = p.rlu
      ∧ (dropBulletins p).pwc = p.pwc ∧ (dropBulletins p).draws = p.draws := by
  unfold dropBulletins; cases p.anu.playing <;> simp

@[simp] theorem dropBulletins_posts {n₀ : Nfu} (p : Part) (h : Posts n₀ p.nfu) : Posts n₀ (dropBulletins p).nfu := by
  unfold dropBulletins; cases p.anu.playing <;> simp +contextual [h]

@[simp] theorem advancePattern_frame (played : Nat) (p : Part) :
    (advancePattern played p).rif = p.rif ∧ (advancePattern played p).rmx = p.rmx ∧ (advancePattern played
      p).rlu = p.rlu ∧ (advancePattern played p).pwc = p.pwc ∧ (advancePattern played p).draws = p.draws := by
  unfold advancePattern; dsimp only; repeat' split
  all_goals simp

@[simp] theorem advancePattern_posts {n₀ : Nfu} (played : Nat) (p : Part) (h : Posts n₀ p.nfu) : Posts n₀
  (advancePattern played p).nfu := by
  unfold advancePattern; dsimp only; repeat' split
  all_goals simp (maxDischargeDepth := 30) +contextual [h]

@[simp] theorem advancePlaying_frame (p : Part) :
    (advancePlaying p).rif = p.rif ∧ (advancePlaying p).rmx = p.rmx ∧ (advancePlaying p).rlu = p.rlu ∧
      (advancePlaying p).pwc = p.pwc ∧ (advancePlaying p).draws = p.draws := by
  unfold advancePlaying; split <;> simp

@[simp] theorem advancePlaying_posts {n₀ : Nfu} (p : Part) (h : Posts n₀ p.nfu) : Posts n₀ (advancePlaying
  p).nfu := by
  unfold advancePlaying; repeat' split
  all_goals simp (maxDischargeDepth := 30) +contextual [h]

@[simp] theorem anuBlock_frame (p : Part) :
    (anuBlock p).rif = p.rif ∧ (anuBlock p).rmx = p.rmx ∧ (anuBlock p).rlu = p.rlu ∧ (anuBlock p).pwc = p.pwc ∧
      (anuBlock p).draws = p.draws := by simp [anuBlock]

@[simp] theorem anuBlock_posts {n₀ : Nfu} (p : Part) (h : Posts n₀ p.nfu) : Posts n₀ (anuBlock p).nfu := by
  simp (maxDischargeDepth := 30) +contextual [anuBlock, h]

@[simp] theorem promptExpiry_frame (p : Part) :
    (promptExpiry p).rif = p.rif ∧ (promptExpiry p).rmx = p.rmx ∧ (promptExpiry p).rlu = p.rlu ∧ (promptExpiry
      p).pwc = p.pwc ∧ (promptExpiry p).draws = p.draws := by
  unfold promptExpiry; split <;> simp

@[simp] theorem promptExpiry_posts {n₀ : Nfu} (p : Part) (h : Posts n₀ p.nfu) : Posts n₀ (promptExpiry p).nfu := by
  unfold promptExpiry; split <;> simp [h]

@[simp] theorem chimeSegmentEnd_frame (p : Part) :
    (chimeSegmentEnd p).rif = p.rif ∧ (chimeSegmentEnd p).rmx = p.rmx ∧ (chimeSegmentEnd p).rlu = p.rlu ∧
      (chimeSegmentEnd p).pwc = p.pwc ∧ (chimeSegmentEnd p).draws = p.draws := by
  unfold chimeSegmentEnd; split <;> simp

@[simp] theorem chimeSegmentEnd_posts {n₀ : Nfu} (p : Part) (h : Posts n₀ p.nfu) : Posts n₀ (chimeSegmentEnd
  p).nfu := by
  unfold chimeSegmentEnd; split <;> simp [h]

/-! ### Stations -/

@[simp] theorem changeStation_frame (i : Nat) (f : Station → Station) (p : Part) :
    (changeStation i f p).rif = p.rif ∧ (changeStation i f p).zmx = p.zmx ∧ (changeStation i f p).rmx = p.rmx ∧
      (changeStation i f p).tuc = p.tuc ∧ (changeStation i f p).stm = p.stm ∧ (changeStation i f p).anu = p.anu
      ∧ (changeStation i f p).rlu = p.rlu ∧ (changeStation i f p).clp = p.clp ∧ (changeStation i f p).pwc =
      p.pwc ∧ (changeStation i f p).draws = p.draws := by simp [changeStation]

@[simp] theorem changeStation_posts {n₀ : Nfu} (i : Nat) (f : Station → Station) (p : Part) (h : Posts n₀ p.nfu)
  : Posts n₀ (changeStation i f p).nfu := by
  simp [changeStation, h]

theorem takeChannel_frame {i : Nat} {c : Chan} {t : TunerId} {p q : Part} (h : takeChannel i c t p = some q) :
    q.rif = p.rif ∧ q.rmx = p.rmx ∧ q.tuc = p.tuc ∧ q.stm = p.stm ∧ q.anu = p.anu ∧ q.rlu = p.rlu ∧ q.clp = p.clp
      ∧ q.pwc = p.pwc ∧ q.draws = p.draws := by
  unfold takeChannel at h
  repeat' split at h
  all_goals first | (simp at h; done) | (simp only [Option.some.injEq] at h; subst h; simp)

theorem takeChannel_posts {n₀ : Nfu} {i : Nat} {c : Chan} {t : TunerId} {p q : Part}
    (h : takeChannel i c t p = some q) (hp : Posts n₀ p.nfu) : Posts n₀ q.nfu := by
  unfold takeChannel at h
  repeat' split at h
  all_goals first | (simp at h; done) | (simp only [Option.some.injEq] at h; subst h; simp [hp])

@[simp] theorem addChannel_frame (i : Nat) (it : Item) (p : Part) :
    (addChannel i it p).rif = p.rif ∧ (addChannel i it p).zmx = p.zmx ∧ (addChannel i it p).rmx = p.rmx ∧
      (addChannel i it p).tuc = p.tuc ∧ (addChannel i it p).anu = p.anu ∧ (addChannel i it p).rlu = p.rlu ∧
      (addChannel i it p).clp = p.clp ∧ (addChannel i it p).pwc = p.pwc ∧ (addChannel i it p).draws = p.draws := by
  unfold addChannel; repeat' split
  all_goals simp

@[simp] theorem addChannel_posts {n₀ : Nfu} (i : Nat) (it : Item) (p : Part) (h : Posts n₀ p.nfu) : Posts n₀
  (addChannel i it p).nfu := by
  unfold addChannel; repeat' split
  all_goals simp (maxDischargeDepth := 30) +contextual [h]

@[simp] theorem createStation_frame (i : Nat) (e : Station) (p : Part) :
    (createStation i e p).rif = p.rif ∧ (createStation i e p).zmx = p.zmx ∧ (createStation i e p).rmx = p.rmx ∧
      (createStation i e p).tuc = p.tuc ∧ (createStation i e p).stm = p.stm ∧ (createStation i e p).anu = p.anu
      ∧ (createStation i e p).rlu = p.rlu ∧ (createStation i e p).clp = p.clp ∧ (createStation i e p).pwc =
      p.pwc ∧ (createStation i e p).draws = p.draws := by simp [createStation]

@[simp] theorem createStation_posts {n₀ : Nfu} (i : Nat) (e : Station) (p : Part) (h : Posts n₀ p.nfu) : Posts
  n₀ (createStation i e p).nfu := by
  simp [createStation, h]

@[simp] theorem setFlags_frame (i : Nat) (cap act : Bool) (p : Part) :
    (setFlags i cap act p).rif = p.rif ∧ (setFlags i cap act p).zmx = p.zmx ∧ (setFlags i cap act p).rmx = p.rmx
      ∧ (setFlags i cap act p).tuc = p.tuc ∧ (setFlags i cap act p).stm = p.stm ∧ (setFlags i cap act p).anu =
      p.anu ∧ (setFlags i cap act p).rlu = p.rlu ∧ (setFlags i cap act p).clp = p.clp ∧ (setFlags i cap act
      p).pwc = p.pwc ∧ (setFlags i cap act p).draws = p.draws := by
  unfold setFlags; split <;> simp

@[simp] theorem setFlags_posts {n₀ : Nfu} (i : Nat) (cap act : Bool) (p : Part) (h : Posts n₀ p.nfu) : Posts n₀
  (setFlags i cap act p).nfu := by
  unfold setFlags; split <;> simp [h]

@[simp] theorem zonesTake_frame (t : TunerId) (i code : Nat) (p : Part) :
    (zonesTake t i code p).rif = p.rif ∧ (zonesTake t i code p).tst = p.tst ∧ (zonesTake t i code p).rmx = p.rmx
      ∧ (zonesTake t i code p).tuc = p.tuc ∧ (zonesTake t i code p).stm = p.stm ∧ (zonesTake t i code p).anu =
      p.anu ∧ (zonesTake t i code p).rlu = p.rlu ∧ (zonesTake t i code p).clp = p.clp ∧ (zonesTake t i code
      p).nfu = p.nfu ∧ (zonesTake t i code p).pwc = p.pwc ∧ (zonesTake t i code p).draws = p.draws := by simp [zonesTake]

theorem freeChannel_frame {t : TunerId} {ch : Chan} {c : Nat} {p q : Part} (h : freeChannel t ch c p = some q) :
    q.rif = p.rif ∧ q.rmx = p.rmx ∧ q.tuc = p.tuc ∧ q.stm = p.stm ∧ q.anu = p.anu ∧ q.rlu = p.rlu ∧ q.clp = p.clp
      ∧ q.pwc = p.pwc ∧ q.draws = p.draws := by
  unfold freeChannel at h
  repeat' split at h
  all_goals first | exact takeChannel_frame h | (simp only [Option.some.injEq] at h; subst h; simp)

theorem freeChannel_posts {n₀ : Nfu} {t : TunerId} {ch : Chan} {c : Nat} {p q : Part}
    (h : freeChannel t ch c p = some q) (hp : Posts n₀ p.nfu) : Posts n₀ q.nfu := by
  unfold freeChannel at h
  repeat' split at h
  all_goals first | exact takeChannel_posts h hp | (simp only [Option.some.injEq] at h; subst h; exact hp)

theorem fileUnder_frame {t : TunerId} {ch : Chan} {c : Nat} {cap act : Bool} {p : Part} {x : Nat × Part}
    (h : fileUnder t ch c cap act p = some x) :
    x.2.rif = p.rif ∧ x.2.rmx = p.rmx ∧ x.2.tuc = p.tuc ∧ x.2.anu = p.anu ∧ x.2.rlu = p.rlu ∧ x.2.clp = p.clp
      ∧ x.2.pwc = p.pwc ∧ x.2.draws = p.draws := by
  unfold fileUnder at h
  dsimp only at h
  repeat' split at h
  all_goals first | (simp at h; done) | (simp only [Option.some.injEq] at h; subst h; simp)

theorem fileUnder_posts {n₀ : Nfu} {t : TunerId} {ch : Chan} {c : Nat} {cap act : Bool} {p : Part} {x : Nat × Part}
    (h : fileUnder t ch c cap act p = some x) (hp : Posts n₀ p.nfu) : Posts n₀ x.2.nfu := by
  unfold fileUnder at h
  dsimp only at h
  repeat' split at h
  all_goals first | (simp at h; done) | (simp only [Option.some.injEq] at h; subst h; simp [hp])

theorem fileSteps_frame {t : TunerId} {ch : Chan} {c : Nat} {cap act : Bool} {p : Part} {x : Nat × Part}
    (h : fileSteps t ch c cap act p = some x) :
    x.2.rif = p.rif ∧ x.2.rmx = p.rmx ∧ x.2.tuc = p.tuc ∧ x.2.anu = p.anu ∧ x.2.rlu = p.rlu ∧ x.2.clp = p.clp
      ∧ x.2.pwc = p.pwc ∧ x.2.draws = p.draws := by
  unfold fileSteps at h
  split at h
  · simp at h
  · obtain ⟨q, hq, hx⟩ := Option.bind_eq_some_iff.mp h
    have a := freeChannel_frame hq
    have b := fileUnder_frame hx
    simp_all

theorem fileSteps_posts {n₀ : Nfu} {t : TunerId} {ch : Chan} {c : Nat} {cap act : Bool} {p : Part} {x : Nat × Part}
    (h : fileSteps t ch c cap act p = some x) (hp : Posts n₀ p.nfu) : Posts n₀ x.2.nfu := by
  unfold fileSteps at h
  split at h
  · simp at h
  · obtain ⟨q, hq, hx⟩ := Option.bind_eq_some_iff.mp h
    exact fileUnder_posts hx (freeChannel_posts hq hp)

@[simp] theorem recordFollows_frame (t : TunerId) (i : Nat) (p : Part) :
    (recordFollows t i p).rif = p.rif ∧ (recordFollows t i p).tst = p.tst ∧ (recordFollows t i p).zmx = p.zmx ∧
      (recordFollows t i p).rmx = p.rmx ∧ (recordFollows t i p).tuc = p.tuc ∧ (recordFollows t i p).anu = p.anu
      ∧ (recordFollows t i p).rlu = p.rlu ∧ (recordFollows t i p).clp = p.clp ∧ (recordFollows t i p).nfu =
      p.nfu ∧ (recordFollows t i p).pwc = p.pwc ∧ (recordFollows t i p).draws = p.draws := by simp [recordFollows]

@[simp] theorem fileIdent_frame (t : TunerId) (c : Nat) (cap act : Bool) (p : Part) :
    (fileIdent t c cap act p).2.rif = p.rif ∧ (fileIdent t c cap act p).2.rmx = p.rmx
      ∧ (fileIdent t c cap act p).2.tuc = p.tuc ∧ (fileIdent t c cap act p).2.anu = p.anu
      ∧ (fileIdent t c cap act p).2.rlu = p.rlu ∧ (fileIdent t c cap act p).2.clp = p.clp
      ∧ (fileIdent t c cap act p).2.pwc = p.pwc ∧ (fileIdent t c cap act p).2.draws = p.draws := by
  unfold fileIdent
  split
  · simp
  · rename_i h
    obtain ⟨ch, _, hx⟩ := Option.bind_eq_some_iff.mp h
    have a := fileSteps_frame hx
    simp_all

@[simp] theorem fileIdent_posts {n₀ : Nfu} (t : TunerId) (c : Nat) (cap act : Bool) (p : Part)
    (hp : Posts n₀ p.nfu) : Posts n₀ (fileIdent t c cap act p).2.nfu := by
  unfold fileIdent
  split
  · simpa using hp
  · rename_i h
    obtain ⟨ch, _, hx⟩ := Option.bind_eq_some_iff.mp h
    have a := fileSteps_posts hx hp
    simp_all

@[simp] theorem fileFreq_frame (t : TunerId) (i : Nat) (b : Band) (f : Nat) (p : Part) :
    (fileFreq t i b f p).rif = p.rif ∧ (fileFreq t i b f p).rmx = p.rmx ∧ (fileFreq t i b f p).tuc = p.tuc
      ∧ (fileFreq t i b f p).anu = p.anu ∧ (fileFreq t i b f p).rlu = p.rlu ∧ (fileFreq t i b f p).clp = p.clp
      ∧ (fileFreq t i b f p).pwc = p.pwc ∧ (fileFreq t i b f p).draws = p.draws := by
  unfold fileFreq
  dsimp only
  repeat' split
  all_goals first | (simp; done) | skip
  rename_i h
  have a := takeChannel_frame h
  simp [a]

@[simp] theorem fileFreq_posts {n₀ : Nfu} (t : TunerId) (i : Nat) (b : Band) (f : Nat) (p : Part)
    (hp : Posts n₀ p.nfu) : Posts n₀ (fileFreq t i b f p).nfu := by
  unfold fileFreq
  dsimp only
  repeat' split
  all_goals first | exact hp | (simp [hp]; done) | skip
  rename_i h
  have a := takeChannel_posts h hp
  simp [a]

@[simp] theorem fileFreqs_frame (t : TunerId) (fs : List Nat) (p : Part) :
    (fileFreqs t fs p).rif = p.rif ∧ (fileFreqs t fs p).rmx = p.rmx ∧ (fileFreqs t fs p).tuc = p.tuc ∧
      (fileFreqs t fs p).anu = p.anu ∧ (fileFreqs t fs p).rlu = p.rlu ∧ (fileFreqs t fs p).clp = p.clp ∧
      (fileFreqs t fs p).pwc = p.pwc ∧ (fileFreqs t fs p).draws = p.draws := by
  unfold fileFreqs; dsimp only; repeat' split
  all_goals simp

@[simp] theorem fileFreqs_posts {n₀ : Nfu} (t : TunerId) (fs : List Nat) (p : Part) (h : Posts n₀ p.nfu) : Posts
  n₀ (fileFreqs t fs p).nfu := by
  unfold fileFreqs; dsimp only; repeat' split
  all_goals simp (maxDischargeDepth := 30) +contextual [h]

@[simp] theorem fileLabel_frame (t : TunerId) (n : Nat) (c1 c2 : Byte) (p : Part) :
    (fileLabel t n c1 c2 p).rif = p.rif ∧ (fileLabel t n c1 c2 p).zmx = p.zmx ∧ (fileLabel t n c1 c2 p).rmx =
      p.rmx ∧ (fileLabel t n c1 c2 p).tuc = p.tuc ∧ (fileLabel t n c1 c2 p).anu = p.anu ∧ (fileLabel t n c1 c2
      p).rlu = p.rlu ∧ (fileLabel t n c1 c2 p).clp = p.clp ∧ (fileLabel t n c1 c2 p).pwc = p.pwc ∧ (fileLabel t
      n c1 c2 p).draws = p.draws := by
  unfold fileLabel; dsimp only; repeat' split
  all_goals simp

@[simp] theorem fileLabel_posts {n₀ : Nfu} (t : TunerId) (n : Nat) (c1 c2 : Byte) (p : Part) (h : Posts n₀
  p.nfu) : Posts n₀ (fileLabel t n c1 c2 p).nfu := by
  unfold fileLabel; dsimp only; repeat' split
  all_goals simp (maxDischargeDepth := 30) +contextual [h]

@[simp] theorem captureCopy_frame (t : TunerId) (pk : Packet) (p : Part) :
    (captureCopy t pk p).rif = p.rif ∧ (captureCopy t pk p).tst = p.tst ∧ (captureCopy t pk p).zmx = p.zmx ∧
      (captureCopy t pk p).rmx = p.rmx ∧ (captureCopy t pk p).tuc = p.tuc ∧ (captureCopy t pk p).anu = p.anu ∧
      (captureCopy t pk p).rlu = p.rlu ∧ (captureCopy t pk p).clp = p.clp ∧ (captureCopy t pk p).pwc = p.pwc ∧
      (captureCopy t pk p).draws = p.draws := by simp [captureCopy]

@[simp] theorem captureCopy_posts {n₀ : Nfu} (t : TunerId) (pk : Packet) (p : Part) (h : Posts n₀ p.nfu) : Posts
  n₀ (captureCopy t pk p).nfu := by
  simp (maxDischargeDepth := 30) +contextual [captureCopy, h]

@[simp] theorem captureIdle_frame (p : Part) :
    (captureIdle p).rif = p.rif ∧ (captureIdle p).tst = p.tst ∧ (captureIdle p).zmx = p.zmx ∧ (captureIdle
      p).rmx = p.rmx ∧ (captureIdle p).tuc = p.tuc ∧ (captureIdle p).anu = p.anu ∧ (captureIdle p).rlu = p.rlu ∧
      (captureIdle p).clp = p.clp ∧ (captureIdle p).pwc = p.pwc ∧ (captureIdle p).draws = p.draws := by simp [captureIdle]

@[simp] theorem captureIdle_posts {n₀ : Nfu} (p : Part) (h : Posts n₀ p.nfu) : Posts n₀ (captureIdle p).nfu := by
  simp (maxDischargeDepth := 30) +contextual [captureIdle, h]

@[simp] theorem findVisit_frame (u : TunerId) (n : Nat) (p : Part) :
    (findVisit u n p).2.rif = p.rif ∧ (findVisit u n p).2.rmx = p.rmx ∧ (findVisit u n p).2.anu = p.anu
      ∧ (findVisit u n p).2.rlu = p.rlu ∧ (findVisit u n p).2.clp = p.clp ∧ (findVisit u n p).2.pwc = p.pwc
      ∧ (findVisit u n p).2.draws = p.draws := by
  induction n generalizing p with
  | zero => simp [findVisit]
  | succ n ih =>
    unfold findVisit
    dsimp only
    repeat' split
    all_goals simp [ih]

@[simp] theorem findVisit_posts {n₀ : Nfu} (u : TunerId) (n : Nat) (p : Part) (h : Posts n₀ p.nfu) :
    Posts n₀ (findVisit u n p).2.nfu := by
  induction n generalizing p with
  | zero => simpa [findVisit] using h
  | succ n ih =>
    unfold findVisit
    dsimp only
    repeat' split
    all_goals simp [ih, h]

@[simp] theorem readVisit_frame (u : TunerId) (p : Part) :
    (readVisit u p).2.rif = p.rif ∧ (readVisit u p).2.rmx = p.rmx ∧ (readVisit u p).2.anu = p.anu
      ∧ (readVisit u p).2.rlu = p.rlu ∧ (readVisit u p).2.clp = p.clp ∧ (readVisit u p).2.pwc = p.pwc
      ∧ (readVisit u p).2.draws = p.draws := findVisit_frame u 49 p

@[simp] theorem readVisit_posts {n₀ : Nfu} (u : TunerId) (p : Part) (h : Posts n₀ p.nfu) :
    Posts n₀ (readVisit u p).2.nfu := findVisit_posts u 49 p h

@[simp] theorem atVisit_frame (v : Nat × Nat × Chan) (p : Part) :
    (atVisit v p).rif = p.rif ∧ (atVisit v p).tst = p.tst ∧ (atVisit v p).zmx = p.zmx ∧ (atVisit v p).rmx =
      p.rmx ∧ (atVisit v p).tuc = p.tuc ∧ (atVisit v p).anu = p.anu ∧ (atVisit v p).rlu = p.rlu ∧ (atVisit v
      p).clp = p.clp ∧ (atVisit v p).nfu = p.nfu ∧ (atVisit v p).pwc = p.pwc ∧ (atVisit v p).draws = p.draws := by simp [atVisit]

@[simp] theorem keepBackground_frame (p : Part) :
    (keepBackground p).rif = p.rif ∧ (keepBackground p).rmx = p.rmx ∧ (keepBackground p).anu = p.anu ∧
      (keepBackground p).clp = p.clp ∧ (keepBackground p).pwc = p.pwc ∧ (keepBackground p).draws = p.draws := by
  unfold keepBackground; dsimp only; repeat' split
  all_goals simp

@[simp] theorem keepBackground_posts {n₀ : Nfu} (p : Part) (h : Posts n₀ p.nfu) : Posts n₀ (keepBackground
  p).nfu := by
  unfold keepBackground; dsimp only; repeat' split
  all_goals simp (maxDischargeDepth := 30) +contextual [h]

@[simp] theorem backgroundDwellEnd_frame (p : Part) :
    (backgroundDwellEnd p).rif = p.rif ∧ (backgroundDwellEnd p).rmx = p.rmx ∧ (backgroundDwellEnd p).anu = p.anu
      ∧ (backgroundDwellEnd p).rlu = p.rlu ∧ (backgroundDwellEnd p).clp = p.clp ∧ (backgroundDwellEnd p).pwc =
      p.pwc ∧ (backgroundDwellEnd p).draws = p.draws := by
  unfold backgroundDwellEnd; dsimp only; repeat' split
  all_goals simp

@[simp] theorem backgroundDwellEnd_posts {n₀ : Nfu} (p : Part) (h : Posts n₀ p.nfu) : Posts n₀
  (backgroundDwellEnd p).nfu := by
  unfold backgroundDwellEnd; dsimp only; repeat' split
  all_goals simp (maxDischargeDepth := 30) +contextual [h]

@[simp] theorem scanMove_frame (p : Part) :
    (scanMove p).rif = p.rif ∧ (scanMove p).rmx = p.rmx ∧ (scanMove p).anu = p.anu ∧ (scanMove p).rlu = p.rlu ∧
      (scanMove p).clp = p.clp ∧ (scanMove p).pwc = p.pwc ∧ (scanMove p).draws = p.draws := by
  unfold scanMove; split <;> simp

@[simp] theorem scanMove_posts {n₀ : Nfu} (p : Part) (h : Posts n₀ p.nfu) : Posts n₀ (scanMove p).nfu := by
  unfold scanMove; repeat' split
  all_goals simp (maxDischargeDepth := 30) +contextual [h]

@[simp] theorem scanJudge_frame (p : Part) :
    (scanJudge p).rif = p.rif ∧ (scanJudge p).rmx = p.rmx ∧ (scanJudge p).anu = p.anu ∧ (scanJudge p).rlu =
      p.rlu ∧ (scanJudge p).clp = p.clp ∧ (scanJudge p).pwc = p.pwc ∧ (scanJudge p).draws = p.draws := by
  unfold scanJudge; split <;> simp

@[simp] theorem scanJudge_posts {n₀ : Nfu} (p : Part) (h : Posts n₀ p.nfu) : Posts n₀ (scanJudge p).nfu := by
  unfold scanJudge; split <;> simp [h]

@[simp] theorem scanIdent_frame (t : TunerId) (p : Part) :
    (scanIdent t p).rif = p.rif ∧ (scanIdent t p).rmx = p.rmx ∧ (scanIdent t p).anu = p.anu ∧ (scanIdent t
      p).rlu = p.rlu ∧ (scanIdent t p).clp = p.clp ∧ (scanIdent t p).pwc = p.pwc ∧ (scanIdent t p).draws =
      p.draws := by
  unfold scanIdent; split <;> simp

@[simp] theorem scanIdent_posts {n₀ : Nfu} (t : TunerId) (p : Part) (h : Posts n₀ p.nfu) : Posts n₀ (scanIdent t
  p).nfu := by
  unfold scanIdent; split <;> simp [h]

@[simp] theorem scanJudgeTimeout_frame (p : Part) :
    (scanJudgeTimeout p).rif = p.rif ∧ (scanJudgeTimeout p).rmx = p.rmx ∧ (scanJudgeTimeout p).anu = p.anu ∧
      (scanJudgeTimeout p).rlu = p.rlu ∧ (scanJudgeTimeout p).clp = p.clp ∧ (scanJudgeTimeout p).pwc = p.pwc ∧
      (scanJudgeTimeout p).draws = p.draws := by
  unfold scanJudgeTimeout; split <;> simp

@[simp] theorem scanJudgeTimeout_posts {n₀ : Nfu} (p : Part) (h : Posts n₀ p.nfu) : Posts n₀ (scanJudgeTimeout
  p).nfu := by
  unfold scanJudgeTimeout; split <;> simp [h]

@[simp] theorem scanDwellTimeout_frame (p : Part) :
    (scanDwellTimeout p).rif = p.rif ∧ (scanDwellTimeout p).rmx = p.rmx ∧ (scanDwellTimeout p).anu = p.anu ∧
      (scanDwellTimeout p).rlu = p.rlu ∧ (scanDwellTimeout p).clp = p.clp ∧ (scanDwellTimeout p).pwc = p.pwc ∧
      (scanDwellTimeout p).draws = p.draws := by
  unfold scanDwellTimeout; split <;> simp

@[simp] theorem scanDwellTimeout_posts {n₀ : Nfu} (p : Part) (h : Posts n₀ p.nfu) : Posts n₀ (scanDwellTimeout
  p).nfu := by
  unfold scanDwellTimeout; split <;> simp [h]

@[simp] theorem askWatch_frame (p : Part) :
    (askWatch p).rif = p.rif ∧ (askWatch p).rmx = p.rmx ∧ (askWatch p).anu = p.anu ∧ (askWatch p).clp = p.clp ∧
      (askWatch p).pwc = p.pwc ∧ (askWatch p).draws = p.draws := by
  unfold askWatch; dsimp only; repeat' split
  all_goals simp

@[simp] theorem askWatch_posts {n₀ : Nfu} (p : Part) (h : Posts n₀ p.nfu) : Posts n₀ (askWatch p).nfu := by
  unfold askWatch; dsimp only; repeat' split
  all_goals simp (maxDischargeDepth := 30) +contextual [h]

@[simp] theorem watchNotice_frame (old new : WatchState) (p : Part) :
    (watchNotice old new p).rif = p.rif ∧ (watchNotice old new p).tst = p.tst ∧ (watchNotice old new p).zmx =
      p.zmx ∧ (watchNotice old new p).rmx = p.rmx ∧ (watchNotice old new p).tuc = p.tuc ∧ (watchNotice old new
      p).stm = p.stm ∧ (watchNotice old new p).anu = p.anu ∧ (watchNotice old new p).rlu = p.rlu ∧ (watchNotice
      old new p).clp = p.clp ∧ (watchNotice old new p).pwc = p.pwc ∧ (watchNotice old new p).draws = p.draws := by
  unfold watchNotice; split <;> simp

@[simp] theorem watchNotice_posts {n₀ : Nfu} (old new : WatchState) (p : Part) (h : Posts n₀ p.nfu) : Posts n₀
  (watchNotice old new p).nfu := by
  unfold watchNotice; split <;> simp [h]

@[simp] theorem judgeWatch_frame (p : Part) :
    (judgeWatch p).rif = p.rif ∧ (judgeWatch p).tst = p.tst ∧ (judgeWatch p).zmx = p.zmx ∧ (judgeWatch p).rmx =
      p.rmx ∧ (judgeWatch p).tuc = p.tuc ∧ (judgeWatch p).anu = p.anu ∧ (judgeWatch p).rlu = p.rlu ∧ (judgeWatch
      p).clp = p.clp ∧ (judgeWatch p).pwc = p.pwc ∧ (judgeWatch p).draws = p.draws := by simp [judgeWatch]

@[simp] theorem judgeWatch_posts {n₀ : Nfu} (p : Part) (h : Posts n₀ p.nfu) : Posts n₀ (judgeWatch p).nfu := by
  simp [judgeWatch, h]

@[simp] theorem dropWatch_frame (p : Part) :
    (dropWatch p).rif = p.rif ∧ (dropWatch p).tst = p.tst ∧ (dropWatch p).zmx = p.zmx ∧ (dropWatch p).rmx =
      p.rmx ∧ (dropWatch p).anu = p.anu ∧ (dropWatch p).rlu = p.rlu ∧ (dropWatch p).clp = p.clp ∧ (dropWatch
      p).pwc = p.pwc ∧ (dropWatch p).draws = p.draws := by simp [dropWatch]

@[simp] theorem dropWatch_posts {n₀ : Nfu} (p : Part) (h : Posts n₀ p.nfu) : Posts n₀ (dropWatch p).nfu := by
  simp [dropWatch, h]

@[simp] theorem readFront_frame (p : Part) :
    (readFront p).rif = p.rif ∧ (readFront p).rmx = p.rmx ∧ (readFront p).anu = p.anu
      ∧ (readFront p).rlu = p.rlu ∧ (readFront p).clp = p.clp ∧ (readFront p).pwc = p.pwc
      ∧ (readFront p).draws = p.draws := by
  unfold readFront; split <;> simp

@[simp] theorem readFront_posts {n₀ : Nfu} (p : Part) (h : Posts n₀ p.nfu) : Posts n₀ (readFront p).nfu := by
  unfold readFront; split <;> simp [h]

@[simp] theorem readWatched_frame (p : Part) :
    (readWatched p).rif = p.rif ∧ (readWatched p).rmx = p.rmx ∧ (readWatched p).anu = p.anu
      ∧ (readWatched p).rlu = p.rlu ∧ (readWatched p).clp = p.clp ∧ (readWatched p).pwc = p.pwc
      ∧ (readWatched p).draws = p.draws := by
  unfold readWatched; split <;> simp

@[simp] theorem readWatched_posts {n₀ : Nfu} (p : Part) (h : Posts n₀ p.nfu) : Posts n₀ (readWatched p).nfu := by
  unfold readWatched; split <;> simp (maxDischargeDepth := 4) [h]

@[simp] theorem keepWatch_frame (ask : Bool) (p : Part) :
    (keepWatch ask p).rif = p.rif ∧ (keepWatch ask p).rmx = p.rmx ∧ (keepWatch ask p).anu = p.anu ∧ (keepWatch
      ask p).clp = p.clp ∧ (keepWatch ask p).pwc = p.pwc ∧ (keepWatch ask p).draws = p.draws := by simp [keepWatch]

@[simp] theorem keepWatch_posts {n₀ : Nfu} (ask : Bool) (p : Part) (h : Posts n₀ p.nfu) : Posts n₀ (keepWatch
  ask p).nfu := by
  simp (maxDischargeDepth := 30) +contextual [keepWatch, h]

@[simp] theorem watchRetry_frame (p : Part) :
    (watchRetry p).rif = p.rif ∧ (watchRetry p).rmx = p.rmx ∧ (watchRetry p).anu = p.anu ∧ (watchRetry p).clp =
      p.clp ∧ (watchRetry p).pwc = p.pwc ∧ (watchRetry p).draws = p.draws := by simp [watchRetry]

@[simp] theorem watchRetry_posts {n₀ : Nfu} (p : Part) (h : Posts n₀ p.nfu) : Posts n₀ (watchRetry p).nfu := by
  simp [watchRetry, h]

@[simp] theorem bulletinStart_frame (t : TunerId) (i : Nat) (p : Part) :
    (bulletinStart t i p).rif = p.rif ∧ (bulletinStart t i p).rmx = p.rmx ∧ (bulletinStart t i p).pwc = p.pwc ∧
      (bulletinStart t i p).draws = p.draws := by
  unfold bulletinStart; split <;> simp

@[simp] theorem bulletinStart_posts {n₀ : Nfu} (t : TunerId) (i : Nat) (p : Part) (h : Posts n₀ p.nfu) : Posts
  n₀ (bulletinStart t i p).nfu := by
  unfold bulletinStart; repeat' split
  all_goals simp (maxDischargeDepth := 30) +contextual [h]

@[simp] theorem bulletinIdent_frame (t : TunerId) (filed : Option Nat) (p : Part) :
    (bulletinIdent t filed p).rif = p.rif ∧ (bulletinIdent t filed p).rmx = p.rmx ∧ (bulletinIdent t filed
      p).pwc = p.pwc ∧ (bulletinIdent t filed p).draws = p.draws := by
  unfold bulletinIdent; dsimp only; repeat' split
  all_goals simp

@[simp] theorem bulletinIdent_posts {n₀ : Nfu} (t : TunerId) (filed : Option Nat) (p : Part) (h : Posts n₀
  p.nfu) : Posts n₀ (bulletinIdent t filed p).nfu := by
  unfold bulletinIdent; dsimp only; repeat' split
  all_goals simp (maxDischargeDepth := 30) +contextual [h]

@[simp] theorem readFollowed_frame (t : TunerId) (p : Part) :
    (readFollowed t p).rif = p.rif ∧ (readFollowed t p).rmx = p.rmx ∧ (readFollowed t p).anu = p.anu ∧
      (readFollowed t p).rlu = p.rlu ∧ (readFollowed t p).clp = p.clp ∧ (readFollowed t p).pwc = p.pwc ∧
      (readFollowed t p).draws = p.draws := by
  unfold readFollowed; split <;> simp

@[simp] theorem readFollowed_posts {n₀ : Nfu} (t : TunerId) (p : Part) (h : Posts n₀ p.nfu) : Posts n₀
  (readFollowed t p).nfu := by
  unfold readFollowed; split <;> simp [h]

@[simp] theorem readKept_frame (p : Part) :
    (readKept p).rif = p.rif ∧ (readKept p).rmx = p.rmx ∧ (readKept p).anu = p.anu ∧ (readKept p).rlu = p.rlu
      ∧ (readKept p).clp = p.clp ∧ (readKept p).pwc = p.pwc ∧ (readKept p).draws = p.draws := by
  unfold readKept; dsimp only; repeat' split
  all_goals simp

@[simp] theorem readKept_posts {n₀ : Nfu} (p : Part) (h : Posts n₀ p.nfu) : Posts n₀ (readKept p).nfu := by
  unfold readKept; dsimp only; repeat' split
  all_goals simp (maxDischargeDepth := 30) +contextual [h]

@[simp] theorem stopTimer_frame (t : TunerId) (p : Part) :
    (stopTimer t p).rif = p.rif ∧ (stopTimer t p).tst = p.tst ∧ (stopTimer t p).zmx = p.zmx ∧ (stopTimer t
      p).rmx = p.rmx ∧ (stopTimer t p).tuc = p.tuc ∧ (stopTimer t p).anu = p.anu ∧ (stopTimer t p).rlu = p.rlu ∧
      (stopTimer t p).clp = p.clp ∧ (stopTimer t p).nfu = p.nfu ∧ (stopTimer t p).pwc = p.pwc ∧ (stopTimer t
      p).draws = p.draws := by simp [stopTimer]

@[simp] theorem keepRounds_frame (n : Nat) (ask : Bool) (p : Part) :
    (keepRounds n ask p).rif = p.rif ∧ (keepRounds n ask p).rmx = p.rmx ∧ (keepRounds n ask p).anu = p.anu ∧
      (keepRounds n ask p).clp = p.clp ∧ (keepRounds n ask p).pwc = p.pwc ∧
      (keepRounds n ask p).draws = p.draws := by
  induction n generalizing ask p with
  | zero => simp [keepRounds]
  | succ n ih => simp only [keepRounds]; split <;> simp [ih]

@[simp] theorem keepRounds_posts {n₀ : Nfu} (n : Nat) (ask : Bool) (p : Part) (h : Posts n₀ p.nfu) :
    Posts n₀ (keepRounds n ask p).nfu := by
  induction n generalizing ask p with
  | zero => simpa [keepRounds]
  | succ n ih =>
    simp only [keepRounds]
    split
    · simp [h]
    · exact ih _ _ (by simp [h])

@[simp] theorem keepClaims_frame (ask : Bool) (p : Part) :
    (keepClaims ask p).rif = p.rif ∧ (keepClaims ask p).rmx = p.rmx ∧ (keepClaims ask p).anu = p.anu ∧
      (keepClaims ask p).clp = p.clp ∧ (keepClaims ask p).pwc = p.pwc ∧ (keepClaims ask p).draws = p.draws := by simp [keepClaims]

@[simp] theorem keepClaims_posts {n₀ : Nfu} (ask : Bool) (p : Part) (h : Posts n₀ p.nfu) : Posts n₀ (keepClaims
  ask p).nfu := by
  simp (maxDischargeDepth := 30) +contextual [keepClaims, h]

@[simp] theorem stmSettle_frame (before p : Part) :
    (stmSettle before p).rif = p.rif ∧ (stmSettle before p).rmx = p.rmx ∧ (stmSettle before p).clp = p.clp ∧
      (stmSettle before p).pwc = p.pwc ∧ (stmSettle before p).draws = p.draws := by simp [stmSettle]

@[simp] theorem stmSettle_posts {n₀ : Nfu} (before p : Part) (h : Posts n₀ p.nfu) : Posts n₀ (stmSettle before
  p).nfu := by
  simp (maxDischargeDepth := 30) +contextual [stmSettle, h]

@[simp] theorem settleRead_frame (before p : Part) :
    (settleRead before p).rif = p.rif ∧ (settleRead before p).rmx = p.rmx ∧ (settleRead before p).clp = p.clp ∧
      (settleRead before p).pwc = p.pwc ∧ (settleRead before p).draws = p.draws := by simp [settleRead]

@[simp] theorem settleRead_posts {n₀ : Nfu} (before p : Part) (h : Posts n₀ p.nfu) : Posts n₀ (settleRead before
  p).nfu := by
  simp [settleRead, h]

/-! ### Tuners -/

@[simp] theorem zonesTune_frame (t : TunerId) (c : Chan) (p : Part) :
    (zonesTune t c p).rif = p.rif ∧ (zonesTune t c p).tst = p.tst ∧ (zonesTune t c p).rmx = p.rmx ∧ (zonesTune t
      c p).tuc = p.tuc ∧ (zonesTune t c p).stm = p.stm ∧ (zonesTune t c p).anu = p.anu ∧ (zonesTune t c p).rlu =
      p.rlu ∧ (zonesTune t c p).clp = p.clp ∧ (zonesTune t c p).nfu = p.nfu ∧ (zonesTune t c p).pwc = p.pwc ∧
      (zonesTune t c p).draws = p.draws := by simp [zonesTune]

@[simp] theorem holdZones_frame (t : TunerId) (p : Part) :
    (holdZones t p).rif = p.rif ∧ (holdZones t p).tst = p.tst ∧ (holdZones t p).rmx = p.rmx ∧ (holdZones t
      p).tuc = p.tuc ∧ (holdZones t p).stm = p.stm ∧ (holdZones t p).anu = p.anu ∧ (holdZones t p).rlu = p.rlu ∧
      (holdZones t p).clp = p.clp ∧ (holdZones t p).nfu = p.nfu ∧ (holdZones t p).pwc = p.pwc ∧ (holdZones t
      p).draws = p.draws := by simp [holdZones]

@[simp] theorem endSeek_frame (t : TunerId) (k : Seek) (found : Bool) (p : Part) :
    (endSeek t k found p).rif = p.rif ∧ (endSeek t k found p).rmx = p.rmx ∧ (endSeek t k found p).anu = p.anu ∧
      (endSeek t k found p).rlu = p.rlu ∧ (endSeek t k found p).clp = p.clp ∧ (endSeek t k found p).pwc = p.pwc
      ∧ (endSeek t k found p).draws = p.draws := by
  unfold endSeek; dsimp only; repeat' split
  all_goals simp

@[simp] theorem endSeek_posts {n₀ : Nfu} (t : TunerId) (k : Seek) (found : Bool) (p : Part) (h : Posts n₀ p.nfu)
  : Posts n₀ (endSeek t k found p).nfu := by
  unfold endSeek; dsimp only; repeat' split
  all_goals simp (maxDischargeDepth := 30) +contextual [h]

@[simp] theorem seekStep_frame (t : TunerId) (k : Seek) (c : Chan) (p : Part) :
    (seekStep t k c p).rif = p.rif ∧ (seekStep t k c p).tst = p.tst ∧ (seekStep t k c p).zmx = p.zmx ∧ (seekStep
      t k c p).rmx = p.rmx ∧ (seekStep t k c p).anu = p.anu ∧ (seekStep t k c p).rlu = p.rlu ∧ (seekStep t k c
      p).clp = p.clp ∧ (seekStep t k c p).pwc = p.pwc ∧ (seekStep t k c p).draws = p.draws := by simp [seekStep]

@[simp] theorem seekStep_posts {n₀ : Nfu} (t : TunerId) (k : Seek) (c : Chan) (p : Part) (h : Posts n₀ p.nfu) :
  Posts n₀ (seekStep t k c p).nfu := by
  simp [seekStep, h]

@[simp] theorem seekJudge_frame (t : TunerId) (k : Seek) (p : Part) :
    (seekJudge t k p).rif = p.rif ∧ (seekJudge t k p).rmx = p.rmx ∧ (seekJudge t k p).anu = p.anu ∧ (seekJudge t
      k p).rlu = p.rlu ∧ (seekJudge t k p).clp = p.clp ∧ (seekJudge t k p).pwc = p.pwc ∧ (seekJudge t k p).draws
      = p.draws := by
  unfold seekJudge; repeat' split
  all_goals simp

@[simp] theorem seekJudge_posts {n₀ : Nfu} (t : TunerId) (k : Seek) (p : Part) (h : Posts n₀ p.nfu) : Posts n₀
  (seekJudge t k p).nfu := by
  unfold seekJudge; repeat' split
  all_goals simp (maxDischargeDepth := 30) +contextual [h]

@[simp] theorem seekJudgeTimeout_frame (t : TunerId) (p : Part) :
    (seekJudgeTimeout t p).rif = p.rif ∧ (seekJudgeTimeout t p).tst = p.tst ∧ (seekJudgeTimeout t p).zmx = p.zmx
      ∧ (seekJudgeTimeout t p).rmx = p.rmx ∧ (seekJudgeTimeout t p).anu = p.anu ∧ (seekJudgeTimeout t p).rlu =
      p.rlu ∧ (seekJudgeTimeout t p).clp = p.clp ∧ (seekJudgeTimeout t p).pwc = p.pwc ∧ (seekJudgeTimeout t
      p).draws = p.draws := by
  unfold seekJudgeTimeout; split <;> simp

@[simp] theorem seekJudgeTimeout_posts {n₀ : Nfu} (t : TunerId) (p : Part) (h : Posts n₀ p.nfu) : Posts n₀
  (seekJudgeTimeout t p).nfu := by
  unfold seekJudgeTimeout; split <;> simp [h]

@[simp] theorem startCheck_frame (t : TunerId) (cand home : Chan) (p : Part) :
    (startCheck t cand home p).rif = p.rif ∧ (startCheck t cand home p).tst = p.tst ∧ (startCheck t cand home
      p).rmx = p.rmx ∧ (startCheck t cand home p).anu = p.anu ∧ (startCheck t cand home p).rlu = p.rlu ∧
      (startCheck t cand home p).clp = p.clp ∧ (startCheck t cand home p).pwc = p.pwc ∧ (startCheck t cand home
      p).draws = p.draws := by simp [startCheck]

@[simp] theorem startCheck_posts {n₀ : Nfu} (t : TunerId) (cand home : Chan) (p : Part) (h : Posts n₀ p.nfu) :
  Posts n₀ (startCheck t cand home p).nfu := by
  simp [startCheck, h]

@[simp] theorem returnHome_frame (t : TunerId) (p : Part) :
    (returnHome t p).rif = p.rif ∧ (returnHome t p).tst = p.tst ∧ (returnHome t p).rmx = p.rmx ∧ (returnHome t
      p).anu = p.anu ∧ (returnHome t p).rlu = p.rlu ∧ (returnHome t p).clp = p.clp ∧ (returnHome t p).pwc =
      p.pwc ∧ (returnHome t p).draws = p.draws := by
  unfold returnHome; split <;> simp

@[simp] theorem returnHome_posts {n₀ : Nfu} (t : TunerId) (p : Part) (h : Posts n₀ p.nfu) : Posts n₀ (returnHome
  t p).nfu := by
  unfold returnHome; split <;> simp [h]

@[simp] theorem checkAverage_frame (t : TunerId) (p : Part) :
    (checkAverage t p).rif = p.rif ∧ (checkAverage t p).rmx = p.rmx ∧ (checkAverage t p).anu = p.anu ∧
      (checkAverage t p).rlu = p.rlu ∧ (checkAverage t p).pwc = p.pwc ∧ (checkAverage t p).draws = p.draws := by
  unfold checkAverage; dsimp only; repeat' split
  all_goals simp

@[simp] theorem checkAverage_posts {n₀ : Nfu} (t : TunerId) (p : Part) (h : Posts n₀ p.nfu) : Posts n₀
  (checkAverage t p).nfu := by
  unfold checkAverage; dsimp only; repeat' split
  all_goals simp (maxDischargeDepth := 30) +contextual [h]

@[simp] theorem endCheck_frame (t : TunerId) (p : Part) :
    (endCheck t p).rif = p.rif ∧ (endCheck t p).tst = p.tst ∧ (endCheck t p).zmx = p.zmx ∧ (endCheck t p).rmx =
      p.rmx ∧ (endCheck t p).tuc = p.tuc ∧ (endCheck t p).anu = p.anu ∧ (endCheck t p).rlu = p.rlu ∧ (endCheck t
      p).clp = p.clp ∧ (endCheck t p).nfu = p.nfu ∧ (endCheck t p).pwc = p.pwc ∧ (endCheck t p).draws = p.draws := by simp [endCheck]

@[simp] theorem checkMeasureTimeout_frame (t : TunerId) (p : Part) :
    (checkMeasureTimeout t p).rif = p.rif ∧ (checkMeasureTimeout t p).rmx = p.rmx ∧ (checkMeasureTimeout t
      p).anu = p.anu ∧ (checkMeasureTimeout t p).rlu = p.rlu ∧ (checkMeasureTimeout t p).pwc = p.pwc ∧
      (checkMeasureTimeout t p).draws = p.draws := by simp [checkMeasureTimeout]

@[simp] theorem checkMeasureTimeout_posts {n₀ : Nfu} (t : TunerId) (p : Part) (h : Posts n₀ p.nfu) : Posts n₀
  (checkMeasureTimeout t p).nfu := by
  simp [checkMeasureTimeout, h]

@[simp] theorem checkVerifyTimeout_frame (t : TunerId) (p : Part) :
    (checkVerifyTimeout t p).rif = p.rif ∧ (checkVerifyTimeout t p).tst = p.tst ∧ (checkVerifyTimeout t p).rmx =
      p.rmx ∧ (checkVerifyTimeout t p).anu = p.anu ∧ (checkVerifyTimeout t p).rlu = p.rlu ∧ (checkVerifyTimeout
      t p).clp = p.clp ∧ (checkVerifyTimeout t p).pwc = p.pwc ∧ (checkVerifyTimeout t p).draws = p.draws := by simp [checkVerifyTimeout]

@[simp] theorem checkVerifyTimeout_posts {n₀ : Nfu} (t : TunerId) (p : Part) (h : Posts n₀ p.nfu) : Posts n₀
  (checkVerifyTimeout t p).nfu := by
  simp [checkVerifyTimeout, h]

@[simp] theorem checkIdent_frame (t : TunerId) (code : Nat) (p : Part) :
    (checkIdent t code p).rif = p.rif ∧ (checkIdent t code p).rmx = p.rmx ∧ (checkIdent t code p).anu = p.anu ∧
      (checkIdent t code p).rlu = p.rlu ∧ (checkIdent t code p).clp = p.clp ∧ (checkIdent t code p).pwc = p.pwc := by
  unfold checkIdent; dsimp only; repeat' split
  all_goals simp

@[simp] theorem checkIdent_posts {n₀ : Nfu} (t : TunerId) (code : Nat) (p : Part) (h : Posts n₀ p.nfu) : Posts
  n₀ (checkIdent t code p).nfu := by
  unfold checkIdent; dsimp only; repeat' split
  all_goals simp (maxDischargeDepth := 30) +contextual [h]

@[simp] theorem completed_frame (t : TunerId) (p : Part) :
    (completed t p).rif = p.rif ∧ (completed t p).rmx = p.rmx ∧ (completed t p).anu = p.anu ∧ (completed t
      p).rlu = p.rlu ∧ (completed t p).clp = p.clp ∧ (completed t p).pwc = p.pwc ∧ (completed t p).draws =
      p.draws := by
  unfold completed; dsimp only; repeat' split
  all_goals simp

@[simp] theorem completed_posts {n₀ : Nfu} (t : TunerId) (p : Part) (h : Posts n₀ p.nfu) : Posts n₀ (completed t
  p).nfu := by
  unfold completed; dsimp only; repeat' split
  all_goals simp (maxDischargeDepth := 30) +contextual [h]

@[simp] theorem completeTune_frame (t : TunerId) (p : Part) :
    (completeTune t p).rif = p.rif ∧ (completeTune t p).rmx = p.rmx ∧ (completeTune t p).anu = p.anu ∧
      (completeTune t p).rlu = p.rlu ∧ (completeTune t p).clp = p.clp ∧ (completeTune t p).pwc = p.pwc ∧
      (completeTune t p).draws = p.draws := by simp [completeTune]

@[simp] theorem completeTune_posts {n₀ : Nfu} (t : TunerId) (p : Part) (h : Posts n₀ p.nfu) : Posts n₀
  (completeTune t p).nfu := by
  simp [completeTune, h]

@[simp] theorem countReport_frame (t : TunerId) (p : Part) :
    (countReport t p).rif = p.rif ∧ (countReport t p).rmx = p.rmx ∧ (countReport t p).anu = p.anu ∧ (countReport
      t p).rlu = p.rlu ∧ (countReport t p).pwc = p.pwc ∧ (countReport t p).draws = p.draws := by
  unfold countReport; dsimp only; repeat' split
  all_goals simp

@[simp] theorem countReport_posts {n₀ : Nfu} (t : TunerId) (p : Part) (h : Posts n₀ p.nfu) : Posts n₀
  (countReport t p).nfu := by
  unfold countReport; dsimp only; repeat' split
  all_goals simp (maxDischargeDepth := 30) +contextual [h]

@[simp] theorem watchQuality_frame (t : TunerId) (p : Part) :
    (watchQuality t p).rif = p.rif ∧ (watchQuality t p).rmx = p.rmx ∧ (watchQuality t p).anu = p.anu ∧
      (watchQuality t p).rlu = p.rlu ∧ (watchQuality t p).clp = p.clp ∧ (watchQuality t p).pwc = p.pwc ∧
      (watchQuality t p).draws = p.draws := by simp [watchQuality]

@[simp] theorem watchQuality_posts {n₀ : Nfu} (t : TunerId) (p : Part) (h : Posts n₀ p.nfu) : Posts n₀
  (watchQuality t p).nfu := by
  unfold watchQuality; dsimp only; repeat' split
  all_goals simp [h]

@[simp] theorem qualityReport_frame (t : TunerId) (fs mp adj : Nat) (settled pilot : Bool) (p : Part) :
    (qualityReport t fs mp adj settled pilot p).rif = p.rif ∧ (qualityReport t fs mp adj settled pilot p).rmx =
      p.rmx ∧ (qualityReport t fs mp adj settled pilot p).anu = p.anu ∧ (qualityReport t fs mp adj settled pilot
      p).rlu = p.rlu ∧ (qualityReport t fs mp adj settled pilot p).pwc = p.pwc ∧ (qualityReport t fs mp adj
      settled pilot p).draws = p.draws := by simp [qualityReport]

@[simp] theorem qualityReport_posts {n₀ : Nfu} (t : TunerId) (fs mp adj : Nat) (settled pilot : Bool) (p : Part)
  (h : Posts n₀ p.nfu) : Posts n₀ (qualityReport t fs mp adj settled pilot p).nfu := by
  simp (maxDischargeDepth := 30) +contextual [qualityReport, h]

@[simp] theorem settleTimeout_frame (t : TunerId) (p : Part) :
    (settleTimeout t p).rif = p.rif ∧ (settleTimeout t p).rmx = p.rmx ∧ (settleTimeout t p).anu = p.anu ∧
      (settleTimeout t p).rlu = p.rlu ∧ (settleTimeout t p).pwc = p.pwc ∧ (settleTimeout t p).draws = p.draws := by simp [settleTimeout]

@[simp] theorem settleTimeout_posts {n₀ : Nfu} (t : TunerId) (p : Part) (h : Posts n₀ p.nfu) : Posts n₀
  (settleTimeout t p).nfu := by
  simp (maxDischargeDepth := 30) +contextual [settleTimeout, h]

@[simp] theorem qualityStore_frame (t : TunerId) (p : Part) :
    (qualityStore t p).rif = p.rif ∧ (qualityStore t p).rmx = p.rmx ∧ (qualityStore t p).clp = p.clp ∧
      (qualityStore t p).pwc = p.pwc ∧ (qualityStore t p).draws = p.draws := by
  unfold qualityStore; dsimp only; repeat' split
  all_goals simp

@[simp] theorem qualityStore_posts {n₀ : Nfu} (t : TunerId) (p : Part) (h : Posts n₀ p.nfu) : Posts n₀
  (qualityStore t p).nfu := by
  unfold qualityStore; dsimp only; repeat' split
  all_goals simp (maxDischargeDepth := 30) +contextual [h]

@[simp] theorem startSwitch_frame (t : TunerId) (cand : Chan) (p : Part) :
    (startSwitch t cand p).rif = p.rif ∧ (startSwitch t cand p).rmx = p.rmx ∧ (startSwitch t cand p).anu = p.anu
      ∧ (startSwitch t cand p).clp = p.clp ∧ (startSwitch t cand p).pwc = p.pwc ∧ (startSwitch t cand p).draws =
      p.draws := by simp [startSwitch]

@[simp] theorem startSwitch_posts {n₀ : Nfu} (t : TunerId) (cand : Chan) (p : Part) (h : Posts n₀ p.nfu) : Posts
  n₀ (startSwitch t cand p).nfu := by
  simp [startSwitch, h]

@[simp] theorem afHoldExpiry_frame (t : TunerId) (p : Part) :
    (afHoldExpiry t p).rif = p.rif ∧ (afHoldExpiry t p).rmx = p.rmx ∧ (afHoldExpiry t p).anu = p.anu ∧
      (afHoldExpiry t p).pwc = p.pwc ∧ (afHoldExpiry t p).draws = p.draws := by
  unfold afHoldExpiry; dsimp only; repeat' split
  all_goals simp

@[simp] theorem afHoldExpiry_posts {n₀ : Nfu} (t : TunerId) (p : Part) (h : Posts n₀ p.nfu) : Posts n₀
  (afHoldExpiry t p).nfu := by
  unfold afHoldExpiry; dsimp only; repeat' split
  all_goals simp (maxDischargeDepth := 30) +contextual [h]

@[simp] theorem switchIdent_frame (u : TunerId) (code : Nat) (p : Part) :
    (switchIdent u code p).rif = p.rif ∧ (switchIdent u code p).rmx = p.rmx ∧ (switchIdent u code p).anu = p.anu
      ∧ (switchIdent u code p).rlu = p.rlu ∧ (switchIdent u code p).clp = p.clp ∧ (switchIdent u code p).pwc =
      p.pwc ∧ (switchIdent u code p).draws = p.draws := by simp [switchIdent]

@[simp] theorem switchIdent_posts {n₀ : Nfu} (u : TunerId) (code : Nat) (p : Part) (h : Posts n₀ p.nfu) : Posts
  n₀ (switchIdent u code p).nfu := by
  simp (maxDischargeDepth := 30) +contextual [switchIdent, h]

@[simp] theorem switchVerifyTimeout_frame (t : TunerId) (p : Part) :
    (switchVerifyTimeout t p).rif = p.rif ∧ (switchVerifyTimeout t p).rmx = p.rmx ∧ (switchVerifyTimeout t
      p).anu = p.anu ∧ (switchVerifyTimeout t p).rlu = p.rlu ∧ (switchVerifyTimeout t p).clp = p.clp ∧
      (switchVerifyTimeout t p).pwc = p.pwc ∧ (switchVerifyTimeout t p).draws = p.draws := by simp [switchVerifyTimeout]

@[simp] theorem switchVerifyTimeout_posts {n₀ : Nfu} (t : TunerId) (p : Part) (h : Posts n₀ p.nfu) : Posts n₀
  (switchVerifyTimeout t p).nfu := by
  simp [switchVerifyTimeout, h]

@[simp] theorem beginFade_frame (t : TunerId) (p : Part) :
    (beginFade t p).rif = p.rif ∧ (beginFade t p).tst = p.tst ∧ (beginFade t p).rmx = p.rmx ∧ (beginFade t
      p).tuc = p.tuc ∧ (beginFade t p).anu = p.anu ∧ (beginFade t p).rlu = p.rlu ∧ (beginFade t p).clp = p.clp ∧
      (beginFade t p).nfu = p.nfu ∧ (beginFade t p).pwc = p.pwc ∧ (beginFade t p).draws = p.draws := by simp [beginFade]

@[simp] theorem completeSwitch_frame (t : TunerId) (p : Part) :
    (completeSwitch t p).rif = p.rif ∧ (completeSwitch t p).tst = p.tst ∧ (completeSwitch t p).rmx = p.rmx ∧
      (completeSwitch t p).anu = p.anu ∧ (completeSwitch t p).rlu = p.rlu ∧ (completeSwitch t p).clp = p.clp ∧
      (completeSwitch t p).pwc = p.pwc ∧ (completeSwitch t p).draws = p.draws := by
  unfold completeSwitch; dsimp only; repeat' split
  all_goals simp

@[simp] theorem completeSwitch_posts {n₀ : Nfu} (t : TunerId) (p : Part) (h : Posts n₀ p.nfu) : Posts n₀
  (completeSwitch t p).nfu := by
  unfold completeSwitch; dsimp only; repeat' split
  all_goals simp (maxDischargeDepth := 30) +contextual [h]

@[simp] theorem afFadeStep_frame (t : TunerId) (p : Part) :
    (afFadeStep t p).rif = p.rif ∧ (afFadeStep t p).tst = p.tst ∧ (afFadeStep t p).rmx = p.rmx ∧ (afFadeStep t
      p).anu = p.anu ∧ (afFadeStep t p).rlu = p.rlu ∧ (afFadeStep t p).clp = p.clp ∧ (afFadeStep t p).pwc =
      p.pwc ∧ (afFadeStep t p).draws = p.draws := by
  unfold afFadeStep; repeat' split
  all_goals simp

@[simp] theorem afFadeStep_posts {n₀ : Nfu} (t : TunerId) (p : Part) (h : Posts n₀ p.nfu) : Posts n₀ (afFadeStep
  t p).nfu := by
  unfold afFadeStep; repeat' split
  all_goals simp (maxDischargeDepth := 30) +contextual [h]

@[simp] theorem afSwitchComplete_frame (t : TunerId) (p : Part) :
    (afSwitchComplete t p).rif = p.rif ∧ (afSwitchComplete t p).tst = p.tst ∧ (afSwitchComplete t p).rmx = p.rmx
      ∧ (afSwitchComplete t p).anu = p.anu ∧ (afSwitchComplete t p).rlu = p.rlu ∧ (afSwitchComplete t p).clp =
      p.clp ∧ (afSwitchComplete t p).pwc = p.pwc ∧ (afSwitchComplete t p).draws = p.draws := by simp [afSwitchComplete]

@[simp] theorem afSwitchComplete_posts {n₀ : Nfu} (t : TunerId) (p : Part) (h : Posts n₀ p.nfu) : Posts n₀
  (afSwitchComplete t p).nfu := by
  simp [afSwitchComplete, h]

@[simp] theorem clearOwn_frame (w : Claimant) (t : TunerId) (p : Part) :
    (clearOwn w t p).rif = p.rif ∧ (clearOwn w t p).tst = p.tst ∧ (clearOwn w t p).rmx = p.rmx ∧ (clearOwn w t
      p).anu = p.anu ∧ (clearOwn w t p).clp = p.clp ∧ (clearOwn w t p).pwc = p.pwc ∧ (clearOwn w t p).draws =
      p.draws := by simp [clearOwn]

@[simp] theorem clearOwn_posts {n₀ : Nfu} (w : Claimant) (t : TunerId) (p : Part) (h : Posts n₀ p.nfu) : Posts
  n₀ (clearOwn w t p).nfu := by
  simp (maxDischargeDepth := 30) +contextual [clearOwn, h]

@[simp] theorem zonePending_frame (z : ZoneId) (c : Chan) (p : Part) :
    (zonePending z c p).rif = p.rif ∧ (zonePending z c p).rmx = p.rmx ∧ (zonePending z c p).anu = p.anu ∧
      (zonePending z c p).rlu = p.rlu ∧ (zonePending z c p).clp = p.clp ∧ (zonePending z c p).pwc = p.pwc ∧
      (zonePending z c p).draws = p.draws := by simp [zonePending]

@[simp] theorem zonePending_posts {n₀ : Nfu} (z : ZoneId) (c : Chan) (p : Part) (h : Posts n₀ p.nfu) : Posts n₀
  (zonePending z c p).nfu := by
  simp [zonePending, h]

@[simp] theorem decideTune_frame (z : ZoneId) (w : Claimant) (c : Chan) (p : Part) :
    (decideTune z w c p).2.rif = p.rif ∧ (decideTune z w c p).2.rmx = p.rmx ∧ (decideTune z w c p).2.anu = p.anu
      ∧ (decideTune z w c p).2.clp = p.clp ∧ (decideTune z w c p).2.pwc = p.pwc ∧ (decideTune z w c p).2.draws =
      p.draws := by
  unfold decideTune; dsimp only; repeat' split
  all_goals simp

@[simp] theorem decideTune_posts {n₀ : Nfu} (z : ZoneId) (w : Claimant) (c : Chan) (p : Part) (h : Posts n₀
  p.nfu) : Posts n₀ (decideTune z w c p).2.nfu := by
  unfold decideTune; dsimp only; repeat' split
  all_goals simp (maxDischargeDepth := 30) +contextual [h]

@[simp] theorem tuneZone_frame (z : ZoneId) (c : Chan) (p : Part) :
    (tuneZone z c p).2.rif = p.rif ∧ (tuneZone z c p).2.rmx = p.rmx ∧ (tuneZone z c p).2.anu = p.anu ∧ (tuneZone
      z c p).2.clp = p.clp ∧ (tuneZone z c p).2.pwc = p.pwc ∧ (tuneZone z c p).2.draws = p.draws := by
  unfold tuneZone; repeat' split
  all_goals simp

@[simp] theorem tuneZone_posts {n₀ : Nfu} (z : ZoneId) (c : Chan) (p : Part) (h : Posts n₀ p.nfu) : Posts n₀
  (tuneZone z c p).2.nfu := by
  unfold tuneZone; repeat' split
  all_goals simp (maxDischargeDepth := 30) +contextual [h]

@[simp] theorem tuneStation_frame (z : ZoneId) (i : Nat) (p : Part) :
    (tuneStation z i p).2.rif = p.rif ∧ (tuneStation z i p).2.rmx = p.rmx ∧ (tuneStation z i p).2.anu = p.anu ∧
      (tuneStation z i p).2.pwc = p.pwc ∧ (tuneStation z i p).2.draws = p.draws := by
  unfold tuneStation; dsimp only; repeat' split
  all_goals simp

@[simp] theorem tuneStation_posts {n₀ : Nfu} (z : ZoneId) (i : Nat) (p : Part) (h : Posts n₀ p.nfu) : Posts n₀
  (tuneStation z i p).2.nfu := by
  unfold tuneStation; dsimp only; repeat' split
  all_goals simp (maxDischargeDepth := 30) +contextual [h]

@[simp] theorem startSeek_frame (z : ZoneId) (t : TunerId) (up : Bool) (start : Chan) (p : Part) :
    (startSeek z t up start p).rif = p.rif ∧ (startSeek z t up start p).tst = p.tst ∧ (startSeek z t up start
      p).rmx = p.rmx ∧ (startSeek z t up start p).anu = p.anu ∧ (startSeek z t up start p).rlu = p.rlu ∧
      (startSeek z t up start p).clp = p.clp ∧ (startSeek z t up start p).pwc = p.pwc ∧ (startSeek z t up start
      p).draws = p.draws := by simp [startSeek]

@[simp] theorem startSeek_posts {n₀ : Nfu} (z : ZoneId) (t : TunerId) (up : Bool) (start : Chan) (p : Part) (h :
  Posts n₀ p.nfu) : Posts n₀ (startSeek z t up start p).nfu := by
  simp [startSeek, h]

@[simp] theorem seekZone_frame (z : ZoneId) (up : Bool) (p : Part) :
    (seekZone z up p).2.rif = p.rif ∧ (seekZone z up p).2.rmx = p.rmx ∧ (seekZone z up p).2.anu = p.anu ∧
      (seekZone z up p).2.clp = p.clp ∧ (seekZone z up p).2.pwc = p.pwc ∧ (seekZone z up p).2.draws = p.draws := by
  unfold seekZone; dsimp only; repeat' split
  all_goals simp

@[simp] theorem seekZone_posts {n₀ : Nfu} (z : ZoneId) (up : Bool) (p : Part) (h : Posts n₀ p.nfu) : Posts n₀
  (seekZone z up p).2.nfu := by
  unfold seekZone; dsimp only; repeat' split
  all_goals simp (maxDischargeDepth := 30) +contextual [h]

@[simp] theorem tunerAudioSample_frame (t : TunerId) (l r : Sample) (p : Part) :
    (tunerAudioSample t l r p).rif = p.rif ∧ (tunerAudioSample t l r p).tst = p.tst ∧ (tunerAudioSample t l r
      p).zmx = p.zmx ∧ (tunerAudioSample t l r p).rmx = p.rmx ∧ (tunerAudioSample t l r p).stm = p.stm ∧
      (tunerAudioSample t l r p).anu = p.anu ∧ (tunerAudioSample t l r p).rlu = p.rlu ∧ (tunerAudioSample t l r
      p).clp = p.clp ∧ (tunerAudioSample t l r p).pwc = p.pwc ∧ (tunerAudioSample t l r p).draws = p.draws := by simp [tunerAudioSample]

@[simp] theorem tunerAudioSample_posts {n₀ : Nfu} (t : TunerId) (l r : Sample) (p : Part) (h : Posts n₀ p.nfu) :
  Posts n₀ (tunerAudioSample t l r p).nfu := by
  simp (maxDischargeDepth := 30) +contextual [tunerAudioSample, h]

@[simp] theorem adapterTrimAdjust_frame (t : TunerId) (p : Part) :
    (adapterTrimAdjust t p).rif = p.rif ∧ (adapterTrimAdjust t p).tst = p.tst ∧ (adapterTrimAdjust t p).zmx =
      p.zmx ∧ (adapterTrimAdjust t p).rmx = p.rmx ∧ (adapterTrimAdjust t p).stm = p.stm ∧ (adapterTrimAdjust t
      p).anu = p.anu ∧ (adapterTrimAdjust t p).rlu = p.rlu ∧ (adapterTrimAdjust t p).clp = p.clp ∧
      (adapterTrimAdjust t p).nfu = p.nfu ∧ (adapterTrimAdjust t p).pwc = p.pwc ∧ (adapterTrimAdjust t p).draws
      = p.draws := by simp [adapterTrimAdjust]

@[simp] theorem ackTune_frame (t : TunerId) (cmd : LinkCmd) (p : Part) :
    (ackTune t cmd p).rif = p.rif ∧ (ackTune t cmd p).tst = p.tst ∧ (ackTune t cmd p).zmx = p.zmx ∧ (ackTune t
      cmd p).rmx = p.rmx ∧ (ackTune t cmd p).stm = p.stm ∧ (ackTune t cmd p).anu = p.anu ∧ (ackTune t cmd p).rlu
      = p.rlu ∧ (ackTune t cmd p).clp = p.clp ∧ (ackTune t cmd p).nfu = p.nfu ∧ (ackTune t cmd p).pwc = p.pwc ∧
      (ackTune t cmd p).draws = p.draws := by
  unfold ackTune; split <;> simp

@[simp] theorem freeLink_frame (p : Part) :
    (freeLink p).rif = p.rif ∧ (freeLink p).tst = p.tst ∧ (freeLink p).zmx = p.zmx ∧ (freeLink p).rmx = p.rmx ∧
      (freeLink p).stm = p.stm ∧ (freeLink p).anu = p.anu ∧ (freeLink p).rlu = p.rlu ∧ (freeLink p).clp = p.clp
      ∧ (freeLink p).nfu = p.nfu ∧ (freeLink p).pwc = p.pwc ∧ (freeLink p).draws = p.draws := by simp [freeLink]

@[simp] theorem linkAck_frame (p : Part) :
    (linkAck p).rif = p.rif ∧ (linkAck p).tst = p.tst ∧ (linkAck p).zmx = p.zmx ∧ (linkAck p).rmx = p.rmx ∧
      (linkAck p).stm = p.stm ∧ (linkAck p).anu = p.anu ∧ (linkAck p).rlu = p.rlu ∧ (linkAck p).clp = p.clp ∧
      (linkAck p).nfu = p.nfu ∧ (linkAck p).pwc = p.pwc ∧ (linkAck p).draws = p.draws := by
  unfold linkAck; split <;> simp

@[simp] theorem tunerFault_frame (t : TunerId) (p : Part) :
    (tunerFault t p).rif = p.rif ∧ (tunerFault t p).rmx = p.rmx ∧ (tunerFault t p).rlu = p.rlu ∧ (tunerFault t
      p).clp = p.clp ∧ (tunerFault t p).pwc = p.pwc ∧ (tunerFault t p).draws = p.draws := by simp [tunerFault]

@[simp] theorem tunerFault_posts {n₀ : Nfu} (t : TunerId) (p : Part) (h : Posts n₀ p.nfu) : Posts n₀ (tunerFault
  t p).nfu := by
  simp (maxDischargeDepth := 30) +contextual [tunerFault, h]

@[simp] theorem linkNoAck_frame (p : Part) :
    (linkNoAck p).rif = p.rif ∧ (linkNoAck p).rmx = p.rmx ∧ (linkNoAck p).rlu = p.rlu ∧ (linkNoAck p).clp =
      p.clp ∧ (linkNoAck p).pwc = p.pwc ∧ (linkNoAck p).draws = p.draws := by
  unfold linkNoAck; split <;> simp

@[simp] theorem linkNoAck_posts {n₀ : Nfu} (p : Part) (h : Posts n₀ p.nfu) : Posts n₀ (linkNoAck p).nfu := by
  unfold linkNoAck; split <;> simp [h]

@[simp] theorem ackRetryWaitExpiry_frame (t : TunerId) (p : Part) :
    (ackRetryWaitExpiry t p).rif = p.rif ∧ (ackRetryWaitExpiry t p).tst = p.tst ∧ (ackRetryWaitExpiry t p).zmx =
      p.zmx ∧ (ackRetryWaitExpiry t p).rmx = p.rmx ∧ (ackRetryWaitExpiry t p).stm = p.stm ∧ (ackRetryWaitExpiry
      t p).anu = p.anu ∧ (ackRetryWaitExpiry t p).rlu = p.rlu ∧ (ackRetryWaitExpiry t p).clp = p.clp ∧
      (ackRetryWaitExpiry t p).pwc = p.pwc ∧ (ackRetryWaitExpiry t p).draws = p.draws := by
  unfold ackRetryWaitExpiry; split <;> simp

@[simp] theorem ackRetryWaitExpiry_posts {n₀ : Nfu} (t : TunerId) (p : Part) (h : Posts n₀ p.nfu) : Posts n₀
  (ackRetryWaitExpiry t p).nfu := by
  unfold ackRetryWaitExpiry; split <;> simp [h]

@[simp] theorem hear_frame (t : TunerId) (code : Nat) (p : Part) :
    (hear t code p).rif = p.rif ∧ (hear t code p).tst = p.tst ∧ (hear t code p).zmx = p.zmx ∧ (hear t code
      p).rmx = p.rmx ∧ (hear t code p).anu = p.anu ∧ (hear t code p).rlu = p.rlu ∧ (hear t code p).clp = p.clp ∧
      (hear t code p).nfu = p.nfu ∧ (hear t code p).pwc = p.pwc ∧ (hear t code p).draws = p.draws := by simp [hear]

@[simp] theorem takePacket_frame (t : TunerId) (pk : Packet) (p : Part) :
    (takePacket t pk p).rif = p.rif ∧ (takePacket t pk p).rmx = p.rmx ∧ (takePacket t pk p).pwc = p.pwc := by
  unfold takePacket; split <;> simp

@[simp] theorem takePacket_posts {n₀ : Nfu} (t : TunerId) (pk : Packet) (p : Part) (h : Posts n₀ p.nfu) : Posts
  n₀ (takePacket t pk p).nfu := by
  unfold takePacket; repeat' split
  all_goals simp (maxDischargeDepth := 30) +contextual [h]

@[simp] theorem servicePacket_frame (t : TunerId) (checkPassed : Bool) (pk : Packet) (p : Part) :
    (servicePacket t checkPassed pk p).rif = p.rif ∧ (servicePacket t checkPassed pk p).rmx = p.rmx ∧
      (servicePacket t checkPassed pk p).pwc = p.pwc := by simp [servicePacket]

@[simp] theorem servicePacket_posts {n₀ : Nfu} (t : TunerId) (checkPassed : Bool) (pk : Packet) (p : Part) (h :
  Posts n₀ p.nfu) : Posts n₀ (servicePacket t checkPassed pk p).nfu := by
  simp (maxDischargeDepth := 30) +contextual [servicePacket, h]

end Sys2Proof.Machine
end

