-- ==== Sys2Proof/Laws/OwnerFrames.lean ====
section
/-! SUPPORT. The frames of the other blocks' operations and of the owners of requests: which blocks of the part each leaves
as they were, and that what it does to the notices is to post. -/

namespace Sys2Proof.Machine

/-! ### Calls -/

@[simp] theorem setUplink_frame (p : Part) :
    (setUplink p).rif = p.rif ∧ (setUplink p).rmx = p.rmx ∧ (setUplink p).anu = p.anu ∧ (setUplink p).rlu =
      p.rlu ∧ (setUplink p).pwc = p.pwc ∧ (setUplink p).draws = p.draws := by simp [setUplink]

@[simp] theorem setUplink_posts {n₀ : Nfu} (p : Part) (h : Posts n₀ p.nfu) : Posts n₀ (setUplink p).nfu := by
  simp [setUplink, h]

@[simp] theorem changeContext_frame (k : Seat) (f : SeatRt → SeatRt) (p : Part) :
    (changeContext k f p).rif = p.rif ∧ (changeContext k f p).tst = p.tst ∧ (changeContext k f p).zmx = p.zmx ∧
      (changeContext k f p).rmx = p.rmx ∧ (changeContext k f p).tuc = p.tuc ∧ (changeContext k f p).stm = p.stm
      ∧ (changeContext k f p).anu = p.anu ∧ (changeContext k f p).rlu = p.rlu ∧ (changeContext k f p).pwc =
      p.pwc ∧ (changeContext k f p).draws = p.draws := by simp [changeContext]

@[simp] theorem changeContext_posts {n₀ : Nfu} (k : Seat) (f : SeatRt → SeatRt) (p : Part) (h : Posts n₀ p.nfu)
  : Posts n₀ (changeContext k f p).nfu := by
  simp [changeContext, h]

@[simp] theorem setSignature_frame (sig : Signature) (p : Part) :
    (setSignature sig p).rif = p.rif ∧ (setSignature sig p).rmx = p.rmx ∧ (setSignature sig p).anu = p.anu ∧
      (setSignature sig p).rlu = p.rlu ∧ (setSignature sig p).pwc = p.pwc ∧ (setSignature sig p).draws = p.draws := by simp [setSignature]

@[simp] theorem setSignature_posts {n₀ : Nfu} (sig : Signature) (p : Part) (h : Posts n₀ p.nfu) : Posts n₀
  (setSignature sig p).nfu := by
  simp (maxDischargeDepth := 30) +contextual [setSignature, h]

@[simp] theorem unadmit_frame (k : Seat) (p : Part) :
    (unadmit k p).rif = p.rif ∧ (unadmit k p).tst = p.tst ∧ (unadmit k p).zmx = p.zmx ∧ (unadmit k p).rmx =
      p.rmx ∧ (unadmit k p).tuc = p.tuc ∧ (unadmit k p).stm = p.stm ∧ (unadmit k p).anu = p.anu ∧ (unadmit k
      p).rlu = p.rlu ∧ (unadmit k p).pwc = p.pwc ∧ (unadmit k p).draws = p.draws := by simp [unadmit]

@[simp] theorem unadmit_posts {n₀ : Nfu} (k : Seat) (p : Part) (h : Posts n₀ p.nfu) : Posts n₀ (unadmit k p).nfu := by
  simp (maxDischargeDepth := 30) +contextual [unadmit, h]

@[simp] theorem readmit_frame (p : Part) :
    (readmit p).rif = p.rif ∧ (readmit p).rmx = p.rmx ∧ (readmit p).anu = p.anu ∧ (readmit p).rlu = p.rlu ∧
      (readmit p).pwc = p.pwc ∧ (readmit p).draws = p.draws := by simp [readmit]

@[simp] theorem readmit_posts {n₀ : Nfu} (p : Part) (h : Posts n₀ p.nfu) : Posts n₀ (readmit p).nfu := by
  simp (maxDischargeDepth := 30) +contextual [readmit, h]

@[simp] theorem setCallZones_frame (zs : ZoneSet) (p : Part) :
    (setCallZones zs p).rif = p.rif ∧ (setCallZones zs p).rmx = p.rmx ∧ (setCallZones zs p).anu = p.anu ∧
      (setCallZones zs p).rlu = p.rlu ∧ (setCallZones zs p).pwc = p.pwc ∧ (setCallZones zs p).draws = p.draws := by simp [setCallZones]

@[simp] theorem setCallZones_posts {n₀ : Nfu} (zs : ZoneSet) (p : Part) (h : Posts n₀ p.nfu) : Posts n₀
  (setCallZones zs p).nfu := by
  simp [setCallZones, h]

@[simp] theorem leaveCall_frame (z : ZoneId) (p : Part) :
    (leaveCall z p).rif = p.rif ∧ (leaveCall z p).rmx = p.rmx ∧ (leaveCall z p).anu = p.anu ∧ (leaveCall z
      p).rlu = p.rlu ∧ (leaveCall z p).pwc = p.pwc ∧ (leaveCall z p).draws = p.draws := by simp [leaveCall]

@[simp] theorem leaveCall_posts {n₀ : Nfu} (z : ZoneId) (p : Part) (h : Posts n₀ p.nfu) : Posts n₀ (leaveCall z
  p).nfu := by
  simp [leaveCall, h]

@[simp] theorem callAlert_frame (zs : Option ZoneSet) (p : Part) :
    (callAlert zs p).2.2.rif = p.rif ∧ (callAlert zs p).2.2.rmx = p.rmx ∧ (callAlert zs p).2.2.rlu = p.rlu ∧
      (callAlert zs p).2.2.pwc = p.pwc ∧ (callAlert zs p).2.2.draws = p.draws := by
  unfold callAlert; repeat' split
  all_goals simp

@[simp] theorem callAlert_posts {n₀ : Nfu} (zs : Option ZoneSet) (p : Part) (h : Posts n₀ p.nfu) : Posts n₀
  (callAlert zs p).2.2.nfu := by
  unfold callAlert; repeat' split
  all_goals simp (maxDischargeDepth := 30) +contextual [h]

@[simp] theorem callConnect_frame (p : Part) :
    (callConnect p).2.rif = p.rif ∧ (callConnect p).2.rmx = p.rmx ∧ (callConnect p).2.rlu = p.rlu ∧ (callConnect
      p).2.pwc = p.pwc ∧ (callConnect p).2.draws = p.draws := by
  unfold callConnect; repeat' split
  all_goals simp

@[simp] theorem callConnect_posts {n₀ : Nfu} (p : Part) (h : Posts n₀ p.nfu) : Posts n₀ (callConnect p).2.nfu := by
  unfold callConnect; repeat' split
  all_goals simp (maxDischargeDepth := 30) +contextual [h]

@[simp] theorem dropWindows_frame (p : Part) :
    (dropWindows p).rif = p.rif ∧ (dropWindows p).tst = p.tst ∧ (dropWindows p).zmx = p.zmx ∧ (dropWindows
      p).rmx = p.rmx ∧ (dropWindows p).tuc = p.tuc ∧ (dropWindows p).stm = p.stm ∧ (dropWindows p).anu = p.anu ∧
      (dropWindows p).rlu = p.rlu ∧ (dropWindows p).nfu = p.nfu ∧ (dropWindows p).pwc = p.pwc ∧ (dropWindows
      p).draws = p.draws := by simp [dropWindows]

@[simp] theorem callHold_frame (p : Part) :
    (callHold p).2.rif = p.rif ∧ (callHold p).2.rmx = p.rmx ∧ (callHold p).2.anu = p.anu ∧ (callHold p).2.rlu =
      p.rlu ∧ (callHold p).2.pwc = p.pwc ∧ (callHold p).2.draws = p.draws := by
  unfold callHold; split <;> simp

@[simp] theorem callHold_posts {n₀ : Nfu} (p : Part) (h : Posts n₀ p.nfu) : Posts n₀ (callHold p).2.nfu := by
  unfold callHold; split <;> simp [h]

@[simp] theorem callResume_frame (p : Part) :
    (callResume p).2.rif = p.rif ∧ (callResume p).2.rmx = p.rmx ∧ (callResume p).2.rlu = p.rlu ∧ (callResume
      p).2.pwc = p.pwc ∧ (callResume p).2.draws = p.draws := by
  unfold callResume; split <;> simp

@[simp] theorem callResume_posts {n₀ : Nfu} (p : Part) (h : Posts n₀ p.nfu) : Posts n₀ (callResume p).2.nfu := by
  unfold callResume; split <;> simp [h]

@[simp] theorem endCall_frame (p : Part) :
    (endCall p).rif = p.rif ∧ (endCall p).rmx = p.rmx ∧ (endCall p).rlu = p.rlu ∧ (endCall p).pwc = p.pwc ∧
      (endCall p).draws = p.draws := by simp [endCall]

@[simp] theorem endCall_posts {n₀ : Nfu} (p : Part) (h : Posts n₀ p.nfu) : Posts n₀ (endCall p).nfu := by
  simp (maxDischargeDepth := 30) +contextual [endCall, h]

@[simp] theorem callEnd_frame (p : Part) :
    (callEnd p).2.rif = p.rif ∧ (callEnd p).2.rmx = p.rmx ∧ (callEnd p).2.rlu = p.rlu ∧ (callEnd p).2.pwc =
      p.pwc ∧ (callEnd p).2.draws = p.draws := by simp [callEnd]

@[simp] theorem callEnd_posts {n₀ : Nfu} (p : Part) (h : Posts n₀ p.nfu) : Posts n₀ (callEnd p).2.nfu := by
  simp [callEnd, h]

@[simp] theorem callPrivate_frame (value : Option Bool) (p : Part) :
    (callPrivate value p).2.rif = p.rif ∧ (callPrivate value p).2.rmx = p.rmx ∧ (callPrivate value p).2.anu =
      p.anu ∧ (callPrivate value p).2.rlu = p.rlu ∧ (callPrivate value p).2.pwc = p.pwc ∧ (callPrivate value
      p).2.draws = p.draws := by
  unfold callPrivate; repeat' split
  all_goals simp

@[simp] theorem callPrivate_posts {n₀ : Nfu} (value : Option Bool) (p : Part) (h : Posts n₀ p.nfu) : Posts n₀
  (callPrivate value p).2.nfu := by
  unfold callPrivate; repeat' split
  all_goals simp (maxDischargeDepth := 30) +contextual [h]

@[simp] theorem callZones_frame (zs : Option ZoneSet) (p : Part) :
    (callZones zs p).2.rif = p.rif ∧ (callZones zs p).2.rmx = p.rmx ∧ (callZones zs p).2.anu = p.anu ∧
      (callZones zs p).2.rlu = p.rlu ∧ (callZones zs p).2.pwc = p.pwc ∧ (callZones zs p).2.draws = p.draws := by
  unfold callZones; repeat' split
  all_goals simp

@[simp] theorem callZones_posts {n₀ : Nfu} (zs : Option ZoneSet) (p : Part) (h : Posts n₀ p.nfu) : Posts n₀
  (callZones zs p).2.nfu := by
  unfold callZones; repeat' split
  all_goals simp (maxDischargeDepth := 30) +contextual [h]

@[simp] theorem callJoin_frame (r : RearSeat) (p : Part) :
    (callJoin r p).2.rif = p.rif ∧ (callJoin r p).2.rmx = p.rmx ∧ (callJoin r p).2.anu = p.anu ∧ (callJoin r
      p).2.rlu = p.rlu ∧ (callJoin r p).2.pwc = p.pwc ∧ (callJoin r p).2.draws = p.draws := by
  unfold callJoin; repeat' split
  all_goals simp

@[simp] theorem callJoin_posts {n₀ : Nfu} (r : RearSeat) (p : Part) (h : Posts n₀ p.nfu) : Posts n₀ (callJoin r
  p).2.nfu := by
  unfold callJoin; repeat' split
  all_goals simp (maxDischargeDepth := 30) +contextual [h]

@[simp] theorem callLeave_frame (r : RearSeat) (p : Part) :
    (callLeave r p).2.rif = p.rif ∧ (callLeave r p).2.rmx = p.rmx ∧ (callLeave r p).2.anu = p.anu ∧ (callLeave r
      p).2.rlu = p.rlu ∧ (callLeave r p).2.pwc = p.pwc ∧ (callLeave r p).2.draws = p.draws := by
  unfold callLeave; split <;> simp

@[simp] theorem callLeave_posts {n₀ : Nfu} (r : RearSeat) (p : Part) (h : Posts n₀ p.nfu) : Posts n₀ (callLeave
  r p).2.nfu := by
  unfold callLeave; split <;> simp [h]

@[simp] theorem setTalker_frame (k : Option Seat) (p : Part) :
    (setTalker k p).rif = p.rif ∧ (setTalker k p).tst = p.tst ∧ (setTalker k p).zmx = p.zmx ∧ (setTalker k
      p).rmx = p.rmx ∧ (setTalker k p).tuc = p.tuc ∧ (setTalker k p).stm = p.stm ∧ (setTalker k p).anu = p.anu ∧
      (setTalker k p).rlu = p.rlu ∧ (setTalker k p).pwc = p.pwc ∧ (setTalker k p).draws = p.draws := by simp [setTalker]

@[simp] theorem setTalker_posts {n₀ : Nfu} (k : Option Seat) (p : Part) (h : Posts n₀ p.nfu) : Posts n₀
  (setTalker k p).nfu := by
  simp [setTalker, h]

@[simp] theorem judgeTalker_frame (k : Seat) (p : Part) :
    (judgeTalker k p).rif = p.rif ∧ (judgeTalker k p).tst = p.tst ∧ (judgeTalker k p).zmx = p.zmx ∧ (judgeTalker
      k p).rmx = p.rmx ∧ (judgeTalker k p).tuc = p.tuc ∧ (judgeTalker k p).stm = p.stm ∧ (judgeTalker k p).anu =
      p.anu ∧ (judgeTalker k p).rlu = p.rlu ∧ (judgeTalker k p).pwc = p.pwc ∧ (judgeTalker k p).draws = p.draws := by
  unfold judgeTalker; dsimp only; repeat' split
  all_goals simp

@[simp] theorem judgeTalker_posts {n₀ : Nfu} (k : Seat) (p : Part) (h : Posts n₀ p.nfu) : Posts n₀ (judgeTalker
  k p).nfu := by
  unfold judgeTalker; dsimp only; repeat' split
  all_goals simp (maxDischargeDepth := 30) +contextual [h]

@[simp] theorem meterUpdate_frame (k : Seat) (p : Part) :
    (meterUpdate k p).rif = p.rif ∧ (meterUpdate k p).rmx = p.rmx ∧ (meterUpdate k p).anu = p.anu ∧ (meterUpdate
      k p).rlu = p.rlu ∧ (meterUpdate k p).pwc = p.pwc ∧ (meterUpdate k p).draws = p.draws := by simp [meterUpdate]

@[simp] theorem meterUpdate_posts {n₀ : Nfu} (k : Seat) (p : Part) (h : Posts n₀ p.nfu) : Posts n₀ (meterUpdate
  k p).nfu := by
  simp (maxDischargeDepth := 30) +contextual [meterUpdate, h]

@[simp] theorem erleWindowEnd_frame (k : Seat) (p : Part) :
    (erleWindowEnd k p).rif = p.rif ∧ (erleWindowEnd k p).rmx = p.rmx ∧ (erleWindowEnd k p).anu = p.anu ∧
      (erleWindowEnd k p).rlu = p.rlu ∧ (erleWindowEnd k p).pwc = p.pwc ∧ (erleWindowEnd k p).draws = p.draws := by simp [erleWindowEnd]

@[simp] theorem erleWindowEnd_posts {n₀ : Nfu} (k : Seat) (p : Part) (h : Posts n₀ p.nfu) : Posts n₀
  (erleWindowEnd k p).nfu := by
  simp (maxDischargeDepth := 30) +contextual [erleWindowEnd, h]

@[simp] theorem clpBlock_frame (p : Part) :
    (clpBlock p).rif = p.rif ∧ (clpBlock p).tst = p.tst ∧ (clpBlock p).zmx = p.zmx ∧ (clpBlock p).rmx = p.rmx ∧
      (clpBlock p).tuc = p.tuc ∧ (clpBlock p).stm = p.stm ∧ (clpBlock p).anu = p.anu ∧ (clpBlock p).rlu = p.rlu
      ∧ (clpBlock p).nfu = p.nfu ∧ (clpBlock p).pwc = p.pwc ∧ (clpBlock p).draws = p.draws := by simp [clpBlock]

@[simp] theorem ringTimeTick_frame (p : Part) :
    (ringTimeTick p).tst = p.tst ∧ (ringTimeTick p).zmx = p.zmx ∧ (ringTimeTick p).rmx = p.rmx ∧ (ringTimeTick
      p).tuc = p.tuc ∧ (ringTimeTick p).stm = p.stm ∧ (ringTimeTick p).anu = p.anu ∧ (ringTimeTick p).rlu =
      p.rlu ∧ (ringTimeTick p).nfu = p.nfu ∧ (ringTimeTick p).pwc = p.pwc ∧ (ringTimeTick p).draws = p.draws := by simp [ringTimeTick]

/-! ### Zones -/

@[simp] theorem enterState_frame (z : ZoneId) (s : ZoneState) (p : Part) :
    (enterState z s p).rif = p.rif ∧ (enterState z s p).tst = p.tst ∧ (enterState z s p).rmx = p.rmx ∧
      (enterState z s p).tuc = p.tuc ∧ (enterState z s p).stm = p.stm ∧ (enterState z s p).anu = p.anu ∧
      (enterState z s p).rlu = p.rlu ∧ (enterState z s p).clp = p.clp ∧ (enterState z s p).pwc = p.pwc ∧
      (enterState z s p).draws = p.draws := by simp [enterState]

@[simp] theorem enterState_posts {n₀ : Nfu} (z : ZoneId) (s : ZoneState) (p : Part) (h : Posts n₀ p.nfu) : Posts
  n₀ (enterState z s p).nfu := by
  simp [enterState, h]

@[simp] theorem followFront_frame (z : ZoneId) (p : Part) :
    (followFront z p).rif = p.rif ∧ (followFront z p).tst = p.tst ∧ (followFront z p).rmx = p.rmx ∧ (followFront
      z p).tuc = p.tuc ∧ (followFront z p).stm = p.stm ∧ (followFront z p).anu = p.anu ∧ (followFront z p).rlu =
      p.rlu ∧ (followFront z p).clp = p.clp ∧ (followFront z p).pwc = p.pwc ∧ (followFront z p).draws = p.draws := by simp [followFront]

@[simp] theorem followFront_posts {n₀ : Nfu} (z : ZoneId) (p : Part) (h : Posts n₀ p.nfu) : Posts n₀
  (followFront z p).nfu := by
  simp [followFront, h]

@[simp] theorem powerOff_frame (z : ZoneId) (p : Part) :
    (powerOff z p).rif = p.rif ∧ (powerOff z p).rmx = p.rmx ∧ (powerOff z p).anu = p.anu ∧ (powerOff z p).rlu =
      p.rlu ∧ (powerOff z p).pwc = p.pwc ∧ (powerOff z p).draws = p.draws := by simp [powerOff]

@[simp] theorem powerOff_posts {n₀ : Nfu} (z : ZoneId) (p : Part) (h : Posts n₀ p.nfu) : Posts n₀ (powerOff z
  p).nfu := by
  simp (maxDischargeDepth := 30) +contextual [powerOff, h]

@[simp] theorem powerRadio_frame (z : ZoneId) (p : Part) :
    (powerRadio z p).rif = p.rif ∧ (powerRadio z p).rmx = p.rmx ∧ (powerRadio z p).anu = p.anu ∧ (powerRadio z
      p).clp = p.clp ∧ (powerRadio z p).pwc = p.pwc ∧ (powerRadio z p).draws = p.draws := by
  unfold powerRadio; dsimp only; repeat' split
  all_goals simp

@[simp] theorem powerRadio_posts {n₀ : Nfu} (z : ZoneId) (p : Part) (h : Posts n₀ p.nfu) : Posts n₀ (powerRadio
  z p).nfu := by
  unfold powerRadio; dsimp only; repeat' split
  all_goals simp (maxDischargeDepth := 30) +contextual [h]

@[simp] theorem powerOnZone_frame (z : ZoneId) (p : Part) :
    (powerOnZone z p).rif = p.rif ∧ (powerOnZone z p).rmx = p.rmx ∧ (powerOnZone z p).anu = p.anu ∧ (powerOnZone
      z p).clp = p.clp ∧ (powerOnZone z p).pwc = p.pwc ∧ (powerOnZone z p).draws = p.draws := by
  unfold powerOnZone; repeat' split
  all_goals simp

@[simp] theorem powerOnZone_posts {n₀ : Nfu} (z : ZoneId) (p : Part) (h : Posts n₀ p.nfu) : Posts n₀
  (powerOnZone z p).nfu := by
  unfold powerOnZone; repeat' split
  all_goals simp (maxDischargeDepth := 30) +contextual [h]

@[simp] theorem zonePower_frame (z : ZoneId) (on : Bool) (p : Part) :
    (zonePower z on p).2.rif = p.rif ∧ (zonePower z on p).2.rmx = p.rmx ∧ (zonePower z on p).2.anu = p.anu ∧
      (zonePower z on p).2.pwc = p.pwc ∧ (zonePower z on p).2.draws = p.draws := by
  unfold zonePower; dsimp only; repeat' split
  all_goals simp

@[simp] theorem zonePower_posts {n₀ : Nfu} (z : ZoneId) (on : Bool) (p : Part) (h : Posts n₀ p.nfu) : Posts n₀
  (zonePower z on p).2.nfu := by
  unfold zonePower; dsimp only; repeat' split
  all_goals simp (maxDischargeDepth := 30) +contextual [h]

@[simp] theorem sourceRadio_frame (z : ZoneId) (w : Claimant) (p : Part) :
    (sourceRadio z w p).2.rif = p.rif ∧ (sourceRadio z w p).2.rmx = p.rmx ∧ (sourceRadio z w p).2.anu = p.anu ∧
      (sourceRadio z w p).2.clp = p.clp ∧ (sourceRadio z w p).2.pwc = p.pwc ∧ (sourceRadio z w p).2.draws =
      p.draws := by
  unfold sourceRadio; repeat' split
  all_goals simp

@[simp] theorem sourceRadio_posts {n₀ : Nfu} (z : ZoneId) (w : Claimant) (p : Part) (h : Posts n₀ p.nfu) : Posts
  n₀ (sourceRadio z w p).2.nfu := by
  unfold sourceRadio; repeat' split
  all_goals simp (maxDischargeDepth := 30) +contextual [h]

@[simp] theorem zoneSource_frame (z : ZoneId) (src : Option Source) (p : Part) :
    (zoneSource z src p).2.rif = p.rif ∧ (zoneSource z src p).2.rmx = p.rmx ∧ (zoneSource z src p).2.anu = p.anu
      ∧ (zoneSource z src p).2.clp = p.clp ∧ (zoneSource z src p).2.pwc = p.pwc ∧ (zoneSource z src p).2.draws =
      p.draws := by
  unfold zoneSource; repeat' split
  all_goals simp

@[simp] theorem zoneSource_posts {n₀ : Nfu} (z : ZoneId) (src : Option Source) (p : Part) (h : Posts n₀ p.nfu) :
  Posts n₀ (zoneSource z src p).2.nfu := by
  unfold zoneSource; repeat' split
  all_goals simp (maxDischargeDepth := 30) +contextual [h]

@[simp] theorem storeStep_frame (z : ZoneId) (step : Nat) (p : Part) :
    (storeStep z step p).2.rif = p.rif ∧ (storeStep z step p).2.tst = p.tst ∧ (storeStep z step p).2.rmx = p.rmx
      ∧ (storeStep z step p).2.tuc = p.tuc ∧ (storeStep z step p).2.stm = p.stm ∧ (storeStep z step p).2.anu =
      p.anu ∧ (storeStep z step p).2.rlu = p.rlu ∧ (storeStep z step p).2.clp = p.clp ∧ (storeStep z step
      p).2.nfu = p.nfu ∧ (storeStep z step p).2.pwc = p.pwc ∧ (storeStep z step p).2.draws = p.draws := by
  unfold storeStep; dsimp only; repeat' split
  all_goals simp

@[simp] theorem zoneVolume_frame (z : ZoneId) (step : Nat) (p : Part) :
    (zoneVolume z step p).2.rif = p.rif ∧ (zoneVolume z step p).2.tst = p.tst ∧ (zoneVolume z step p).2.rmx =
      p.rmx ∧ (zoneVolume z step p).2.tuc = p.tuc ∧ (zoneVolume z step p).2.stm = p.stm ∧ (zoneVolume z step
      p).2.anu = p.anu ∧ (zoneVolume z step p).2.rlu = p.rlu ∧ (zoneVolume z step p).2.clp = p.clp ∧ (zoneVolume
      z step p).2.nfu = p.nfu ∧ (zoneVolume z step p).2.pwc = p.pwc ∧ (zoneVolume z step p).2.draws = p.draws := by
  unfold zoneVolume; repeat' split
  all_goals simp

@[simp] theorem writeOffset_frame (z : ZoneId) (n : Nat) (p : Part) :
    (writeOffset z n p).rif = p.rif ∧ (writeOffset z n p).zmx = p.zmx ∧ (writeOffset z n p).rmx = p.rmx ∧
      (writeOffset z n p).tuc = p.tuc ∧ (writeOffset z n p).stm = p.stm ∧ (writeOffset z n p).anu = p.anu ∧
      (writeOffset z n p).rlu = p.rlu ∧ (writeOffset z n p).clp = p.clp ∧ (writeOffset z n p).nfu = p.nfu ∧
      (writeOffset z n p).pwc = p.pwc ∧ (writeOffset z n p).draws = p.draws := by simp [writeOffset]

@[simp] theorem zoneOffset_frame (z : ZoneId) (off : Int) (p : Part) :
    (zoneOffset z off p).2.rif = p.rif ∧ (zoneOffset z off p).2.rmx = p.rmx ∧ (zoneOffset z off p).2.anu = p.anu
      ∧ (zoneOffset z off p).2.rlu = p.rlu ∧ (zoneOffset z off p).2.pwc = p.pwc ∧ (zoneOffset z off p).2.draws =
      p.draws := by
  unfold zoneOffset; dsimp only; repeat' split
  all_goals simp

@[simp] theorem zoneOffset_posts {n₀ : Nfu} (z : ZoneId) (off : Int) (p : Part) (h : Posts n₀ p.nfu) : Posts n₀
  (zoneOffset z off p).2.nfu := by
  unfold zoneOffset; dsimp only; repeat' split
  all_goals simp (maxDischargeDepth := 30) +contextual [h]

@[simp] theorem cabinOffset_frame (up : Bool) (p : Part) :
    (cabinOffset up p).2.rif = p.rif ∧ (cabinOffset up p).2.rmx = p.rmx ∧ (cabinOffset up p).2.anu = p.anu ∧
      (cabinOffset up p).2.rlu = p.rlu ∧ (cabinOffset up p).2.pwc = p.pwc ∧ (cabinOffset up p).2.draws = p.draws := by
  unfold cabinOffset; dsimp only; repeat' split
  all_goals simp

@[simp] theorem cabinOffset_posts {n₀ : Nfu} (up : Bool) (p : Part) (h : Posts n₀ p.nfu) : Posts n₀ (cabinOffset
  up p).2.nfu := by
  unfold cabinOffset; dsimp only; repeat' split
  all_goals simp (maxDischargeDepth := 30) +contextual [h]

@[simp] theorem zoneMute_frame (z : ZoneId) (value : Option Bool) (p : Part) :
    (zoneMute z value p).2.rif = p.rif ∧ (zoneMute z value p).2.tst = p.tst ∧ (zoneMute z value p).2.rmx = p.rmx
      ∧ (zoneMute z value p).2.tuc = p.tuc ∧ (zoneMute z value p).2.stm = p.stm ∧ (zoneMute z value p).2.anu =
      p.anu ∧ (zoneMute z value p).2.rlu = p.rlu ∧ (zoneMute z value p).2.clp = p.clp ∧ (zoneMute z value
      p).2.nfu = p.nfu ∧ (zoneMute z value p).2.pwc = p.pwc ∧ (zoneMute z value p).2.draws = p.draws := by
  unfold zoneMute; split <;> simp

@[simp] theorem letGo_frame (p : Part) (z : ZoneId) :
    (letGo p z).rif = p.rif ∧ (letGo p z).tst = p.tst ∧ (letGo p z).rmx = p.rmx ∧ (letGo p z).tuc = p.tuc ∧
      (letGo p z).stm = p.stm ∧ (letGo p z).anu = p.anu ∧ (letGo p z).rlu = p.rlu ∧ (letGo p z).clp = p.clp ∧
      (letGo p z).nfu = p.nfu ∧ (letGo p z).pwc = p.pwc ∧ (letGo p z).draws = p.draws := by simp [letGo]

@[simp] theorem moveZone_frame (p : Part) (z : ZoneId) :
    (moveZone p z).rif = p.rif ∧ (moveZone p z).tst = p.tst ∧ (moveZone p z).rmx = p.rmx ∧ (moveZone p z).tuc =
      p.tuc ∧ (moveZone p z).stm = p.stm ∧ (moveZone p z).anu = p.anu ∧ (moveZone p z).rlu = p.rlu ∧ (moveZone p
      z).clp = p.clp ∧ (moveZone p z).pwc = p.pwc ∧ (moveZone p z).draws = p.draws := by simp [moveZone]

@[simp] theorem moveZone_posts {n₀ : Nfu} (p : Part) (z : ZoneId) (h : Posts n₀ p.nfu) : Posts n₀ (moveZone p
  z).nfu := by
  simp (maxDischargeDepth := 30) +contextual [moveZone, h]

@[simp] theorem mixZones_frame (p : Part) :
    (mixZones p).rif = p.rif ∧ (mixZones p).tst = p.tst ∧ (mixZones p).rmx = p.rmx ∧ (mixZones p).tuc = p.tuc ∧
      (mixZones p).stm = p.stm ∧ (mixZones p).anu = p.anu ∧ (mixZones p).rlu = p.rlu ∧ (mixZones p).clp = p.clp
      ∧ (mixZones p).nfu = p.nfu ∧ (mixZones p).pwc = p.pwc ∧ (mixZones p).draws = p.draws := by simp [mixZones]

@[simp] theorem takeTables_frame (p : Part) :
    (takeTables p).rif = p.rif ∧ (takeTables p).tst = p.tst ∧ (takeTables p).rmx = p.rmx ∧ (takeTables p).tuc =
      p.tuc ∧ (takeTables p).stm = p.stm ∧ (takeTables p).anu = p.anu ∧ (takeTables p).rlu = p.rlu ∧ (takeTables
      p).clp = p.clp ∧ (takeTables p).nfu = p.nfu ∧ (takeTables p).pwc = p.pwc ∧ (takeTables p).draws = p.draws := by simp [takeTables]

@[simp] theorem zmxBlock_frame (p : Part) :
    (zmxBlock p).rif = p.rif ∧ (zmxBlock p).rmx = p.rmx ∧ (zmxBlock p).anu = p.anu ∧ (zmxBlock p).rlu = p.rlu ∧
      (zmxBlock p).draws = p.draws := by simp [zmxBlock]

@[simp] theorem zmxBlock_posts {n₀ : Nfu} (p : Part) (h : Posts n₀ p.nfu) : Posts n₀ (zmxBlock p).nfu := by
  simp (maxDischargeDepth := 30) +contextual [zmxBlock, h]

@[simp] theorem cargoAuto_frame (open? : Bool) (p : Part) :
    (cargoAuto open? p).rif = p.rif ∧ (cargoAuto open? p).rmx = p.rmx ∧ (cargoAuto open? p).anu = p.anu ∧
      (cargoAuto open? p).pwc = p.pwc ∧ (cargoAuto open? p).draws = p.draws := by simp [cargoAuto]

@[simp] theorem cargoAuto_posts {n₀ : Nfu} (open? : Bool) (p : Part) (h : Posts n₀ p.nfu) : Posts n₀ (cargoAuto
  open? p).nfu := by
  simp (maxDischargeDepth := 30) +contextual [cargoAuto, h]

@[simp] theorem zonesReduced_frame (p : Part) :
    (zonesReduced p).rif = p.rif ∧ (zonesReduced p).rmx = p.rmx ∧ (zonesReduced p).anu = p.anu ∧ (zonesReduced
      p).rlu = p.rlu ∧ (zonesReduced p).pwc = p.pwc ∧ (zonesReduced p).draws = p.draws := by simp [zonesReduced]

@[simp] theorem zonesReduced_posts {n₀ : Nfu} (p : Part) (h : Posts n₀ p.nfu) : Posts n₀ (zonesReduced p).nfu := by
  simp (maxDischargeDepth := 30) +contextual [zonesReduced, h]

/-! ### Render -/

@[simp] theorem renderFrame_frame (p : Part) :
    (renderFrame p).rif = p.rif ∧ (renderFrame p).tst = p.tst ∧ (renderFrame p).zmx = p.zmx ∧ (renderFrame
      p).tuc = p.tuc ∧ (renderFrame p).stm = p.stm ∧ (renderFrame p).anu = p.anu ∧ (renderFrame p).rlu = p.rlu ∧
      (renderFrame p).clp = p.clp ∧ (renderFrame p).nfu = p.nfu ∧ (renderFrame p).pwc = p.pwc ∧ (renderFrame
      p).draws = p.draws := by simp [renderFrame]

@[simp] theorem rampBank_frame (bank : BankId) (p : Part) :
    (rampBank bank p).rif = p.rif ∧ (rampBank bank p).zmx = p.zmx ∧ (rampBank bank p).rmx = p.rmx ∧ (rampBank
      bank p).tuc = p.tuc ∧ (rampBank bank p).stm = p.stm ∧ (rampBank bank p).anu = p.anu ∧ (rampBank bank
      p).rlu = p.rlu ∧ (rampBank bank p).clp = p.clp ∧ (rampBank bank p).nfu = p.nfu ∧ (rampBank bank p).pwc =
      p.pwc ∧ (rampBank bank p).draws = p.draws := by simp [rampBank]

@[simp] theorem validateFrom_frame (k : BankId) (l : List Nat) (p : Part) :
    (validateFrom k l p).2.rif = p.rif ∧ (validateFrom k l p).2.rmx = p.rmx ∧ (validateFrom k l p).2.anu = p.anu
      ∧ (validateFrom k l p).2.rlu = p.rlu ∧ (validateFrom k l p).2.pwc = p.pwc
      ∧ (validateFrom k l p).2.draws = p.draws := by
  induction l generalizing p with
  | nil => simp [validateFrom]
  | cons i l ih =>
    unfold validateFrom
    dsimp only
    split <;> simp [ih]

@[simp] theorem validateFrom_posts {n₀ : Nfu} (k : BankId) (l : List Nat) (p : Part) (h : Posts n₀ p.nfu) :
    Posts n₀ (validateFrom k l p).2.nfu := by
  induction l generalizing p with
  | nil => simpa [validateFrom] using h
  | cons i l ih =>
    unfold validateFrom
    dsimp only
    split <;> simp [ih, h]

@[simp] theorem bankSwap_frame (p : Part) :
    (bankSwap p).2.2.rif = p.rif ∧ (bankSwap p).2.2.anu = p.anu ∧ (bankSwap p).2.2.rlu = p.rlu ∧ (bankSwap
      p).2.2.pwc = p.pwc ∧ (bankSwap p).2.2.draws = p.draws := by
  unfold bankSwap; dsimp only; repeat' split
  all_goals simp

@[simp] theorem bankSwap_posts {n₀ : Nfu} (p : Part) (h : Posts n₀ p.nfu) : Posts n₀ (bankSwap p).2.2.nfu := by
  unfold bankSwap; dsimp only; repeat' split
  all_goals simp (maxDischargeDepth := 30) +contextual [h]

@[simp] theorem endCrossfade_frame (p : Part) :
    (endCrossfade p).rif = p.rif ∧ (endCrossfade p).tst = p.tst ∧ (endCrossfade p).zmx = p.zmx ∧ (endCrossfade
      p).tuc = p.tuc ∧ (endCrossfade p).stm = p.stm ∧ (endCrossfade p).anu = p.anu ∧ (endCrossfade p).rlu =
      p.rlu ∧ (endCrossfade p).clp = p.clp ∧ (endCrossfade p).pwc = p.pwc ∧ (endCrossfade p).draws = p.draws := by simp [endCrossfade]

@[simp] theorem endCrossfade_posts {n₀ : Nfu} (p : Part) (h : Posts n₀ p.nfu) : Posts n₀ (endCrossfade p).nfu := by
  simp [endCrossfade, h]

@[simp] theorem stepCrossfade_frame (p : Part) :
    (stepCrossfade p).rif = p.rif ∧ (stepCrossfade p).tst = p.tst ∧ (stepCrossfade p).zmx = p.zmx ∧
      (stepCrossfade p).tuc = p.tuc ∧ (stepCrossfade p).stm = p.stm ∧ (stepCrossfade p).anu = p.anu ∧
      (stepCrossfade p).rlu = p.rlu ∧ (stepCrossfade p).clp = p.clp ∧ (stepCrossfade p).pwc = p.pwc ∧
      (stepCrossfade p).draws = p.draws := by
  unfold stepCrossfade; split <;> simp

@[simp] theorem stepCrossfade_posts {n₀ : Nfu} (p : Part) (h : Posts n₀ p.nfu) : Posts n₀ (stepCrossfade p).nfu := by
  unfold stepCrossfade; split <;> simp [h]

@[simp] theorem rmxBlock_frame (p : Part) :
    (rmxBlock p).rif = p.rif ∧ (rmxBlock p).anu = p.anu ∧ (rmxBlock p).rlu = p.rlu ∧ (rmxBlock p).pwc = p.pwc ∧
      (rmxBlock p).draws = p.draws := by simp [rmxBlock]

@[simp] theorem rmxBlock_posts {n₀ : Nfu} (p : Part) (h : Posts n₀ p.nfu) : Posts n₀ (rmxBlock p).nfu := by
  simp (maxDischargeDepth := 30) +contextual [rmxBlock, h]

@[simp] theorem bankCrossfadeEnd_frame (p : Part) :
    (bankCrossfadeEnd p).rif = p.rif ∧ (bankCrossfadeEnd p).tst = p.tst ∧ (bankCrossfadeEnd p).zmx = p.zmx ∧
      (bankCrossfadeEnd p).tuc = p.tuc ∧ (bankCrossfadeEnd p).stm = p.stm ∧ (bankCrossfadeEnd p).anu = p.anu ∧
      (bankCrossfadeEnd p).rlu = p.rlu ∧ (bankCrossfadeEnd p).clp = p.clp ∧ (bankCrossfadeEnd p).pwc = p.pwc ∧
      (bankCrossfadeEnd p).draws = p.draws := by simp [bankCrossfadeEnd]

@[simp] theorem bankCrossfadeEnd_posts {n₀ : Nfu} (p : Part) (h : Posts n₀ p.nfu) : Posts n₀ (bankCrossfadeEnd
  p).nfu := by
  simp [bankCrossfadeEnd, h]

@[simp] theorem takeTailgate_frame (isOpen : Bool) (p : Part) :
    (takeTailgate isOpen p).rif = p.rif ∧ (takeTailgate isOpen p).anu = p.anu ∧ (takeTailgate isOpen p).pwc =
      p.pwc ∧ (takeTailgate isOpen p).draws = p.draws := by simp [takeTailgate]

@[simp] theorem takeTailgate_posts {n₀ : Nfu} (isOpen : Bool) (p : Part) (h : Posts n₀ p.nfu) : Posts n₀
  (takeTailgate isOpen p).nfu := by
  simp (maxDischargeDepth := 30) +contextual [takeTailgate, h]

/-! ### Audio -/

@[simp] theorem adapterFrame_frame (t : TunerId) (p : Part) :
    (adapterFrame t p).rif = p.rif ∧ (adapterFrame t p).tst = p.tst ∧ (adapterFrame t p).zmx = p.zmx ∧
      (adapterFrame t p).rmx = p.rmx ∧ (adapterFrame t p).stm = p.stm ∧ (adapterFrame t p).anu = p.anu ∧
      (adapterFrame t p).rlu = p.rlu ∧ (adapterFrame t p).clp = p.clp ∧ (adapterFrame t p).pwc = p.pwc ∧
      (adapterFrame t p).draws = p.draws := by
  unfold adapterFrame; dsimp only; repeat' split
  all_goals simp

@[simp] theorem adapterFrame_posts {n₀ : Nfu} (t : TunerId) (p : Part) (h : Posts n₀ p.nfu) : Posts n₀
  (adapterFrame t p).nfu := by
  unfold adapterFrame; dsimp only; repeat' split
  all_goals simp (maxDischargeDepth := 30) +contextual [h]

@[simp] theorem zoneFrame_frame (p : Part) :
    (zoneFrame p).rif = p.rif ∧ (zoneFrame p).tst = p.tst ∧ (zoneFrame p).rmx = p.rmx ∧ (zoneFrame p).tuc =
      p.tuc ∧ (zoneFrame p).stm = p.stm ∧ (zoneFrame p).anu = p.anu ∧ (zoneFrame p).rlu = p.rlu ∧ (zoneFrame
      p).clp = p.clp ∧ (zoneFrame p).nfu = p.nfu ∧ (zoneFrame p).pwc = p.pwc ∧ (zoneFrame p).draws = p.draws := by simp [zoneFrame]

@[simp] theorem callFrame_frame (mics : List Sample) (p : Part) :
    (callFrame mics p).rif = p.rif ∧ (callFrame mics p).tst = p.tst ∧ (callFrame mics p).zmx = p.zmx ∧
      (callFrame mics p).rmx = p.rmx ∧ (callFrame mics p).tuc = p.tuc ∧ (callFrame mics p).stm = p.stm ∧
      (callFrame mics p).anu = p.anu ∧ (callFrame mics p).rlu = p.rlu ∧ (callFrame mics p).nfu = p.nfu ∧
      (callFrame mics p).pwc = p.pwc ∧ (callFrame mics p).draws = p.draws := by simp [callFrame]

@[simp] theorem audioFrame_frame (mics : List Sample) (p : Part) :
    (audioFrame mics p).rif = p.rif ∧ (audioFrame mics p).tst = p.tst ∧ (audioFrame mics p).stm = p.stm ∧
      (audioFrame mics p).rlu = p.rlu ∧ (audioFrame mics p).pwc = p.pwc := by simp [audioFrame]

@[simp] theorem audioFrame_posts {n₀ : Nfu} (mics : List Sample) (p : Part) (h : Posts n₀ p.nfu) : Posts n₀
  (audioFrame mics p).nfu := by
  simp [audioFrame, h]

/-! ### Reads -/

@[simp] theorem clearMark_frame (i : Nat) (p : Part) :
    (clearMark i p).rif = p.rif ∧ (clearMark i p).zmx = p.zmx ∧ (clearMark i p).rmx = p.rmx ∧ (clearMark i
      p).tuc = p.tuc ∧ (clearMark i p).stm = p.stm ∧ (clearMark i p).anu = p.anu ∧ (clearMark i p).rlu = p.rlu ∧
      (clearMark i p).clp = p.clp ∧ (clearMark i p).nfu = p.nfu ∧ (clearMark i p).pwc = p.pwc ∧ (clearMark i
      p).draws = p.draws := by simp [clearMark]

@[simp] theorem readEntry_frame (table i mask : Nat) (clear : Bool) (p : Part) :
    (readEntry table i mask clear p).2.rif = p.rif ∧ (readEntry table i mask clear p).2.rmx = p.rmx ∧ (readEntry
      table i mask clear p).2.anu = p.anu ∧ (readEntry table i mask clear p).2.rlu = p.rlu ∧ (readEntry table i
      mask clear p).2.pwc = p.pwc ∧ (readEntry table i mask clear p).2.draws = p.draws := by simp [readEntry]

@[simp] theorem readEntry_posts {n₀ : Nfu} (table i mask : Nat) (clear : Bool) (p : Part) (h : Posts n₀ p.nfu) :
  Posts n₀ (readEntry table i mask clear p).2.nfu := by
  simp [readEntry, h]

@[simp] theorem readEntries_frame (table mask : Nat) (marked clear : Bool) (l : List Nat) (acc : List Byte) (p : Part) :
    (readEntries table mask marked clear l acc p).2.2.rif = p.rif
      ∧ (readEntries table mask marked clear l acc p).2.2.rmx = p.rmx
      ∧ (readEntries table mask marked clear l acc p).2.2.anu = p.anu
      ∧ (readEntries table mask marked clear l acc p).2.2.rlu = p.rlu
      ∧ (readEntries table mask marked clear l acc p).2.2.pwc = p.pwc
      ∧ (readEntries table mask marked clear l acc p).2.2.draws = p.draws := by
  induction l generalizing acc p with
  | nil => simp [readEntries]
  | cons i l ih =>
    unfold readEntries
    dsimp only
    repeat' split
    all_goals simp [ih]

@[simp] theorem readEntries_posts {n₀ : Nfu} (table mask : Nat) (marked clear : Bool) (l : List Nat) (acc : List Byte)
    (p : Part) (h : Posts n₀ p.nfu) : Posts n₀ (readEntries table mask marked clear l acc p).2.2.nfu := by
  induction l generalizing acc p with
  | nil => simpa [readEntries] using h
  | cons i l ih =>
    unfold readEntries
    dsimp only
    repeat' split
    all_goals simp [ih, h]

@[simp] theorem tableRead_frame (source table first last mask options : Nat) (p : Part) :
    (tableRead source table first last mask options p).part.rif = p.rif ∧ (tableRead source table first last
      mask options p).part.rmx = p.rmx ∧ (tableRead source table first last mask options p).part.anu = p.anu ∧
      (tableRead source table first last mask options p).part.rlu = p.rlu ∧ (tableRead source table first last
      mask options p).part.pwc = p.pwc ∧ (tableRead source table first last mask options p).part.draws = p.draws := by
  unfold tableRead; repeat' split
  all_goals simp

@[simp] theorem tableRead_posts {n₀ : Nfu} (source table first last mask options : Nat) (p : Part) (h : Posts n₀
  p.nfu) : Posts n₀ (tableRead source table first last mask options p).part.nfu := by
  unfold tableRead; repeat' split
  all_goals simp (maxDischargeDepth := 30) +contextual [h]

@[simp] theorem tableShare_frame (table right : Nat) (p : Part) :
    (tableShare table right p).2.rif = p.rif ∧ (tableShare table right p).2.zmx = p.zmx ∧ (tableShare table
      right p).2.rmx = p.rmx ∧ (tableShare table right p).2.tuc = p.tuc ∧ (tableShare table right p).2.stm =
      p.stm ∧ (tableShare table right p).2.anu = p.anu ∧ (tableShare table right p).2.rlu = p.rlu ∧ (tableShare
      table right p).2.clp = p.clp ∧ (tableShare table right p).2.nfu = p.nfu ∧ (tableShare table right p).2.pwc
      = p.pwc ∧ (tableShare table right p).2.draws = p.draws := by
  unfold tableShare; repeat' split
  all_goals simp

@[simp] theorem clearGroup_frame (group : Nat) (p : Part) :
    (clearGroup group p).tst = p.tst ∧ (clearGroup group p).anu = p.anu ∧ (clearGroup group p).clp = p.clp ∧
      (clearGroup group p).pwc = p.pwc ∧ (clearGroup group p).draws = p.draws := by
  unfold clearGroup; split <;> simp

@[simp] theorem countersRead_frame (group : Nat) (p : Part) :
    (countersRead group p).part.tst = p.tst ∧ (countersRead group p).part.anu = p.anu ∧ (countersRead group
      p).part.clp = p.clp ∧ (countersRead group p).part.pwc = p.pwc ∧ (countersRead group p).part.draws =
      p.draws := by
  unfold countersRead; split <;> simp

/-! ### Writes -/

@[simp] theorem writeIngress_frame (i : Nat) (fs : Fields) (p : Part) :
    (writeIngress i fs p).2.rif = p.rif ∧ (writeIngress i fs p).2.zmx = p.zmx ∧ (writeIngress i fs p).2.rmx =
      p.rmx ∧ (writeIngress i fs p).2.tuc = p.tuc ∧ (writeIngress i fs p).2.stm = p.stm ∧ (writeIngress i fs
      p).2.anu = p.anu ∧ (writeIngress i fs p).2.rlu = p.rlu ∧ (writeIngress i fs p).2.clp = p.clp ∧
      (writeIngress i fs p).2.nfu = p.nfu ∧ (writeIngress i fs p).2.pwc = p.pwc ∧ (writeIngress i fs p).2.draws
      = p.draws := by
  unfold writeIngress; dsimp only; repeat' split
  all_goals simp

@[simp] theorem writeEgress_frame (i : Nat) (fs : Fields) (p : Part) :
    (writeEgress i fs p).2.rif = p.rif ∧ (writeEgress i fs p).2.rmx = p.rmx ∧ (writeEgress i fs p).2.anu = p.anu
      ∧ (writeEgress i fs p).2.rlu = p.rlu ∧ (writeEgress i fs p).2.pwc = p.pwc ∧ (writeEgress i fs p).2.draws =
      p.draws := by
  unfold writeEgress; dsimp only; repeat' split
  all_goals simp

@[simp] theorem writeEgress_posts {n₀ : Nfu} (i : Nat) (fs : Fields) (p : Part) (h : Posts n₀ p.nfu) : Posts n₀
  (writeEgress i fs p).2.nfu := by
  unfold writeEgress; dsimp only; repeat' split
  all_goals simp (maxDischargeDepth := 30) +contextual [h]

@[simp] theorem writeSource_frame (i : Nat) (fs : Fields) (p : Part) :
    (writeSource i fs p).2.rif = p.rif ∧ (writeSource i fs p).2.zmx = p.zmx ∧ (writeSource i fs p).2.rmx = p.rmx
      ∧ (writeSource i fs p).2.tuc = p.tuc ∧ (writeSource i fs p).2.stm = p.stm ∧ (writeSource i fs p).2.anu =
      p.anu ∧ (writeSource i fs p).2.rlu = p.rlu ∧ (writeSource i fs p).2.clp = p.clp ∧ (writeSource i fs
      p).2.nfu = p.nfu ∧ (writeSource i fs p).2.pwc = p.pwc ∧ (writeSource i fs p).2.draws = p.draws := by
  unfold writeSource; dsimp only; repeat' split
  all_goals simp

@[simp] theorem writeZone_frame (z : ZoneId) (fs : Fields) (p : Part) :
    (writeZone z fs p).2.rif = p.rif ∧ (writeZone z fs p).2.rmx = p.rmx ∧ (writeZone z fs p).2.anu = p.anu ∧
      (writeZone z fs p).2.pwc = p.pwc ∧ (writeZone z fs p).2.draws = p.draws := by
  unfold writeZone; dsimp only; repeat' split
  all_goals simp

@[simp] theorem writeZone_posts {n₀ : Nfu} (z : ZoneId) (fs : Fields) (p : Part) (h : Posts n₀ p.nfu) : Posts n₀
  (writeZone z fs p).2.nfu := by
  unfold writeZone; dsimp only; repeat' split
  all_goals simp (maxDischargeDepth := 30) +contextual [h]

@[simp] theorem writeCurve_frame (i : Nat) (fs : Fields) (p : Part) :
    (writeCurve i fs p).2.rif = p.rif ∧ (writeCurve i fs p).2.zmx = p.zmx ∧ (writeCurve i fs p).2.rmx = p.rmx ∧
      (writeCurve i fs p).2.tuc = p.tuc ∧ (writeCurve i fs p).2.stm = p.stm ∧ (writeCurve i fs p).2.anu = p.anu
      ∧ (writeCurve i fs p).2.rlu = p.rlu ∧ (writeCurve i fs p).2.clp = p.clp ∧ (writeCurve i fs p).2.nfu =
      p.nfu ∧ (writeCurve i fs p).2.pwc = p.pwc ∧ (writeCurve i fs p).2.draws = p.draws := by
  unfold writeCurve; dsimp only; repeat' split
  all_goals simp

@[simp] theorem writeDuck_frame (i : Nat) (fs : Fields) (p : Part) :
    (writeDuck i fs p).2.rif = p.rif ∧ (writeDuck i fs p).2.zmx = p.zmx ∧ (writeDuck i fs p).2.rmx = p.rmx ∧
      (writeDuck i fs p).2.tuc = p.tuc ∧ (writeDuck i fs p).2.stm = p.stm ∧ (writeDuck i fs p).2.anu = p.anu ∧
      (writeDuck i fs p).2.rlu = p.rlu ∧ (writeDuck i fs p).2.clp = p.clp ∧ (writeDuck i fs p).2.nfu = p.nfu ∧
      (writeDuck i fs p).2.pwc = p.pwc ∧ (writeDuck i fs p).2.draws = p.draws := by
  unfold writeDuck; dsimp only; repeat' split
  all_goals simp

@[simp] theorem writeRender_frame (bank : BankId) (i : Nat) (fs : Fields) (p : Part) :
    (writeRender bank i fs p).2.rif = p.rif ∧ (writeRender bank i fs p).2.zmx = p.zmx ∧ (writeRender bank i fs
      p).2.rmx = p.rmx ∧ (writeRender bank i fs p).2.tuc = p.tuc ∧ (writeRender bank i fs p).2.stm = p.stm ∧
      (writeRender bank i fs p).2.anu = p.anu ∧ (writeRender bank i fs p).2.rlu = p.rlu ∧ (writeRender bank i fs
      p).2.clp = p.clp ∧ (writeRender bank i fs p).2.nfu = p.nfu ∧ (writeRender bank i fs p).2.pwc = p.pwc ∧
      (writeRender bank i fs p).2.draws = p.draws := by
  unfold writeRender; dsimp only; repeat' split
  all_goals simp

@[simp] theorem readdress_frame (old : PerTuner (Option Nat)) (p : Part) (t : TunerId) :
    (readdress old p t).rif = p.rif ∧ (readdress old p t).tst = p.tst ∧ (readdress old p t).zmx = p.zmx ∧
      (readdress old p t).rmx = p.rmx ∧ (readdress old p t).stm = p.stm ∧ (readdress old p t).anu = p.anu ∧
      (readdress old p t).rlu = p.rlu ∧ (readdress old p t).clp = p.clp ∧ (readdress old p t).pwc = p.pwc ∧
      (readdress old p t).draws = p.draws := by simp [readdress]

@[simp] theorem readdress_posts {n₀ : Nfu} (old : PerTuner (Option Nat)) (p : Part) (t : TunerId) (h : Posts n₀
  p.nfu) : Posts n₀ (readdress old p t).nfu := by
  simp [readdress, h]

@[simp] theorem keepScoring_frame (p : Part) :
    (keepScoring p).rif = p.rif ∧ (keepScoring p).tst = p.tst ∧ (keepScoring p).zmx = p.zmx ∧ (keepScoring p).rmx =
      p.rmx ∧ (keepScoring p).stm = p.stm ∧ (keepScoring p).anu = p.anu ∧ (keepScoring p).rlu = p.rlu ∧
      (keepScoring p).clp = p.clp ∧ (keepScoring p).nfu = p.nfu ∧ (keepScoring p).pwc = p.pwc ∧ (keepScoring
      p).draws = p.draws := by simp [keepScoring]

@[simp] theorem writeRadio_frame (fs : Fields) (p : Part) :
    (writeRadio fs p).2.rif = p.rif ∧ (writeRadio fs p).2.zmx = p.zmx ∧ (writeRadio fs p).2.rmx = p.rmx ∧
      (writeRadio fs p).2.stm = p.stm ∧ (writeRadio fs p).2.anu = p.anu ∧ (writeRadio fs p).2.rlu = p.rlu ∧
      (writeRadio fs p).2.clp = p.clp ∧ (writeRadio fs p).2.pwc = p.pwc ∧ (writeRadio fs p).2.draws = p.draws := by
  unfold writeRadio; dsimp only; repeat' split
  all_goals simp

@[simp] theorem writeRadio_posts {n₀ : Nfu} (fs : Fields) (p : Part) (h : Posts n₀ p.nfu) : Posts n₀ (writeRadio
  fs p).2.nfu := by
  unfold writeRadio; dsimp only; repeat' split
  all_goals simp (maxDischargeDepth := 30) +contextual [h]

@[simp] theorem writeChime_frame (i : Nat) (fs : Fields) (p : Part) :
    (writeChime i fs p).2.rif = p.rif ∧ (writeChime i fs p).2.zmx = p.zmx ∧ (writeChime i fs p).2.rmx = p.rmx ∧
      (writeChime i fs p).2.tuc = p.tuc ∧ (writeChime i fs p).2.stm = p.stm ∧ (writeChime i fs p).2.anu = p.anu
      ∧ (writeChime i fs p).2.rlu = p.rlu ∧ (writeChime i fs p).2.clp = p.clp ∧ (writeChime i fs p).2.nfu =
      p.nfu ∧ (writeChime i fs p).2.pwc = p.pwc ∧ (writeChime i fs p).2.draws = p.draws := by
  unfold writeChime; dsimp only; repeat' split
  all_goals simp

@[simp] theorem restartMeter_frame (k : Seat) (p : Part) :
    (restartMeter k p).rif = p.rif ∧ (restartMeter k p).tst = p.tst ∧ (restartMeter k p).zmx = p.zmx ∧
      (restartMeter k p).rmx = p.rmx ∧ (restartMeter k p).tuc = p.tuc ∧ (restartMeter k p).stm = p.stm ∧
      (restartMeter k p).anu = p.anu ∧ (restartMeter k p).rlu = p.rlu ∧ (restartMeter k p).nfu = p.nfu ∧
      (restartMeter k p).pwc = p.pwc ∧ (restartMeter k p).draws = p.draws := by simp [restartMeter]

@[simp] theorem writeSeat_frame (k : Seat) (fs : Fields) (p : Part) :
    (writeSeat k fs p).2.rif = p.rif ∧ (writeSeat k fs p).2.zmx = p.zmx ∧ (writeSeat k fs p).2.rmx = p.rmx ∧
      (writeSeat k fs p).2.tuc = p.tuc ∧ (writeSeat k fs p).2.stm = p.stm ∧ (writeSeat k fs p).2.anu = p.anu ∧
      (writeSeat k fs p).2.rlu = p.rlu ∧ (writeSeat k fs p).2.nfu = p.nfu ∧ (writeSeat k fs p).2.pwc = p.pwc ∧
      (writeSeat k fs p).2.draws = p.draws := by
  unfold writeSeat; dsimp only; repeat' split
  all_goals simp

@[simp] theorem writeCall_frame (fs : Fields) (p : Part) :
    (writeCall fs p).2.rif = p.rif ∧ (writeCall fs p).2.zmx = p.zmx ∧ (writeCall fs p).2.rmx = p.rmx ∧
      (writeCall fs p).2.tuc = p.tuc ∧ (writeCall fs p).2.stm = p.stm ∧ (writeCall fs p).2.anu = p.anu ∧
      (writeCall fs p).2.rlu = p.rlu ∧ (writeCall fs p).2.clp = p.clp ∧ (writeCall fs p).2.nfu = p.nfu ∧
      (writeCall fs p).2.pwc = p.pwc ∧ (writeCall fs p).2.draws = p.draws := by
  unfold writeCall; dsimp only; repeat' split
  all_goals simp

@[simp] theorem takeMaximum_frame (r : RearSeat) (p : Part) :
    (takeMaximum r p).rif = p.rif ∧ (takeMaximum r p).tst = p.tst ∧ (takeMaximum r p).rmx = p.rmx ∧ (takeMaximum
      r p).tuc = p.tuc ∧ (takeMaximum r p).stm = p.stm ∧ (takeMaximum r p).anu = p.anu ∧ (takeMaximum r p).clp =
      p.clp ∧ (takeMaximum r p).nfu = p.nfu ∧ (takeMaximum r p).pwc = p.pwc ∧ (takeMaximum r p).draws = p.draws := by simp [takeMaximum]

@[simp] theorem writeAdmission_frame (r : RearSeat) (fs : Fields) (p : Part) :
    (writeAdmission r fs p).2.rif = p.rif ∧ (writeAdmission r fs p).2.rmx = p.rmx ∧ (writeAdmission r fs
      p).2.tuc = p.tuc ∧ (writeAdmission r fs p).2.stm = p.stm ∧ (writeAdmission r fs p).2.anu = p.anu ∧
      (writeAdmission r fs p).2.clp = p.clp ∧ (writeAdmission r fs p).2.nfu = p.nfu ∧ (writeAdmission r fs
      p).2.pwc = p.pwc ∧ (writeAdmission r fs p).2.draws = p.draws := by
  unfold writeAdmission; dsimp only; repeat' split
  all_goals simp

@[simp] theorem forgetBulletinStation_frame (i : Nat) (p : Part) :
    (forgetBulletinStation i p).rif = p.rif ∧ (forgetBulletinStation i p).tst = p.tst ∧ (forgetBulletinStation i
      p).zmx = p.zmx ∧ (forgetBulletinStation i p).rmx = p.rmx ∧ (forgetBulletinStation i p).tuc = p.tuc ∧
      (forgetBulletinStation i p).anu = p.anu ∧ (forgetBulletinStation i p).rlu = p.rlu ∧ (forgetBulletinStation
      i p).clp = p.clp ∧ (forgetBulletinStation i p).nfu = p.nfu ∧ (forgetBulletinStation i p).pwc = p.pwc ∧
      (forgetBulletinStation i p).draws = p.draws := by simp [forgetBulletinStation]

@[simp] theorem dropStation_frame (i : Nat) (p : Part) :
    (dropStation i p).rif = p.rif ∧ (dropStation i p).rmx = p.rmx ∧ (dropStation i p).anu = p.anu ∧ (dropStation
      i p).rlu = p.rlu ∧ (dropStation i p).clp = p.clp ∧ (dropStation i p).pwc = p.pwc ∧ (dropStation i p).draws
      = p.draws := by simp [dropStation]

@[simp] theorem dropStation_posts {n₀ : Nfu} (i : Nat) (p : Part) (h : Posts n₀ p.nfu) : Posts n₀ (dropStation i
  p).nfu := by
  simp [dropStation, h]

@[simp] theorem recodeZones_frame (i code : Nat) (p : Part) :
    (recodeZones i code p).rif = p.rif ∧ (recodeZones i code p).tst = p.tst ∧ (recodeZones i code p).rmx = p.rmx
      ∧ (recodeZones i code p).tuc = p.tuc ∧ (recodeZones i code p).stm = p.stm ∧ (recodeZones i code p).anu =
      p.anu ∧ (recodeZones i code p).rlu = p.rlu ∧ (recodeZones i code p).clp = p.clp ∧ (recodeZones i code
      p).nfu = p.nfu ∧ (recodeZones i code p).pwc = p.pwc ∧ (recodeZones i code p).draws = p.draws := by simp [recodeZones]

@[simp] theorem storeStation_frame (i : Nat) (old : Option Station) (e : Station) (p : Part) :
    (storeStation i old e p).rif = p.rif ∧ (storeStation i old e p).rmx = p.rmx ∧ (storeStation i old e p).anu =
      p.anu ∧ (storeStation i old e p).rlu = p.rlu ∧ (storeStation i old e p).clp = p.clp ∧ (storeStation i old
      e p).pwc = p.pwc ∧ (storeStation i old e p).draws = p.draws := by simp [storeStation]

@[simp] theorem storeStation_posts {n₀ : Nfu} (i : Nat) (old : Option Station) (e : Station) (p : Part) (h :
  Posts n₀ p.nfu) : Posts n₀ (storeStation i old e p).nfu := by
  simp [storeStation, h]

@[simp] theorem writeStation_frame (i : Nat) (fs : Fields) (p : Part) :
    (writeStation i fs p).2.rif = p.rif ∧ (writeStation i fs p).2.rmx = p.rmx ∧ (writeStation i fs p).2.anu =
      p.anu ∧ (writeStation i fs p).2.rlu = p.rlu ∧ (writeStation i fs
      p).2.pwc = p.pwc ∧ (writeStation i fs p).2.draws = p.draws := by
  unfold writeStation; dsimp only; repeat' split
  all_goals simp

@[simp] theorem writeStation_posts {n₀ : Nfu} (i : Nat) (fs : Fields) (p : Part) (h : Posts n₀ p.nfu) : Posts n₀
  (writeStation i fs p).2.nfu := by
  unfold writeStation; dsimp only; repeat' split
  all_goals simp (maxDischargeDepth := 30) +contextual [h]

@[simp] theorem ownerWrite_frame (table i : Nat) (fs : Fields) (p : Part) :
    (ownerWrite table i fs p).2.rif = p.rif ∧ (ownerWrite table i fs p).2.rmx = p.rmx ∧ (ownerWrite table i fs
      p).2.anu = p.anu ∧ (ownerWrite table i fs p).2.pwc = p.pwc ∧ (ownerWrite table i fs p).2.draws = p.draws := by
  unfold ownerWrite; repeat' split
  all_goals simp

@[simp] theorem ownerWrite_posts {n₀ : Nfu} (table i : Nat) (fs : Fields) (p : Part) (h : Posts n₀ p.nfu) :
  Posts n₀ (ownerWrite table i fs p).2.nfu := by
  unfold ownerWrite; repeat' split
  all_goals simp (maxDischargeDepth := 30) +contextual [h]

@[simp] theorem mergeCheck_frame (table i mask : Nat) (p : Part) :
    (mergeCheck table i mask p).rif = p.rif ∧ (mergeCheck table i mask p).rmx = p.rmx ∧ (mergeCheck table i mask
      p).anu = p.anu ∧ (mergeCheck table i mask p).rlu = p.rlu ∧ (mergeCheck table i mask p).pwc = p.pwc ∧
      (mergeCheck table i mask p).draws = p.draws := by simp [mergeCheck]

@[simp] theorem mergeCheck_posts {n₀ : Nfu} (table i mask : Nat) (p : Part) (h : Posts n₀ p.nfu) : Posts n₀
  (mergeCheck table i mask p).nfu := by
  simp [mergeCheck, h]

@[simp] theorem afterWrite_frame (table : Nat) (p : Part) :
    (afterWrite table p).rif = p.rif ∧ (afterWrite table p).rmx = p.rmx ∧ (afterWrite table p).anu = p.anu ∧
      (afterWrite table p).rlu = p.rlu ∧ (afterWrite table p).pwc = p.pwc ∧ (afterWrite table p).draws = p.draws := by simp [afterWrite]

@[simp] theorem afterWrite_posts {n₀ : Nfu} (table : Nat) (p : Part) (h : Posts n₀ p.nfu) : Posts n₀ (afterWrite
  table p).nfu := by
  simp [afterWrite, h]

@[simp] theorem takeWrite_frame (table i mask : Nat) (fs : Fields) (p : Part) :
    (takeWrite table i mask fs p).2.rif = p.rif ∧ (takeWrite table i mask fs p).2.rmx = p.rmx ∧ (takeWrite table
      i mask fs p).2.anu = p.anu ∧ (takeWrite table i mask fs p).2.pwc = p.pwc ∧ (takeWrite table i mask fs
      p).2.draws = p.draws := by
  unfold takeWrite; dsimp only; split <;> simp

@[simp] theorem takeWrite_posts {n₀ : Nfu} (table i mask : Nat) (fs : Fields) (p : Part) (h : Posts n₀ p.nfu) :
  Posts n₀ (takeWrite table i mask fs p).2.nfu := by
  unfold takeWrite; dsimp only; split <;> simp [h]

@[simp] theorem mergeWrite_frame (table i mask : Nat) (fs : Fields) (p : Part) :
    (mergeWrite table i mask fs p).2.rif = p.rif ∧ (mergeWrite table i mask fs p).2.rmx = p.rmx ∧ (mergeWrite
      table i mask fs p).2.anu = p.anu ∧ (mergeWrite table i mask fs p).2.pwc = p.pwc ∧ (mergeWrite table i mask
      fs p).2.draws = p.draws := by
  unfold mergeWrite; dsimp only; repeat' split
  all_goals simp

@[simp] theorem mergeWrite_posts {n₀ : Nfu} (table i mask : Nat) (fs : Fields) (p : Part) (h : Posts n₀ p.nfu) :
  Posts n₀ (mergeWrite table i mask fs p).2.nfu := by
  unfold mergeWrite; dsimp only; repeat' split
  all_goals simp (maxDischargeDepth := 30) +contextual [h]

@[simp] theorem readReplaced_frame (table i : Nat) (p : Part) :
    (readReplaced table i p).rif = p.rif ∧ (readReplaced table i p).rmx = p.rmx ∧ (readReplaced table i p).anu = p.anu ∧
      (readReplaced table i p).pwc = p.pwc ∧ (readReplaced table i p).draws = p.draws := by simp [readReplaced]

@[simp] theorem readReplaced_posts {n₀ : Nfu} (table i : Nat) (p : Part) (h : Posts n₀ p.nfu) :
    Posts n₀ (readReplaced table i p).nfu := by simp [readReplaced, h]

@[simp] theorem tableWrite_frame (table i mask : Nat) (values : List Byte) (p : Part) :
    (tableWrite table i mask values p).2.rif = p.rif ∧ (tableWrite table i mask values p).2.rmx = p.rmx ∧
      (tableWrite table i mask values p).2.anu = p.anu ∧ (tableWrite table i mask values p).2.pwc = p.pwc ∧
      (tableWrite table i mask values p).2.draws = p.draws := by
  unfold tableWrite; repeat' split
  all_goals simp

@[simp] theorem tableWrite_posts {n₀ : Nfu} (table i mask : Nat) (values : List Byte) (p : Part) (h : Posts n₀
  p.nfu) : Posts n₀ (tableWrite table i mask values p).2.nfu := by
  unfold tableWrite; repeat' split
  all_goals simp (maxDischargeDepth := 30) +contextual [h]

@[simp] theorem clearRender_frame (bank : BankId) (p : Part) :
    (clearRender bank p).2.rif = p.rif ∧ (clearRender bank p).2.zmx = p.zmx ∧ (clearRender bank p).2.rmx = p.rmx
      ∧ (clearRender bank p).2.tuc = p.tuc ∧ (clearRender bank p).2.stm = p.stm ∧ (clearRender bank p).2.anu =
      p.anu ∧ (clearRender bank p).2.rlu = p.rlu ∧ (clearRender bank p).2.clp = p.clp ∧ (clearRender bank
      p).2.nfu = p.nfu ∧ (clearRender bank p).2.pwc = p.pwc ∧ (clearRender bank p).2.draws = p.draws := by
  unfold clearRender; split <;> simp

@[simp] theorem clearStations_frame (p : Part) :
    (clearStations p).rif = p.rif ∧ (clearStations p).rmx = p.rmx ∧ (clearStations p).anu = p.anu ∧
      (clearStations p).rlu = p.rlu ∧ (clearStations p).clp = p.clp ∧ (clearStations p).pwc = p.pwc ∧
      (clearStations p).draws = p.draws := by simp [clearStations]

@[simp] theorem clearStations_posts {n₀ : Nfu} (p : Part) (h : Posts n₀ p.nfu) : Posts n₀ (clearStations p).nfu := by
  simp [clearStations, h]

@[simp] theorem clearRadio_frame (p : Part) :
    (clearRadio p).2.rif = p.rif ∧ (clearRadio p).2.zmx = p.zmx ∧ (clearRadio p).2.rmx = p.rmx ∧ (clearRadio
      p).2.stm = p.stm ∧ (clearRadio p).2.anu = p.anu ∧ (clearRadio p).2.rlu = p.rlu ∧ (clearRadio p).2.clp =
      p.clp ∧ (clearRadio p).2.pwc = p.pwc ∧ (clearRadio p).2.draws = p.draws := by
  unfold clearRadio; split <;> simp

@[simp] theorem clearRadio_posts {n₀ : Nfu} (p : Part) (h : Posts n₀ p.nfu) : Posts n₀ (clearRadio p).2.nfu := by
  unfold clearRadio; repeat' split
  all_goals simp (maxDischargeDepth := 30) +contextual [h]

@[simp] theorem clearContents_frame (table : Nat) (p : Part) :
    (clearContents table p).2.rif = p.rif ∧ (clearContents table p).2.rmx = p.rmx ∧ (clearContents table
      p).2.anu = p.anu ∧ (clearContents table p).2.pwc = p.pwc ∧ (clearContents table p).2.draws = p.draws := by
  unfold clearContents; split <;> simp

@[simp] theorem clearContents_posts {n₀ : Nfu} (table : Nat) (p : Part) (h : Posts n₀ p.nfu) : Posts n₀
  (clearContents table p).2.nfu := by
  unfold clearContents; split <;> simp [h]

@[simp] theorem tableClear_frame (table : Nat) (p : Part) :
    (tableClear table p).2.rif = p.rif ∧ (tableClear table p).2.rmx = p.rmx ∧ (tableClear table p).2.anu = p.anu
      ∧ (tableClear table p).2.pwc = p.pwc ∧ (tableClear table p).2.draws = p.draws := by
  unfold tableClear; repeat' split
  all_goals simp

@[simp] theorem tableClear_posts {n₀ : Nfu} (table : Nat) (p : Part) (h : Posts n₀ p.nfu) : Posts n₀ (tableClear
  table p).2.nfu := by
  unfold tableClear; repeat' split
  all_goals simp (maxDischargeDepth := 30) +contextual [h]

/-! ### Rear -/

@[simp] theorem rearStation_frame (z : ZoneId) (arg : Nat) (p : Part) :
    (rearStation z arg p).2.rif = p.rif ∧ (rearStation z arg p).2.rmx = p.rmx ∧ (rearStation z arg p).2.anu = p.anu
      ∧ (rearStation z arg p).2.pwc = p.pwc ∧ (rearStation z arg p).2.draws = p.draws := by
  unfold rearStation asRear; dsimp only; repeat' split
  all_goals simp

@[simp] theorem rearStation_posts {n₀ : Nfu} (z : ZoneId) (arg : Nat) (p : Part) (h : Posts n₀ p.nfu) :
    Posts n₀ (rearStation z arg p).2.nfu := by
  unfold rearStation asRear; dsimp only; repeat' split
  all_goals simp (maxDischargeDepth := 30) +contextual [h]

@[simp] theorem readAdmission_frame (r : RearSeat) (p : Part) :
    (readAdmission r p).rif = p.rif ∧ (readAdmission r p).zmx = p.zmx ∧ (readAdmission r p).rmx = p.rmx
      ∧ (readAdmission r p).tuc = p.tuc ∧ (readAdmission r p).stm = p.stm ∧ (readAdmission r p).anu = p.anu
      ∧ (readAdmission r p).clp = p.clp ∧ (readAdmission r p).pwc = p.pwc
      ∧ (readAdmission r p).draws = p.draws := by simp [readAdmission]

@[simp] theorem readAdmission_posts {n₀ : Nfu} (r : RearSeat) (p : Part) (h : Posts n₀ p.nfu) :
    Posts n₀ (readAdmission r p).nfu := by simp [readAdmission, h]

@[simp] theorem handOff_frame (r : RearSeat) (k : RearKind) (arg : Nat) (p : Part) :
    (handOff r k arg p).2.rif = p.rif ∧ (handOff r k arg p).2.rmx = p.rmx ∧ (handOff r k arg p).2.anu = p.anu ∧
      (handOff r k arg p).2.pwc = p.pwc ∧ (handOff r k arg p).2.draws = p.draws := by
  unfold handOff asRear; split <;> simp

@[simp] theorem handOff_posts {n₀ : Nfu} (r : RearSeat) (k : RearKind) (arg : Nat) (p : Part) (h : Posts n₀
  p.nfu) : Posts n₀ (handOff r k arg p).2.nfu := by
  unfold handOff asRear; split <;> simp (maxDischargeDepth := 30) +contextual [h]

@[simp] theorem rearDecide_frame (x : Taken) (p : Part) :
    (rearDecide x p).2.rif = p.rif ∧ (rearDecide x p).2.rmx = p.rmx ∧ (rearDecide x p).2.anu = p.anu
      ∧ (rearDecide x p).2.pwc = p.pwc ∧ (rearDecide x p).2.draws = p.draws := by
  unfold rearDecide; repeat' split
  all_goals simp

@[simp] theorem rearDecide_posts {n₀ : Nfu} (x : Taken) (p : Part) (h : Posts n₀ p.nfu) :
    Posts n₀ (rearDecide x p).2.nfu := by
  unfold rearDecide; repeat' split
  all_goals simp (maxDischargeDepth := 30) +contextual [h]

@[simp] theorem rearChange_frame (r : RearSeat) (k : RearKind) (res : RearResult) (p : Part) :
    (rearChange r k res p).rif = p.rif ∧ (rearChange r k res p).tst = p.tst ∧ (rearChange r k res p).zmx = p.zmx
      ∧ (rearChange r k res p).rmx = p.rmx ∧ (rearChange r k res p).tuc = p.tuc ∧ (rearChange r k res p).stm =
      p.stm ∧ (rearChange r k res p).anu = p.anu ∧ (rearChange r k res p).rlu = p.rlu ∧ (rearChange r k res
      p).clp = p.clp ∧ (rearChange r k res p).pwc = p.pwc ∧ (rearChange r k res p).draws = p.draws := by simp [rearChange]

@[simp] theorem rearChange_posts {n₀ : Nfu} (r : RearSeat) (k : RearKind) (res : RearResult) (p : Part) (h :
  Posts n₀ p.nfu) : Posts n₀ (rearChange r k res p).nfu := by
  simp [rearChange, h]

@[simp] theorem keptUp_frame (k : RearKind) (before p : Part) :
    (keptUp k before p).rif = p.rif ∧ (keptUp k before p).rmx = p.rmx ∧ (keptUp k before p).clp = p.clp ∧
      (keptUp k before p).pwc = p.pwc ∧ (keptUp k before p).draws = p.draws := by
  unfold keptUp; split <;> simp

@[simp] theorem keptUp_posts {n₀ : Nfu} (k : RearKind) (before p : Part) (h : Posts n₀ p.nfu) : Posts n₀ (keptUp
  k before p).nfu := by
  unfold keptUp; split <;> simp [h]

@[simp] theorem decideTaken_frame (x : Taken) (p : Part) :
    (decideTaken x p).rif = p.rif ∧ (decideTaken x p).rmx = p.rmx ∧ (decideTaken x p).pwc = p.pwc ∧
      (decideTaken x p).draws = p.draws := by simp [decideTaken]

@[simp] theorem decideTaken_posts {n₀ : Nfu} (x : Taken) (p : Part) (h : Posts n₀ p.nfu) :
    Posts n₀ (decideTaken x p).nfu := by
  simp (maxDischargeDepth := 30) +contextual [decideTaken, h]

@[simp] theorem takeRear_frame (r : RearSeat) (k : RearKind) (arg : Nat) (p : Part) :
    (takeRear r k arg p).rif = p.rif ∧ (takeRear r k arg p).rmx = p.rmx ∧ (takeRear r k arg p).pwc = p.pwc ∧
      (takeRear r k arg p).draws = p.draws := by simp [takeRear]

@[simp] theorem takeRear_posts {n₀ : Nfu} (r : RearSeat) (k : RearKind) (arg : Nat) (p : Part) (h : Posts n₀
  p.nfu) : Posts n₀ (takeRear r k arg p).nfu := by
  simp (maxDischargeDepth := 30) +contextual [takeRear, h]

@[simp] theorem rearFault_frame (p : Part) :
    (rearFault p).rif = p.rif ∧ (rearFault p).tst = p.tst ∧ (rearFault p).zmx = p.zmx ∧ (rearFault p).rmx =
      p.rmx ∧ (rearFault p).tuc = p.tuc ∧ (rearFault p).stm = p.stm ∧ (rearFault p).anu = p.anu ∧ (rearFault
      p).rlu = p.rlu ∧ (rearFault p).clp = p.clp ∧ (rearFault p).pwc = p.pwc ∧ (rearFault p).draws = p.draws := by simp [rearFault]

@[simp] theorem rearFault_posts {n₀ : Nfu} (p : Part) (h : Posts n₀ p.nfu) : Posts n₀ (rearFault p).nfu := by
  simp [rearFault, h]

@[simp] theorem formatError_frame (p : Part) :
    (formatError p).rif = p.rif ∧ (formatError p).tst = p.tst ∧ (formatError p).zmx = p.zmx ∧ (formatError
      p).rmx = p.rmx ∧ (formatError p).tuc = p.tuc ∧ (formatError p).stm = p.stm ∧ (formatError p).anu = p.anu ∧
      (formatError p).clp = p.clp ∧ (formatError p).pwc = p.pwc ∧ (formatError p).draws = p.draws := by simp [formatError]

@[simp] theorem formatError_posts {n₀ : Nfu} (p : Part) (h : Posts n₀ p.nfu) : Posts n₀ (formatError p).nfu := by
  simp [formatError, h]

@[simp] theorem checkError_frame (p : Part) :
    (checkError p).rif = p.rif ∧ (checkError p).tst = p.tst ∧ (checkError p).zmx = p.zmx ∧ (checkError p).rmx =
      p.rmx ∧ (checkError p).tuc = p.tuc ∧ (checkError p).stm = p.stm ∧ (checkError p).anu = p.anu ∧ (checkError
      p).clp = p.clp ∧ (checkError p).pwc = p.pwc ∧ (checkError p).draws = p.draws := by simp [checkError]

@[simp] theorem checkError_posts {n₀ : Nfu} (p : Part) (h : Posts n₀ p.nfu) : Posts n₀ (checkError p).nfu := by
  simp [checkError, h]

@[simp] theorem frameError_frame (p : Part) :
    (frameError p).rif = p.rif ∧ (frameError p).tst = p.tst ∧ (frameError p).zmx = p.zmx ∧ (frameError p).rmx =
      p.rmx ∧ (frameError p).tuc = p.tuc ∧ (frameError p).stm = p.stm ∧ (frameError p).anu = p.anu ∧ (frameError
      p).clp = p.clp ∧ (frameError p).pwc = p.pwc ∧ (frameError p).draws = p.draws := by simp [frameError]

@[simp] theorem frameError_posts {n₀ : Nfu} (p : Part) (h : Posts n₀ p.nfu) : Posts n₀ (frameError p).nfu := by
  simp [frameError, h]

@[simp] theorem hunt_frame (p : Part) :
    (hunt p).rif = p.rif ∧ (hunt p).tst = p.tst ∧ (hunt p).zmx = p.zmx ∧ (hunt p).rmx = p.rmx ∧ (hunt p).tuc =
      p.tuc ∧ (hunt p).stm = p.stm ∧ (hunt p).anu = p.anu ∧ (hunt p).clp = p.clp ∧ (hunt p).nfu = p.nfu ∧ (hunt
      p).pwc = p.pwc ∧ (hunt p).draws = p.draws := by simp [hunt]

@[simp] theorem abandonFrame_frame (p : Part) :
    (abandonFrame p).rif = p.rif ∧ (abandonFrame p).tst = p.tst ∧ (abandonFrame p).zmx = p.zmx ∧ (abandonFrame
      p).rmx = p.rmx ∧ (abandonFrame p).tuc = p.tuc ∧ (abandonFrame p).stm = p.stm ∧ (abandonFrame p).anu =
      p.anu ∧ (abandonFrame p).clp = p.clp ∧ (abandonFrame p).nfu = p.nfu ∧ (abandonFrame p).pwc = p.pwc ∧
      (abandonFrame p).draws = p.draws := by simp [abandonFrame]

@[simp] theorem holdTaken_frame (r : RearSeat) (k : RearKind) (arg : Nat) (p : Part) :
    (holdTaken r k arg p).rif = p.rif ∧ (holdTaken r k arg p).zmx = p.zmx ∧
      (holdTaken r k arg p).rmx = p.rmx ∧ (holdTaken r k arg p).tuc = p.tuc ∧ (holdTaken r k arg p).stm = p.stm
      ∧ (holdTaken r k arg p).anu = p.anu ∧ (holdTaken r k arg p).clp = p.clp ∧ (holdTaken r k arg p).pwc = p.pwc ∧ (holdTaken r k arg p).draws = p.draws := by simp [holdTaken]

@[simp] theorem holdTaken_posts {n₀ : Nfu} (r : RearSeat) (k : RearKind) (arg : Nat) (p : Part) (h : Posts n₀ p.nfu) :
    Posts n₀ (holdTaken r k arg p).nfu := by simp [holdTaken, h]

@[simp] theorem judgeFrame_frame (frame : List Byte) (p : Part) :
    (judgeFrame frame p).rif = p.rif ∧ (judgeFrame frame p).zmx = p.zmx ∧
      (judgeFrame frame p).rmx = p.rmx ∧ (judgeFrame frame p).tuc = p.tuc ∧ (judgeFrame frame p).stm = p.stm ∧
      (judgeFrame frame p).anu = p.anu ∧ (judgeFrame frame p).clp = p.clp ∧ (judgeFrame frame p).pwc = p.pwc ∧
      (judgeFrame frame p).draws = p.draws := by
  unfold judgeFrame; repeat' split
  all_goals simp

@[simp] theorem judgeFrame_posts {n₀ : Nfu} (frame : List Byte) (p : Part) (h : Posts n₀ p.nfu) : Posts n₀
  (judgeFrame frame p).nfu := by
  unfold judgeFrame; repeat' split
  all_goals simp (maxDischargeDepth := 30) +contextual [h]

@[simp] theorem takeByte_frame (b : Byte) (p : Part) :
    (takeByte b p).rif = p.rif ∧ (takeByte b p).zmx = p.zmx ∧ (takeByte b p).rmx =
      p.rmx ∧ (takeByte b p).tuc = p.tuc ∧ (takeByte b p).stm = p.stm ∧ (takeByte b p).anu = p.anu ∧ (takeByte b
      p).clp = p.clp ∧ (takeByte b p).pwc = p.pwc ∧ (takeByte b p).draws = p.draws := by
  unfold takeByte; dsimp only; repeat' split
  all_goals simp

@[simp] theorem takeByte_posts {n₀ : Nfu} (b : Byte) (p : Part) (h : Posts n₀ p.nfu) : Posts n₀ (takeByte b
  p).nfu := by
  unfold takeByte; dsimp only; repeat' split
  all_goals simp (maxDischargeDepth := 30) +contextual [h]

@[simp] theorem drainFifo_frame (n : Nat) (p : Part) :
    (drainFifo n p).rif = p.rif ∧ (drainFifo n p).zmx = p.zmx
      ∧ (drainFifo n p).rmx = p.rmx ∧ (drainFifo n p).tuc = p.tuc ∧ (drainFifo n p).stm = p.stm
      ∧ (drainFifo n p).anu = p.anu ∧ (drainFifo n p).clp = p.clp ∧ (drainFifo n p).pwc = p.pwc
      ∧ (drainFifo n p).draws = p.draws := by
  induction n generalizing p with
  | zero => simp [drainFifo]
  | succ n ih => unfold drainFifo; split <;> simp [ih]

@[simp] theorem drainFifo_posts {n₀ : Nfu} (n : Nat) (p : Part) (h : Posts n₀ p.nfu) :
    Posts n₀ (drainFifo n p).nfu := by
  induction n generalizing p with
  | zero => simpa [drainFifo] using h
  | succ n ih => unfold drainFifo; split <;> simp [ih, h]

@[simp] theorem drain_frame (p : Part) :
    (drain p).rif = p.rif ∧ (drain p).zmx = p.zmx ∧ (drain p).rmx = p.rmx ∧ (drain
      p).tuc = p.tuc ∧ (drain p).stm = p.stm ∧ (drain p).anu = p.anu ∧ (drain p).clp = p.clp ∧ (drain p).pwc =
      p.pwc ∧ (drain p).draws = p.draws := by simp [drain]

@[simp] theorem drain_posts {n₀ : Nfu} (p : Part) (h : Posts n₀ p.nfu) : Posts n₀ (drain p).nfu := by
  simp [drain, h]

@[simp] theorem endHandling_frame (p : Part) :
    (endHandling p).rif = p.rif ∧ (endHandling p).zmx = p.zmx ∧ (endHandling
      p).rmx = p.rmx ∧ (endHandling p).tuc = p.tuc ∧ (endHandling p).stm = p.stm ∧ (endHandling p).anu = p.anu ∧
      (endHandling p).clp = p.clp ∧ (endHandling p).pwc = p.pwc ∧ (endHandling p).draws = p.draws := by simp [endHandling]

@[simp] theorem endHandling_posts {n₀ : Nfu} (p : Part) (h : Posts n₀ p.nfu) : Posts n₀ (endHandling p).nfu := by
  simp [endHandling, h]

@[simp] theorem rearRequest_frame (r : RearSeat) (k : RearKind) (arg : Nat) (p : Part) :
    (rearRequest r k arg p).rif = p.rif ∧ (rearRequest r k arg p).rmx = p.rmx ∧ (rearRequest r k arg p).pwc =
      p.pwc ∧ (rearRequest r k arg p).draws = p.draws := by
  unfold rearRequest; repeat' split
  all_goals simp

@[simp] theorem rearRequest_posts {n₀ : Nfu} (r : RearSeat) (k : RearKind) (arg : Nat) (p : Part) (h : Posts n₀
  p.nfu) : Posts n₀ (rearRequest r k arg p).nfu := by
  unfold rearRequest; repeat' split
  all_goals simp (maxDischargeDepth := 30) +contextual [h]

@[simp] theorem rearByteReceived_frame (b : Byte) (stopBit : Bool) (p : Part) :
    (rearByteReceived b stopBit p).rif = p.rif ∧ (rearByteReceived
      b stopBit p).zmx = p.zmx ∧ (rearByteReceived b stopBit p).rmx = p.rmx ∧ (rearByteReceived b stopBit p).tuc
      = p.tuc ∧ (rearByteReceived b stopBit p).stm = p.stm ∧ (rearByteReceived b stopBit p).anu = p.anu ∧
      (rearByteReceived b stopBit p).clp = p.clp ∧ (rearByteReceived b stopBit p).pwc = p.pwc ∧
      (rearByteReceived b stopBit p).draws = p.draws := by simp [rearByteReceived]

@[simp] theorem rearByteReceived_posts {n₀ : Nfu} (b : Byte) (stopBit : Bool) (p : Part) (h : Posts n₀ p.nfu) :
  Posts n₀ (rearByteReceived b stopBit p).nfu := by
  simp (maxDischargeDepth := 30) +contextual [rearByteReceived, h]

@[simp] theorem rearIdleTimeout_frame (p : Part) :
    (rearIdleTimeout p).rif = p.rif ∧ (rearIdleTimeout p).zmx = p.zmx ∧
      (rearIdleTimeout p).rmx = p.rmx ∧ (rearIdleTimeout p).tuc = p.tuc ∧ (rearIdleTimeout p).stm = p.stm ∧
      (rearIdleTimeout p).anu = p.anu ∧ (rearIdleTimeout p).clp = p.clp ∧ (rearIdleTimeout p).pwc = p.pwc ∧
      (rearIdleTimeout p).draws = p.draws := by simp [rearIdleTimeout]

@[simp] theorem rearIdleTimeout_posts {n₀ : Nfu} (p : Part) (h : Posts n₀ p.nfu) : Posts n₀ (rearIdleTimeout
  p).nfu := by
  simp (maxDischargeDepth := 30) +contextual [rearIdleTimeout, h]

@[simp] theorem readForReport_frame (r : RearSeat) (p : Part) :
    (readForReport r p).rif = p.rif ∧ (readForReport r p).rmx = p.rmx ∧ (readForReport r p).anu = p.anu ∧
      (readForReport r p).rlu = p.rlu ∧ (readForReport r p).pwc = p.pwc ∧ (readForReport r p).draws = p.draws := by
  unfold readForReport; dsimp only; repeat' split
  all_goals simp

@[simp] theorem readForReport_posts {n₀ : Nfu} (r : RearSeat) (p : Part) (h : Posts n₀ p.nfu) : Posts n₀
  (readForReport r p).nfu := by
  unfold readForReport; dsimp only; repeat' split
  all_goals simp (maxDischargeDepth := 30) +contextual [h]

@[simp] theorem reportSend_frame (p : Part) :
    (reportSend p).rif = p.rif ∧ (reportSend p).rmx = p.rmx ∧ (reportSend p).pwc = p.pwc ∧ (reportSend p).draws
      = p.draws := by
  unfold reportSend; split <;> simp

@[simp] theorem reportSend_posts {n₀ : Nfu} (p : Part) (h : Posts n₀ p.nfu) : Posts n₀ (reportSend p).nfu := by
  unfold reportSend; repeat' split
  all_goals simp (maxDischargeDepth := 30) +contextual [h]

/-! ### Power -/

@[simp] theorem setMode_frame (m : PowerMode) (p : Part) :
    (setMode m p).rif = p.rif ∧ (setMode m p).tst = p.tst ∧ (setMode m p).zmx = p.zmx ∧ (setMode m p).rmx =
      p.rmx ∧ (setMode m p).tuc = p.tuc ∧ (setMode m p).stm = p.stm ∧ (setMode m p).anu = p.anu ∧ (setMode m
      p).rlu = p.rlu ∧ (setMode m p).clp = p.clp ∧ (setMode m p).nfu = p.nfu ∧ (setMode m p).draws = p.draws := by simp [setMode]

@[simp] theorem enterReduced_frame (p : Part) :
    (enterReduced p).rif = p.rif ∧ (enterReduced p).rmx = p.rmx ∧ (enterReduced p).rlu = p.rlu ∧ (enterReduced
      p).draws = p.draws := by simp [enterReduced]

@[simp] theorem enterReduced_posts {n₀ : Nfu} (p : Part) (h : Posts n₀ p.nfu) : Posts n₀ (enterReduced p).nfu := by
  simp (maxDischargeDepth := 30) +contextual [enterReduced, h]

@[simp] theorem enterActive_frame (p : Part) :
    (enterActive p).rif = p.rif ∧ (enterActive p).tst = p.tst ∧ (enterActive p).zmx = p.zmx ∧ (enterActive
      p).rmx = p.rmx ∧ (enterActive p).tuc = p.tuc ∧ (enterActive p).stm = p.stm ∧ (enterActive p).anu = p.anu ∧
      (enterActive p).rlu = p.rlu ∧ (enterActive p).clp = p.clp ∧ (enterActive p).draws = p.draws := by simp [enterActive]

@[simp] theorem enterActive_posts {n₀ : Nfu} (p : Part) (h : Posts n₀ p.nfu) : Posts n₀ (enterActive p).nfu := by
  simp [enterActive, h]

@[simp] theorem takeIgnition_frame (g : Ignition) (p : Part) :
    (takeIgnition g p).rif = p.rif ∧ (takeIgnition g p).rmx = p.rmx ∧ (takeIgnition g p).rlu = p.rlu ∧
      (takeIgnition g p).draws = p.draws := by
  unfold takeIgnition; dsimp only; repeat' split
  all_goals simp

@[simp] theorem takeIgnition_posts {n₀ : Nfu} (g : Ignition) (p : Part) (h : Posts n₀ p.nfu) : Posts n₀
  (takeIgnition g p).nfu := by
  unfold takeIgnition; dsimp only; repeat' split
  all_goals simp (maxDischargeDepth := 30) +contextual [h]

@[simp] theorem takeSpeed_frame (speed : Nat) (p : Part) :
    (takeSpeed speed p).rif = p.rif ∧ (takeSpeed speed p).tst = p.tst ∧ (takeSpeed speed p).rmx = p.rmx ∧
      (takeSpeed speed p).tuc = p.tuc ∧ (takeSpeed speed p).stm = p.stm ∧ (takeSpeed speed p).anu = p.anu ∧
      (takeSpeed speed p).rlu = p.rlu ∧ (takeSpeed speed p).clp = p.clp ∧ (takeSpeed speed p).nfu = p.nfu ∧
      (takeSpeed speed p).pwc = p.pwc ∧ (takeSpeed speed p).draws = p.draws := by simp [takeSpeed]

@[simp] theorem takeVehicle_frame (g : Ignition) (speed : Nat) (isOpen : Bool) (p : Part) :
    (takeVehicle g speed isOpen p).rif = p.rif ∧ (takeVehicle g speed isOpen p).draws = p.draws := by simp [takeVehicle]

@[simp] theorem takeVehicle_posts {n₀ : Nfu} (g : Ignition) (speed : Nat) (isOpen : Bool) (p : Part) (h : Posts
  n₀ p.nfu) : Posts n₀ (takeVehicle g speed isOpen p).nfu := by
  simp [takeVehicle, h]

@[simp] theorem powerDown_frame (p : Part) :
    (powerDown p).2.rif = p.rif ∧ (powerDown p).2.tst = p.tst ∧ (powerDown p).2.zmx = p.zmx ∧ (powerDown
      p).2.rmx = p.rmx ∧ (powerDown p).2.tuc = p.tuc ∧ (powerDown p).2.stm = p.stm ∧ (powerDown p).2.anu = p.anu
      ∧ (powerDown p).2.rlu = p.rlu ∧ (powerDown p).2.clp = p.clp ∧ (powerDown p).2.nfu = p.nfu ∧ (powerDown
      p).2.draws = p.draws := by
  unfold powerDown; repeat' split
  all_goals simp

@[simp] theorem enterDormant_frame (cause : DormantCause) (p : Part) :
    (enterDormant cause p).rif = p.rif ∧ (enterDormant cause p).tst = p.tst ∧ (enterDormant cause p).zmx = p.zmx
      ∧ (enterDormant cause p).rmx = p.rmx ∧ (enterDormant cause p).tuc = p.tuc ∧ (enterDormant cause p).stm =
      p.stm ∧ (enterDormant cause p).rlu = p.rlu ∧ (enterDormant cause p).clp = p.clp ∧ (enterDormant cause
      p).nfu = p.nfu ∧ (enterDormant cause p).draws = p.draws := by simp [enterDormant]

@[simp] theorem powerDownRampEnd_frame (p : Part) :
    (powerDownRampEnd p).rif = p.rif ∧ (powerDownRampEnd p).tst = p.tst ∧ (powerDownRampEnd p).rmx = p.rmx ∧
      (powerDownRampEnd p).tuc = p.tuc ∧ (powerDownRampEnd p).stm = p.stm ∧ (powerDownRampEnd p).rlu = p.rlu ∧
      (powerDownRampEnd p).clp = p.clp ∧ (powerDownRampEnd p).nfu = p.nfu ∧ (powerDownRampEnd p).draws = p.draws := by simp [powerDownRampEnd]

@[simp] theorem ringLossCountExpiry_frame (p : Part) :
    (ringLossCountExpiry p).rif = p.rif ∧ (ringLossCountExpiry p).rmx = p.rmx ∧ (ringLossCountExpiry p).rlu =
      p.rlu ∧ (ringLossCountExpiry p).draws = p.draws := by simp [ringLossCountExpiry]

@[simp] theorem ringLossCountExpiry_posts {n₀ : Nfu} (p : Part) (h : Posts n₀ p.nfu) : Posts n₀
  (ringLossCountExpiry p).nfu := by
  simp (maxDischargeDepth := 30) +contextual [ringLossCountExpiry, h]









/-! ### Owners -/

@[simp] theorem reading_frame (source table first last mask options : Nat) (p : Part) :
    (reading source table first last mask options p).part.rif = p.rif ∧ (reading source table first last mask
      options p).part.rmx = p.rmx ∧ (reading source table first last mask options p).part.pwc = p.pwc ∧ (reading
      source table first last mask options p).part.draws = p.draws := by simp [reading]

@[simp] theorem reading_posts {n₀ : Nfu} (source table first last mask options : Nat) (p : Part) (h : Posts n₀
  p.nfu) : Posts n₀ (reading source table first last mask options p).part.nfu := by
  simp [reading, h]

@[simp] theorem identifyAnswer_frame (p : Part) :
    (identifyAnswer p).part.rif = p.rif ∧ (identifyAnswer p).part.tst = p.tst ∧ (identifyAnswer p).part.zmx =
      p.zmx ∧ (identifyAnswer p).part.rmx = p.rmx ∧ (identifyAnswer p).part.tuc = p.tuc ∧ (identifyAnswer
      p).part.stm = p.stm ∧ (identifyAnswer p).part.anu = p.anu ∧ (identifyAnswer p).part.rlu = p.rlu ∧
      (identifyAnswer p).part.clp = p.clp ∧ (identifyAnswer p).part.nfu = p.nfu ∧ (identifyAnswer p).part.pwc =
      p.pwc ∧ (identifyAnswer p).part.draws = p.draws := by simp [identifyAnswer]

@[simp] theorem statusAnswer_frame (p : Part) :
    (statusAnswer p).part.rif = p.rif ∧ (statusAnswer p).part.tst = p.tst ∧ (statusAnswer p).part.zmx = p.zmx ∧
      (statusAnswer p).part.rmx = p.rmx ∧ (statusAnswer p).part.tuc = p.tuc ∧ (statusAnswer p).part.stm = p.stm
      ∧ (statusAnswer p).part.anu = p.anu ∧ (statusAnswer p).part.rlu = p.rlu ∧ (statusAnswer p).part.clp =
      p.clp ∧ (statusAnswer p).part.nfu = p.nfu ∧ (statusAnswer p).part.pwc = p.pwc ∧ (statusAnswer
      p).part.draws = p.draws := by simp [statusAnswer]

@[simp] theorem noticeFetch_frame (p : Part) :
    (noticeFetch p).part.rif = p.rif ∧ (noticeFetch p).part.tst = p.tst ∧ (noticeFetch p).part.zmx = p.zmx ∧
      (noticeFetch p).part.rmx = p.rmx ∧ (noticeFetch p).part.tuc = p.tuc ∧ (noticeFetch p).part.stm = p.stm ∧
      (noticeFetch p).part.anu = p.anu ∧ (noticeFetch p).part.rlu = p.rlu ∧ (noticeFetch p).part.clp = p.clp ∧
      (noticeFetch p).part.pwc = p.pwc ∧ (noticeFetch p).part.draws = p.draws := by simp [noticeFetch]

@[simp] theorem faultRead_frame (p : Part) :
    (faultRead p).part.rif = p.rif ∧ (faultRead p).part.tst = p.tst ∧ (faultRead p).part.zmx = p.zmx ∧
      (faultRead p).part.rmx = p.rmx ∧ (faultRead p).part.tuc = p.tuc ∧ (faultRead p).part.stm = p.stm ∧
      (faultRead p).part.anu = p.anu ∧ (faultRead p).part.rlu = p.rlu ∧ (faultRead p).part.clp = p.clp ∧
      (faultRead p).part.pwc = p.pwc ∧ (faultRead p).part.draws = p.draws := by simp [faultRead]

@[simp] theorem faultLevel_frame (level : Nat) (p : Part) :
    (faultLevel level p).2.rif = p.rif ∧ (faultLevel level p).2.tst = p.tst ∧ (faultLevel level p).2.zmx = p.zmx
      ∧ (faultLevel level p).2.rmx = p.rmx ∧ (faultLevel level p).2.tuc = p.tuc ∧ (faultLevel level p).2.stm =
      p.stm ∧ (faultLevel level p).2.anu = p.anu ∧ (faultLevel level p).2.rlu = p.rlu ∧ (faultLevel level
      p).2.clp = p.clp ∧ (faultLevel level p).2.pwc = p.pwc ∧ (faultLevel level p).2.draws = p.draws := by
  unfold faultLevel; split <;> simp

@[simp] theorem pushPrompt_frame (r : Prompt) (p : Part) :
    (pushPrompt r p).part.rif = p.rif ∧ (pushPrompt r p).part.rmx = p.rmx ∧ (pushPrompt r p).part.rlu = p.rlu ∧
      (pushPrompt r p).part.pwc = p.pwc ∧ (pushPrompt r p).part.draws = p.draws := by simp [pushPrompt]

@[simp] theorem pushPrompt_posts {n₀ : Nfu} (r : Prompt) (p : Part) (h : Posts n₀ p.nfu) : Posts n₀ (pushPrompt
  r p).part.nfu := by
  simp [pushPrompt, h]

@[simp] theorem promptPush_frame (tag cls source zones level maxDuration position : Nat) (p : Part) :
    (promptPush tag cls source zones level maxDuration position p).part.rif = p.rif ∧ (promptPush tag cls source
      zones level maxDuration position p).part.rmx = p.rmx ∧ (promptPush tag cls source zones level maxDuration
      position p).part.rlu = p.rlu ∧ (promptPush tag cls source zones level maxDuration position p).part.pwc =
      p.pwc ∧ (promptPush tag cls source zones level maxDuration position p).part.draws = p.draws := by
  unfold promptPush; repeat' split
  all_goals simp

@[simp] theorem promptPush_posts {n₀ : Nfu} (tag cls source zones level maxDuration position : Nat) (p : Part)
  (h : Posts n₀ p.nfu) : Posts n₀ (promptPush tag cls source zones level maxDuration position p).part.nfu := by
  unfold promptPush; repeat' split
  all_goals simp (maxDischargeDepth := 30) +contextual [h]

@[simp] theorem promptCancel_frame (tag : Nat) (p : Part) :
    (promptCancel tag p).2.rif = p.rif ∧ (promptCancel tag p).2.rmx = p.rmx ∧ (promptCancel tag p).2.rlu = p.rlu
      ∧ (promptCancel tag p).2.pwc = p.pwc ∧ (promptCancel tag p).2.draws = p.draws := by
  unfold promptCancel; split <;> simp

@[simp] theorem promptCancel_posts {n₀ : Nfu} (tag : Nat) (p : Part) (h : Posts n₀ p.nfu) : Posts n₀
  (promptCancel tag p).2.nfu := by
  unfold promptCancel; split <;> simp [h]

@[simp] theorem promptEnd_frame (tag : Nat) (p : Part) :
    (promptEnd tag p).2.rif = p.rif ∧ (promptEnd tag p).2.tst = p.tst ∧ (promptEnd tag p).2.zmx = p.zmx ∧
      (promptEnd tag p).2.rmx = p.rmx ∧ (promptEnd tag p).2.tuc = p.tuc ∧ (promptEnd tag p).2.stm = p.stm ∧
      (promptEnd tag p).2.rlu = p.rlu ∧ (promptEnd tag p).2.clp = p.clp ∧ (promptEnd tag p).2.pwc = p.pwc ∧
      (promptEnd tag p).2.draws = p.draws := by
  unfold promptEnd; repeat' split
  all_goals simp

@[simp] theorem promptEnd_posts {n₀ : Nfu} (tag : Nat) (p : Part) (h : Posts n₀ p.nfu) : Posts n₀ (promptEnd tag
  p).2.nfu := by
  unfold promptEnd; repeat' split
  all_goals simp (maxDischargeDepth := 30) +contextual [h]

@[simp] theorem scanStart_frame (band : Nat) (p : Part) :
    (scanStart band p).2.rif = p.rif ∧ (scanStart band p).2.rmx = p.rmx ∧ (scanStart band p).2.anu = p.anu ∧
      (scanStart band p).2.clp = p.clp ∧ (scanStart band p).2.pwc = p.pwc ∧ (scanStart band p).2.draws = p.draws := by
  unfold scanStart; dsimp only; repeat' split
  all_goals simp

@[simp] theorem scanStart_posts {n₀ : Nfu} (band : Nat) (p : Part) (h : Posts n₀ p.nfu) : Posts n₀ (scanStart
  band p).2.nfu := by
  unfold scanStart; dsimp only; repeat' split
  all_goals simp (maxDischargeDepth := 30) +contextual [h]

@[simp] theorem scanStop_frame (p : Part) :
    (scanStop p).2.rif = p.rif ∧ (scanStop p).2.rmx = p.rmx ∧ (scanStop p).2.anu = p.anu ∧ (scanStop p).2.rlu =
      p.rlu ∧ (scanStop p).2.clp = p.clp ∧ (scanStop p).2.pwc = p.pwc ∧ (scanStop p).2.draws = p.draws := by
  unfold scanStop; split <;> simp

@[simp] theorem scanStop_posts {n₀ : Nfu} (p : Part) (h : Posts n₀ p.nfu) : Posts n₀ (scanStop p).2.nfu := by
  unfold scanStop; split <;> simp [h]

@[simp] theorem setWatch_frame (i : Nat) (p : Part) :
    (setWatch i p).rif = p.rif ∧ (setWatch i p).rmx = p.rmx ∧ (setWatch i p).anu = p.anu ∧ (setWatch i p).clp =
      p.clp ∧ (setWatch i p).pwc = p.pwc ∧ (setWatch i p).draws = p.draws := by simp [setWatch]

@[simp] theorem setWatch_posts {n₀ : Nfu} (i : Nat) (p : Part) (h : Posts n₀ p.nfu) : Posts n₀ (setWatch i
  p).nfu := by
  simp (maxDischargeDepth := 30) +contextual [setWatch, h]

@[simp] theorem watchRequest_frame (index : Nat) (p : Part) :
    (watchRequest index p).2.rif = p.rif ∧ (watchRequest index p).2.rmx = p.rmx ∧ (watchRequest index p).2.anu =
      p.anu ∧ (watchRequest index p).2.pwc = p.pwc ∧ (watchRequest index p).2.draws = p.draws := by
  unfold watchRequest; dsimp only; repeat' split
  all_goals simp

@[simp] theorem watchRequest_posts {n₀ : Nfu} (index : Nat) (p : Part) (h : Posts n₀ p.nfu) : Posts n₀
  (watchRequest index p).2.nfu := by
  unfold watchRequest; dsimp only; repeat' split
  all_goals simp (maxDischargeDepth := 30) +contextual [h]

@[simp] theorem captureStart_frame (tuner count : Nat) (p : Part) :
    (captureStart tuner count p).2.rif = p.rif ∧ (captureStart tuner count p).2.tst = p.tst ∧ (captureStart
      tuner count p).2.zmx = p.zmx ∧ (captureStart tuner count p).2.rmx = p.rmx ∧ (captureStart tuner count
      p).2.tuc = p.tuc ∧ (captureStart tuner count p).2.anu = p.anu ∧ (captureStart tuner count p).2.rlu = p.rlu
      ∧ (captureStart tuner count p).2.clp = p.clp ∧ (captureStart tuner count p).2.nfu = p.nfu ∧ (captureStart
      tuner count p).2.pwc = p.pwc ∧ (captureStart tuner count p).2.draws = p.draws := by
  unfold captureStart; repeat' split
  all_goals simp

@[simp] theorem captureRead_frame (p : Part) :
    (captureRead p).part.rif = p.rif ∧ (captureRead p).part.tst = p.tst ∧ (captureRead p).part.zmx = p.zmx ∧
      (captureRead p).part.rmx = p.rmx ∧ (captureRead p).part.tuc = p.tuc ∧ (captureRead p).part.anu = p.anu ∧
      (captureRead p).part.rlu = p.rlu ∧ (captureRead p).part.clp = p.clp ∧ (captureRead p).part.nfu = p.nfu ∧
      (captureRead p).part.pwc = p.pwc ∧ (captureRead p).part.draws = p.draws := by simp [captureRead]

@[simp] theorem zonePowerRequest_frame (zone value : Nat) (p : Part) :
    (zonePowerRequest zone value p).2.rif = p.rif ∧ (zonePowerRequest zone value p).2.rmx = p.rmx ∧
      (zonePowerRequest zone value p).2.anu = p.anu ∧ (zonePowerRequest zone value p).2.pwc = p.pwc ∧
      (zonePowerRequest zone value p).2.draws = p.draws := by
  unfold zonePowerRequest onZone; repeat' split
  all_goals simp

@[simp] theorem zonePowerRequest_posts {n₀ : Nfu} (zone value : Nat) (p : Part) (h : Posts n₀ p.nfu) : Posts n₀
  (zonePowerRequest zone value p).2.nfu := by
  unfold zonePowerRequest onZone; repeat' split
  all_goals simp (maxDischargeDepth := 30) +contextual [h]

@[simp] theorem tuneRequest_frame (zone selector index freq : Nat) (p : Part) :
    (tuneRequest zone selector index freq p).2.rif = p.rif ∧ (tuneRequest zone selector index freq p).2.rmx =
      p.rmx ∧ (tuneRequest zone selector index freq p).2.anu = p.anu ∧ (tuneRequest zone selector index freq
      p).2.pwc = p.pwc ∧ (tuneRequest zone selector index freq p).2.draws = p.draws := by
  unfold tuneRequest onZone; dsimp only; repeat' split
  all_goals simp

@[simp] theorem tuneRequest_posts {n₀ : Nfu} (zone selector index freq : Nat) (p : Part) (h : Posts n₀ p.nfu) :
  Posts n₀ (tuneRequest zone selector index freq p).2.nfu := by
  unfold tuneRequest onZone; dsimp only; repeat' split
  all_goals simp (maxDischargeDepth := 30) +contextual [h]

@[simp] theorem seekRequest_frame (zone direction : Nat) (p : Part) :
    (seekRequest zone direction p).2.rif = p.rif ∧ (seekRequest zone direction p).2.rmx = p.rmx ∧ (seekRequest
      zone direction p).2.anu = p.anu ∧ (seekRequest zone direction p).2.clp = p.clp ∧ (seekRequest zone
      direction p).2.pwc = p.pwc ∧ (seekRequest zone direction p).2.draws = p.draws := by
  unfold seekRequest onZone; repeat' split
  all_goals simp

@[simp] theorem seekRequest_posts {n₀ : Nfu} (zone direction : Nat) (p : Part) (h : Posts n₀ p.nfu) : Posts n₀
  (seekRequest zone direction p).2.nfu := by
  unfold seekRequest onZone; repeat' split
  all_goals simp (maxDischargeDepth := 30) +contextual [h]

@[simp] theorem callAlertAnswer_frame (zones : Nat) (p : Part) :
    (callAlertAnswer zones p).part.rif = p.rif ∧ (callAlertAnswer zones p).part.rmx = p.rmx ∧ (callAlertAnswer
      zones p).part.rlu = p.rlu ∧ (callAlertAnswer zones p).part.pwc = p.pwc ∧ (callAlertAnswer zones
      p).part.draws = p.draws := by simp [callAlertAnswer]

@[simp] theorem callAlertAnswer_posts {n₀ : Nfu} (zones : Nat) (p : Part) (h : Posts n₀ p.nfu) : Posts n₀
  (callAlertAnswer zones p).part.nfu := by
  simp [callAlertAnswer, h]

@[simp] theorem bankSwapAnswer_frame (p : Part) :
    (bankSwapAnswer p).part.rif = p.rif ∧ (bankSwapAnswer p).part.anu = p.anu ∧ (bankSwapAnswer p).part.rlu =
      p.rlu ∧ (bankSwapAnswer p).part.pwc = p.pwc ∧ (bankSwapAnswer p).part.draws = p.draws := by simp [bankSwapAnswer]

@[simp] theorem bankSwapAnswer_posts {n₀ : Nfu} (p : Part) (h : Posts n₀ p.nfu) : Posts n₀ (bankSwapAnswer
  p).part.nfu := by
  simp [bankSwapAnswer, h]

@[simp] theorem resetRequest_frame (p : Part) :
    (resetRequest p).part.tst = p.tst ∧ (resetRequest p).part.zmx = p.zmx ∧ (resetRequest p).part.rmx = p.rmx ∧
      (resetRequest p).part.tuc = p.tuc ∧ (resetRequest p).part.stm = p.stm ∧ (resetRequest p).part.anu = p.anu
      ∧ (resetRequest p).part.rlu = p.rlu ∧ (resetRequest p).part.clp = p.clp ∧ (resetRequest p).part.nfu =
      p.nfu ∧ (resetRequest p).part.pwc = p.pwc ∧ (resetRequest p).part.draws = p.draws := by simp [resetRequest]

/-! ### Ring -/

@[simp] theorem holdReply_frame (kind : Nat) (h : ReqHeader) (res : Result) (body : List Byte) (p : Part) :
    (holdReply kind h res body p).tst = p.tst ∧ (holdReply kind h res body p).zmx = p.zmx ∧ (holdReply kind h
      res body p).rmx = p.rmx ∧ (holdReply kind h res body p).tuc = p.tuc ∧ (holdReply kind h res body p).stm =
      p.stm ∧ (holdReply kind h res body p).anu = p.anu ∧ (holdReply kind h res body p).rlu = p.rlu ∧ (holdReply
      kind h res body p).clp = p.clp ∧ (holdReply kind h res body p).nfu = p.nfu ∧ (holdReply kind h res body
      p).pwc = p.pwc ∧ (holdReply kind h res body p).draws = p.draws := by simp [holdReply]

@[simp] theorem ignoreBroadcast_frame (p : Part) :
    (ignoreBroadcast p).tst = p.tst ∧ (ignoreBroadcast p).zmx = p.zmx ∧ (ignoreBroadcast p).rmx = p.rmx ∧
      (ignoreBroadcast p).tuc = p.tuc ∧ (ignoreBroadcast p).stm = p.stm ∧ (ignoreBroadcast p).anu = p.anu ∧
      (ignoreBroadcast p).rlu = p.rlu ∧ (ignoreBroadcast p).clp = p.clp ∧ (ignoreBroadcast p).nfu = p.nfu ∧
      (ignoreBroadcast p).pwc = p.pwc ∧ (ignoreBroadcast p).draws = p.draws := by simp [ignoreBroadcast]

@[simp] theorem ringTimeBroadcast_frame (source time : Nat) (p : Part) :
    (ringTimeBroadcast source time p).tst = p.tst ∧ (ringTimeBroadcast source time p).zmx = p.zmx ∧
      (ringTimeBroadcast source time p).rmx = p.rmx ∧ (ringTimeBroadcast source time p).tuc = p.tuc ∧
      (ringTimeBroadcast source time p).stm = p.stm ∧ (ringTimeBroadcast source time p).anu = p.anu ∧
      (ringTimeBroadcast source time p).rlu = p.rlu ∧ (ringTimeBroadcast source time p).clp = p.clp ∧
      (ringTimeBroadcast source time p).nfu = p.nfu ∧ (ringTimeBroadcast source time p).pwc = p.pwc ∧
      (ringTimeBroadcast source time p).draws = p.draws := by simp [ringTimeBroadcast]

@[simp] theorem laneError_frame (p : Part) :
    (laneError p).tst = p.tst ∧ (laneError p).zmx = p.zmx ∧ (laneError p).rmx = p.rmx ∧ (laneError p).tuc =
      p.tuc ∧ (laneError p).stm = p.stm ∧ (laneError p).anu = p.anu ∧ (laneError p).rlu = p.rlu ∧ (laneError
      p).clp = p.clp ∧ (laneError p).pwc = p.pwc ∧ (laneError p).draws = p.draws := by simp [laneError]

@[simp] theorem laneError_posts {n₀ : Nfu} (p : Part) (h : Posts n₀ p.nfu) : Posts n₀ (laneError p).nfu := by
  simp [laneError, h]

@[simp] theorem abandonMessage_frame (p : Part) :
    (abandonMessage p).tst = p.tst ∧ (abandonMessage p).zmx = p.zmx ∧ (abandonMessage p).rmx = p.rmx ∧
      (abandonMessage p).tuc = p.tuc ∧ (abandonMessage p).stm = p.stm ∧ (abandonMessage p).anu = p.anu ∧
      (abandonMessage p).rlu = p.rlu ∧ (abandonMessage p).clp = p.clp ∧ (abandonMessage p).pwc = p.pwc ∧
      (abandonMessage p).draws = p.draws := by simp [abandonMessage]

@[simp] theorem abandonMessage_posts {n₀ : Nfu} (p : Part) (h : Posts n₀ p.nfu) : Posts n₀ (abandonMessage
  p).nfu := by
  simp [abandonMessage, h]

@[simp] theorem forward_frame (o : FrameOut) (p : Part) :
    (forward o p).tst = p.tst ∧ (forward o p).zmx = p.zmx ∧ (forward o p).rmx = p.rmx ∧ (forward o p).tuc =
      p.tuc ∧ (forward o p).stm = p.stm ∧ (forward o p).anu = p.anu ∧ (forward o p).rlu = p.rlu ∧ (forward o
      p).clp = p.clp ∧ (forward o p).nfu = p.nfu ∧ (forward o p).pwc = p.pwc ∧ (forward o p).draws = p.draws := by simp [forward]

@[simp] theorem readChannels_frame (f : Frame) (p : Part) :
    (readChannels f p).tst = p.tst ∧ (readChannels f p).zmx = p.zmx ∧ (readChannels f p).rmx = p.rmx ∧
      (readChannels f p).tuc = p.tuc ∧ (readChannels f p).stm = p.stm ∧ (readChannels f p).anu = p.anu ∧
      (readChannels f p).rlu = p.rlu ∧ (readChannels f p).clp = p.clp ∧ (readChannels f p).nfu = p.nfu ∧
      (readChannels f p).pwc = p.pwc ∧ (readChannels f p).draws = p.draws := by simp [readChannels]

@[simp] theorem endLoss_frame (p : Part) :
    (endLoss p).tst = p.tst ∧ (endLoss p).zmx = p.zmx ∧ (endLoss p).rmx = p.rmx ∧ (endLoss p).tuc = p.tuc ∧
      (endLoss p).stm = p.stm ∧ (endLoss p).anu = p.anu ∧ (endLoss p).rlu = p.rlu ∧ (endLoss p).clp = p.clp ∧
      (endLoss p).nfu = p.nfu ∧ (endLoss p).draws = p.draws := by simp [endLoss]

@[simp] theorem joinRing_frame (p : Part) :
    (joinRing p).tst = p.tst ∧ (joinRing p).zmx = p.zmx ∧ (joinRing p).rmx = p.rmx ∧ (joinRing p).tuc = p.tuc ∧
      (joinRing p).stm = p.stm ∧ (joinRing p).anu = p.anu ∧ (joinRing p).rlu = p.rlu ∧ (joinRing p).clp = p.clp
      ∧ (joinRing p).nfu = p.nfu ∧ (joinRing p).pwc = p.pwc ∧ (joinRing p).draws = p.draws := by simp [joinRing]

@[simp] theorem ringJoin_frame (p : Part) :
    (ringJoin p).tst = p.tst ∧ (ringJoin p).zmx = p.zmx ∧ (ringJoin p).rmx = p.rmx ∧ (ringJoin p).tuc = p.tuc ∧
      (ringJoin p).stm = p.stm ∧ (ringJoin p).anu = p.anu ∧ (ringJoin p).rlu = p.rlu ∧ (ringJoin p).clp = p.clp
      ∧ (ringJoin p).nfu = p.nfu ∧ (ringJoin p).pwc = p.pwc ∧ (ringJoin p).draws = p.draws := by simp [ringJoin]

@[simp] theorem joinGapExpiry_frame (p : Part) :
    (joinGapExpiry p).tst = p.tst ∧ (joinGapExpiry p).zmx = p.zmx ∧ (joinGapExpiry p).rmx = p.rmx ∧
      (joinGapExpiry p).tuc = p.tuc ∧ (joinGapExpiry p).stm = p.stm ∧ (joinGapExpiry p).anu = p.anu ∧
      (joinGapExpiry p).rlu = p.rlu ∧ (joinGapExpiry p).clp = p.clp ∧ (joinGapExpiry p).nfu = p.nfu ∧
      (joinGapExpiry p).pwc = p.pwc ∧ (joinGapExpiry p).draws = p.draws := by simp [joinGapExpiry]

end Sys2Proof.Machine
end

