-- ==== Sys2Proof/Laws/State.lean ====
section
/-! SUPPORT. The small lemmas of the state: reading one place of a map after one place of it is written, each record
of the part after it or another is replaced, and the state after a change of its part. -/

namespace Sys2Proof

/-! ### PerZone -/

section
variable {α : Type} (m : PerZone α) (x y : ZoneId) (v : α)

@[simp] theorem PerZone.get_set_self : (m.set x v).get x = v := by cases x <;> rfl

@[simp] theorem PerZone.get_set_of_ne (h : y ≠ x) : (m.set x v).get y = m.get y := by
  cases x <;> cases y <;> first | rfl | exact absurd rfl h

theorem PerZone.get_set : (m.set x v).get y = if y = x then v else m.get y := by
  cases x <;> cases y <;> rfl

@[simp] theorem PerZone.set_get : m.set x (m.get x) = m := by cases x <;> rfl

@[simp] theorem PerZone.get_of (f : ZoneId → α) : (PerZone.of f).get x = f x := by cases x <;> rfl

@[simp] theorem PerZone.of_get : PerZone.of m.get = m := rfl

theorem PerZone.ext_get {m n : PerZone α} (h : ∀ x, m.get x = n.get x) : m = n := by
  cases m; cases n
  simp only [PerZone.mk.injEq]
  exact ⟨h .front, h .rearCabin, h .hpLeft, h .hpRight, h .cargo, h .driver⟩

end

/-! ### PerTuner -/

section
variable {α : Type} (m : PerTuner α) (x y : TunerId) (v : α)

@[simp] theorem PerTuner.get_set_self : (m.set x v).get x = v := by cases x <;> rfl

@[simp] theorem PerTuner.get_set_of_ne (h : y ≠ x) : (m.set x v).get y = m.get y := by
  cases x <;> cases y <;> first | rfl | exact absurd rfl h

theorem PerTuner.get_set : (m.set x v).get y = if y = x then v else m.get y := by
  cases x <;> cases y <;> rfl

@[simp] theorem PerTuner.set_get : m.set x (m.get x) = m := by cases x <;> rfl

@[simp] theorem PerTuner.get_of (f : TunerId → α) : (PerTuner.of f).get x = f x := by cases x <;> rfl

@[simp] theorem PerTuner.of_get : PerTuner.of m.get = m := rfl

theorem PerTuner.ext_get {m n : PerTuner α} (h : ∀ x, m.get x = n.get x) : m = n := by
  cases m; cases n
  simp only [PerTuner.mk.injEq]
  exact ⟨h .a, h .b⟩

end

/-! ### PerSeat -/

section
variable {α : Type} (m : PerSeat α) (x y : Seat) (v : α)

@[simp] theorem PerSeat.get_set_self : (m.set x v).get x = v := by cases x <;> rfl

@[simp] theorem PerSeat.get_set_of_ne (h : y ≠ x) : (m.set x v).get y = m.get y := by
  cases x <;> cases y <;> first | rfl | exact absurd rfl h

theorem PerSeat.get_set : (m.set x v).get y = if y = x then v else m.get y := by
  cases x <;> cases y <;> rfl

@[simp] theorem PerSeat.set_get : m.set x (m.get x) = m := by cases x <;> rfl

@[simp] theorem PerSeat.get_of (f : Seat → α) : (PerSeat.of f).get x = f x := by cases x <;> rfl

@[simp] theorem PerSeat.of_get : PerSeat.of m.get = m := rfl

theorem PerSeat.ext_get {m n : PerSeat α} (h : ∀ x, m.get x = n.get x) : m = n := by
  cases m; cases n
  simp only [PerSeat.mk.injEq]
  exact ⟨h .driver, h .passenger, h .rearLeft, h .rearRight⟩

end

/-! ### PerRear -/

section
variable {α : Type} (m : PerRear α) (x y : RearSeat) (v : α)

@[simp] theorem PerRear.get_set_self : (m.set x v).get x = v := by cases x <;> rfl

@[simp] theorem PerRear.get_set_of_ne (h : y ≠ x) : (m.set x v).get y = m.get y := by
  cases x <;> cases y <;> first | rfl | exact absurd rfl h

theorem PerRear.get_set : (m.set x v).get y = if y = x then v else m.get y := by
  cases x <;> cases y <;> rfl

@[simp] theorem PerRear.set_get : m.set x (m.get x) = m := by cases x <;> rfl

theorem PerRear.ext_get {m n : PerRear α} (h : ∀ x, m.get x = n.get x) : m = n := by
  cases m; cases n
  simp only [PerRear.mk.injEq]
  exact ⟨h .left, h .right⟩

end

namespace Machine

/-! ### The records of the part -/

section
variable (p : Part) (s : State) (q : Part)

@[simp] theorem Part.zone_setZone_self (x : ZoneId) (v : Zone) : (p.setZone x v).zone x = v := PerZone.get_set_self _ _ _

@[simp] theorem Part.zone_setZone_of_ne (x y : ZoneId) (v : Zone) (h : y ≠ x) : (p.setZone x v).zone y = p.zone y :=
  PerZone.get_set_of_ne _ _ _ _ h

@[simp] theorem Part.zone_setTuner (x : ZoneId) (y : TunerId) (v : Tuner) : (p.setTuner y v).zone x = p.zone x := rfl

@[simp] theorem Part.zone_setFollow (x : ZoneId) (y : TunerId) (v : Follow) : (p.setFollow y v).zone x = p.zone x := rfl

@[simp] theorem Part.zone_setSeat (x : ZoneId) (y : Seat) (v : SeatRt) : (p.setSeat y v).zone x = p.zone x := rfl

@[simp] theorem Part.zone_post (x : ZoneId) (k : NoticeKind) (i : Nat) (w : Option Nat) : (p.post k i w).zone x = p.zone x := rfl

@[simp] theorem Part.zone_fault (x : ZoneId) (k : FaultKind) (i e : Option Nat) : (p.fault k i e).zone x = p.zone x := rfl

@[simp] theorem Part.zone_queueReport (x : ZoneId) (r : RearSeat) (e : Option RearResult) :
    (p.queueReport r e).zone x = p.zone x := rfl

@[simp] theorem Part.setZone_same (x : ZoneId) : p.setZone x (p.zone x) = p := by simp [Part.setZone, Part.zone]

@[simp] theorem Part.tuner_setTuner_self (x : TunerId) (v : Tuner) : (p.setTuner x v).tuner x = v := PerTuner.get_set_self _ _ _

@[simp] theorem Part.tuner_setTuner_of_ne (x y : TunerId) (v : Tuner) (h : y ≠ x) : (p.setTuner x v).tuner y = p.tuner y :=
  PerTuner.get_set_of_ne _ _ _ _ h

@[simp] theorem Part.tuner_setZone (x : TunerId) (y : ZoneId) (v : Zone) : (p.setZone y v).tuner x = p.tuner x := rfl

@[simp] theorem Part.tuner_setFollow (x : TunerId) (y : TunerId) (v : Follow) : (p.setFollow y v).tuner x = p.tuner x := rfl

@[simp] theorem Part.tuner_setSeat (x : TunerId) (y : Seat) (v : SeatRt) : (p.setSeat y v).tuner x = p.tuner x := rfl

@[simp] theorem Part.tuner_post (x : TunerId) (k : NoticeKind) (i : Nat) (w : Option Nat) : (p.post k i w).tuner x = p.tuner x := rfl

@[simp] theorem Part.tuner_fault (x : TunerId) (k : FaultKind) (i e : Option Nat) : (p.fault k i e).tuner x = p.tuner x := rfl

@[simp] theorem Part.tuner_queueReport (x : TunerId) (r : RearSeat) (e : Option RearResult) :
    (p.queueReport r e).tuner x = p.tuner x := rfl

@[simp] theorem Part.setTuner_same (x : TunerId) : p.setTuner x (p.tuner x) = p := by simp [Part.setTuner, Part.tuner]

@[simp] theorem Part.follow_setFollow_self (x : TunerId) (v : Follow) : (p.setFollow x v).follow x = v := PerTuner.get_set_self _ _ _

@[simp] theorem Part.follow_setFollow_of_ne (x y : TunerId) (v : Follow) (h : y ≠ x) : (p.setFollow x v).follow y = p.follow y :=
  PerTuner.get_set_of_ne _ _ _ _ h

@[simp] theorem Part.follow_setZone (x : TunerId) (y : ZoneId) (v : Zone) : (p.setZone y v).follow x = p.follow x := rfl

@[simp] theorem Part.follow_setTuner (x : TunerId) (y : TunerId) (v : Tuner) : (p.setTuner y v).follow x = p.follow x := rfl

@[simp] theorem Part.follow_setSeat (x : TunerId) (y : Seat) (v : SeatRt) : (p.setSeat y v).follow x = p.follow x := rfl

@[simp] theorem Part.follow_post (x : TunerId) (k : NoticeKind) (i : Nat) (w : Option Nat) : (p.post k i w).follow x = p.follow x := rfl

@[simp] theorem Part.follow_fault (x : TunerId) (k : FaultKind) (i e : Option Nat) : (p.fault k i e).follow x = p.follow x := rfl

@[simp] theorem Part.follow_queueReport (x : TunerId) (r : RearSeat) (e : Option RearResult) :
    (p.queueReport r e).follow x = p.follow x := rfl

@[simp] theorem Part.setFollow_same (x : TunerId) : p.setFollow x (p.follow x) = p := by simp [Part.setFollow, Part.follow]

@[simp] theorem Part.seat_setSeat_self (x : Seat) (v : SeatRt) : (p.setSeat x v).seat x = v := PerSeat.get_set_self _ _ _

@[simp] theorem Part.seat_setSeat_of_ne (x y : Seat) (v : SeatRt) (h : y ≠ x) : (p.setSeat x v).seat y = p.seat y :=
  PerSeat.get_set_of_ne _ _ _ _ h

@[simp] theorem Part.seat_setZone (x : Seat) (y : ZoneId) (v : Zone) : (p.setZone y v).seat x = p.seat x := rfl

@[simp] theorem Part.seat_setTuner (x : Seat) (y : TunerId) (v : Tuner) : (p.setTuner y v).seat x = p.seat x := rfl

@[simp] theorem Part.seat_setFollow (x : Seat) (y : TunerId) (v : Follow) : (p.setFollow y v).seat x = p.seat x := rfl

@[simp] theorem Part.seat_post (x : Seat) (k : NoticeKind) (i : Nat) (w : Option Nat) : (p.post k i w).seat x = p.seat x := rfl

@[simp] theorem Part.seat_fault (x : Seat) (k : FaultKind) (i e : Option Nat) : (p.fault k i e).seat x = p.seat x := rfl

@[simp] theorem Part.seat_queueReport (x : Seat) (r : RearSeat) (e : Option RearResult) :
    (p.queueReport r e).seat x = p.seat x := rfl

@[simp] theorem Part.setSeat_same (x : Seat) : p.setSeat x (p.seat x) = p := by simp [Part.setSeat, Part.seat]

@[simp] theorem Part.nfu_post (k : NoticeKind) (i : Nat) (w : Option Nat) : (p.post k i w).nfu = p.nfu.post k i w := rfl

@[simp] theorem Part.nfu_fault (k : FaultKind) (i e : Option Nat) :
    (p.fault k i e).nfu = p.nfu.fault k i e p.rif.ringTime := rfl

/-! ### The state -/

@[simp] theorem run_eq (f : Part → Part) : run f s = .next { s with part := f s.part } := rfl

end

end Machine

end Sys2Proof
end

