-- ==== Sys2Proof/Laws/Ops.lean ====
section
/-! SUPPORT. What each shared operation can do: the arithmetic's ranges, posting a notice, reporting a fault, checks of
table memory, the handling of a request, and the Station Manager at rest. -/

namespace Sys2Proof.Machine

/-! ### Arithmetic -/

theorem codeSum_le (l : List Int) : codeSum l ≤ 384 := by
  unfold codeSum clampInt; omega

theorem ramp_eq_target {up down t : Nat} : ramp up down t t = t := by simp [ramp]

theorem ramp_between (up down t a : Nat) :
    (a ≤ t → a ≤ ramp up down t a ∧ ramp up down t a ≤ t) ∧ (t ≤ a → t ≤ ramp up down t a ∧ ramp up down t a ≤ a) := by
  unfold ramp; split <;> (try split) <;> omega

theorem saturate_range (x : Int) : sampleMin ≤ saturate x ∧ saturate x ≤ sampleMax := by
  change (-8388608 : Int) ≤ max (-8388608) (min 8388607 x) ∧ max (-8388608) (min 8388607 x) ≤ 8388607
  omega

theorem saturate_eq_self {x : Int} (h : sampleMin ≤ x ∧ x ≤ sampleMax) : saturate x = x := by
  change max (-8388608) (min 8388607 x) = x
  change (-8388608 : Int) ≤ x ∧ x ≤ 8388607 at h
  omega

theorem clips_iff (x : Int) : clips x = true ↔ saturate x ≠ x := by
  have e : saturate x = max (-8388608) (min 8388607 x) := rfl
  rw [e, clips, Bool.or_eq_true, decide_eq_true_eq, decide_eq_true_eq]
  change (x < -8388608 ∨ (8388607 : Int) < x) ↔ ¬(max (-8388608) (min 8388607 x) : Int) = x
  omega

/-! ### Notices and faults -/

/-- Posting updates the notice of the kind and subject, appends one, or sets the overflow flag. -/
theorem Nfu.post_cases (n : Nfu) (k : NoticeKind) (i : Nat) (v : Option Nat) :
    (n.post k i v = { n with notices := n.notices.map (updateNotice k i v) } ∧ n.notices.any (fun m => m.is k i) = true)
      ∨ (n.post k i v = { n with notices := n.notices ++ [{ kind := k, subject := i, value := v }] }
          ∧ n.notices.any (fun m => m.is k i) = false ∧ n.notices.length < 32)
      ∨ (n.post k i v = { n with overflow := true } ∧ n.notices.any (fun m => m.is k i) = false
          ∧ 32 ≤ n.notices.length) := by
  unfold Nfu.post
  split
  · exact .inl ⟨rfl, ‹_›⟩
  · rename_i h
    split
    · exact .inr (.inl ⟨rfl, Bool.eq_false_iff.mpr h, ‹_›⟩)
    · exact .inr (.inr ⟨rfl, Bool.eq_false_iff.mpr h, by omega⟩)

/-- Posting touches the queue and the overflow flag alone. -/
@[simp] theorem Nfu.post_frame (n : Nfu) (k : NoticeKind) (i : Nat) (v : Option Nat) :
    (n.post k i v).level = n.level ∧ (n.post k i v).record = n.record ∧ (n.post k i v).counts = n.counts := by
  unfold Nfu.post; split <;> (try split) <;> simp

/-- A fault report leaves the level. -/
@[simp] theorem Nfu.fault_level (n : Nfu) (k : FaultKind) (i e : Option Nat) (t : Nat) :
    (n.fault k i e t).level = n.level := by
  unfold Nfu.fault; dsimp only; split <;> (try split) <;> simp

/-! ### Checks of table memory -/

/-- A check that meets no error changes nothing; otherwise the error no longer stands, and the unit was poisoned
already, is poisoned with its owner told and the error reported, or is corrected with a report. -/
theorem checkWith_cases (tell : Part → Part) (u : MemUnit) (p : Part) :
    checkWith tell u p = p
      ∨ ∃ q, q = { p with tst := { p.tst with latent := p.tst.latent.filter fun y => y.unit != u } }
          ∧ (checkWith tell u p = q
            ∨ checkWith tell u p
                = (tell { q with tst := { q.tst with poisoned := q.tst.poisoned ++ [u] } }).fault .uncorrectable
                    (some u.table) (some u.entry)
            ∨ checkWith tell u p = q.fault .corrected (some u.table) (some u.entry)) := by
  unfold checkWith
  split
  · exact .inl rfl
  · refine .inr ⟨_, rfl, ?_⟩
    dsimp only
    repeat' split
    · exact .inl rfl
    · exact .inr (.inl rfl)
    · exact .inr (.inr rfl)

@[simp] theorem checkWith_clean {p : Part} (tell : Part → Part) (u : MemUnit) (h : p.tst.latent = []) :
    checkWith tell u p = p := by
  simp [checkWith, h]

@[simp] theorem checkUnit_clean {p : Part} (u : MemUnit) (h : p.tst.latent = []) : checkUnit u p = p :=
  checkWith_clean _ u h

@[simp] theorem checkPlain_clean {p : Part} (u : MemUnit) (h : p.tst.latent = []) : checkPlain u p = p :=
  checkWith_clean _ u h

@[simp] theorem checkStation_clean {p : Part} (i : Nat) (h : p.tst.latent = []) : checkStation i p = p :=
  checkWith_clean _ _ h

@[simp] theorem readHolder_clean {p : Part} (c : Chan) (h : p.tst.latent = []) : readHolder c p = p := by
  unfold readHolder; split <;> simp [h]

@[simp] theorem readFollowed_clean {p : Part} (t : TunerId) (h : p.tst.latent = []) : readFollowed t p = p := by
  unfold readFollowed; split <;> simp [h]

@[simp] theorem readBulletin_clean {p : Part} (h : p.tst.latent = []) : readBulletin p = p := by
  unfold readBulletin; split <;> simp [h]

@[simp] theorem readFront_clean {p : Part} (h : p.tst.latent = []) : readFront p = p := by
  unfold readFront; split <;> simp [h]

@[simp] theorem readWatched_clean {p : Part} (h : p.tst.latent = []) : readWatched p = p := by
  unfold readWatched; split <;> simp [h]

@[simp] theorem readKept_clean {p : Part} (h : p.tst.latent = []) : readKept p = p := by
  unfold readKept; dsimp only; repeat' split
  all_goals simp_all

@[simp] theorem readAdmission_clean {p : Part} (r : RearSeat) (h : p.tst.latent = []) : readAdmission r p = p := by
  simp [readAdmission, h, noteReports]

@[simp] theorem checkEntry_clean {p : Part} (table entry : Nat) (h : p.tst.latent = []) :
    checkEntry table entry p = p := by
  unfold checkEntry
  generalize partsOf table = l
  induction l with
  | nil => rfl
  | cons k l ih => rw [List.foldl_cons, checkUnit_clean _ h]; exact ih

@[simp] theorem checkUpsets_clean {p : Part} (read : Upset → Bool) (h : p.tst.latent = []) :
    checkUpsets read p = p := by
  simp [checkUpsets, h]

@[simp] theorem ownerReads_clean {p : Part} (l : List Nat) (h : p.tst.latent = []) : ownerReads l p = p :=
  checkUpsets_clean _ h

@[simp] theorem readOthers_clean {p : Part} (table i : Nat) (h : p.tst.latent = []) : readOthers table i p = p :=
  checkUpsets_clean _ h

@[simp] theorem correctReads_clean {p : Part} (table : Nat) (h : p.tst.latent = []) : correctReads table p = p :=
  checkUpsets_clean _ h

@[simp] theorem readReplaced_clean {p : Part} (table i : Nat) (h : p.tst.latent = []) : readReplaced table i p = p := by
  simp [readReplaced, h, noteReports]

@[simp] theorem setUplink_clean {p : Part} (h : p.tst.latent = []) : setUplink p = recodeUplink p := by
  unfold setUplink; split <;> simp [h]

@[simp] theorem readForReport_clean {p : Part} (r : RearSeat) (h : p.tst.latent = []) : readForReport r p = p := by
  unfold readForReport; dsimp only; split <;> simp [h]

@[simp] theorem readVisit_clean {p : Part} (t : TunerId) (h : p.tst.latent = []) : readVisit t p = (nextVisit t p, p) := by
  unfold readVisit findVisit; split <;> simp [*]

/-- With no error standing, validation gives the first entry that fails, in index order. -/
theorem validateFrom_clean (k : BankId) (l : List Nat) {p : Part} (h : p.tst.latent = []) :
    validateFrom k l p = (l.find? fun i => entryFails p k i ((p.bank k).getD i {}), p) := by
  induction l with
  | nil => rfl
  | cons i l ih =>
    unfold validateFrom
    simp only [checkEntry_clean _ _ h, ih, List.find?_cons]
    split <;> simp_all

@[simp] theorem settleRead_same (p : Part) : settleRead p p = p := by simp [settleRead, undisturbed]

@[simp] theorem poisonPending_clean {p : Part} (table entry : Nat) (h : p.tst.latent = []) :
    p.poisonPending table entry = false := by
  simp [Part.poisonPending, h]

/-! ### Requests -/

/-- A request that has completed counts an overrun, repeats the saved reply, is refused by a check, or is handed to
its owner. -/
theorem takeRequest_cases (kind : Nat) (h : ReqHeader) (v : Option Result) (owner : Part → Answer) (p : Part) :
    (p.rif.tx.isSome = true
        ∧ takeRequest kind h v owner p = { p with rif := { p.rif with overruns := count16 p.rif.overruns 1 } })
      ∨ (p.rif.tx = none ∧ ∃ x, repeatOf p kind h = some x
          ∧ takeRequest kind h v owner p = holdReply kind h x.result x.body p)
      ∨ (p.rif.tx = none ∧ repeatOf p kind h = none ∧ ∃ r, v = some r
          ∧ takeRequest kind h v owner p = holdReply kind h r [] (saveReply kind h { result := r, part := p }))
      ∨ (p.rif.tx = none ∧ repeatOf p kind h = none ∧ v = none
          ∧ takeRequest kind h v owner p
            = holdReply kind h (owner p).result (owner p).body (saveReply kind h (owner p))) := by
  unfold takeRequest
  split
  · exact .inl ⟨‹_›, rfl⟩
  · rename_i h0
    have ht : p.rif.tx = none := by simpa using h0
    split
    · rename_i x hx; exact .inr (.inl ⟨ht, x, hx, rfl⟩)
    · rename_i hx
      cases v with
      | some r => exact .inr (.inr (.inl ⟨ht, hx, r, rfl, rfl⟩))
      | none => exact .inr (.inr (.inr ⟨ht, hx, rfl, rfl⟩))

/-- A request that the part takes is answered as its owner decides. -/
theorem ringRequest_taken {kind len : Nat} {h : ReqHeader} {clear : Bool} {owner : Part → Answer} {p : Part}
    (ht : p.takes kind h = true) (hl : ringChecks kind len 0 clear = none) :
    ringRequest kind len h clear owner p = answered kind h (owner p).result (owner p).body (owner p).part := by
  simp only [Part.takes, Bool.and_eq_true, bne_iff_ne, ne_eq, beq_iff_eq, Option.isNone_iff_eq_none] at ht
  obtain ⟨⟨⟨⟨h1, h2⟩, h3⟩, h4⟩, h5⟩ := ht
  unfold ringRequest takeRequest
  simp [h1, h2, h3, h4, h5, hl, saveReply, holdReply, answered, replyBytes, statusBytes]

/-! ### The Station Manager at rest -/

/-- No tuner becomes IDLE where nothing changes. -/
theorem becameIdle_self (p : Part) : becameIdle p p = false := by
  simp only [becameIdle, List.any_eq_false, Bool.and_eq_true, not_and, Bool.not_eq_true]
  intro t _ h
  simp_all

/-- With no watch to judge and no cycle, nor a claim for them, claims stay as they are. -/
theorem keepClaims_idle {p : Part} (hr : readWatched p = p) (hw : watchCondition p = .inactive)
    (hs : p.stm.watchState = .inactive) (h1 : p.holding .watch = none) (h2 : p.holding .background = none)
    (h3 : p.radioCfg.background = false) (ask : Bool) : keepClaims ask p = p := by
  have hd : dropWatch p = p := by simp [dropWatch, h1]
  have hj : judgeWatch p = p := by
    have hp : ({ p with stm := { p.stm with watchState := .inactive } } : Part) = p := by rw [← hs]
    simp only [judgeWatch, hw, hs]
    exact hp
  have hk (ask : Bool) : keepWatch ask p = p := by
    have hu : (WatchState.inactive == WatchState.uncovered) = false := rfl
    simp only [keepWatch, hr, hd, hj, hs, hu, Bool.false_and, Bool.false_eq_true, if_false]
  have hb : keepBackground p = p := by simp [keepBackground, h2, h3]
  simp [keepClaims, keepRounds, hk, hb, undisturbed, becameIdle_self]

/-- In calm, and where the reads meet no error, the Station Manager stops the low-quality timers of tuners that are not
eligible, and no more. -/
theorem stmSettle_calm {before p : Part} (h : p.calm = true) (hk : readKept p = p) :
    stmSettle before p = stopTimer .b (stopTimer .a p) := by
  simp only [Part.calm, Bool.and_eq_true, bne_iff_ne, ne_eq, beq_iff_eq, Option.isNone_iff_eq_none,
    Bool.not_eq_true'] at h
  obtain ⟨⟨⟨⟨⟨h1, h2⟩, h3⟩, h4⟩, h5⟩, h6⟩ := h
  have hc := keepClaims_idle (p := p) (by simp [readWatched, h2]) (by simp [watchCondition, h2]) h3 h4 h5 h6
  simp [stmSettle, hk, h1, hc]

/-- A timer that does not run is not stopped. -/
theorem stopTimer_idle {t : TunerId} {p : Part} (h : (p.follow t).lowTimer = false) : stopTimer t p = p := by
  unfold stopTimer
  split
  · rfl
  · have : ({ p.follow t with lowTimer := false } : Follow) = p.follow t := by rw [← h]
    rw [this, Part.setFollow_same]

/-- At rest the Station Manager changes nothing. -/
theorem stmSettle_quiet {before p : Part} (h : p.quiet = true) : stmSettle before p = p := by
  have hk : readKept p = p := by simp [readKept, h]
  simp only [Part.quiet, Bool.and_eq_true, Bool.not_eq_true'] at h
  rw [stmSettle_calm h.1.1 hk, stopTimer_idle h.1.2, stopTimer_idle h.2]

/-- Nor does it where nothing is to be brought up to date and no error stands. -/
theorem stmSettle_still {before p : Part} (h : p.still = true) (hl : p.tst.latent = []) : stmSettle before p = p := by
  simp only [Part.still, Bool.and_eq_true, Bool.or_eq_true, bne_iff_ne, ne_eq, beq_iff_eq, Option.isNone_iff_eq_none,
    Bool.not_eq_true'] at h
  obtain ⟨⟨⟨⟨⟨⟨⟨h1, h2⟩, h3⟩, h4⟩, h5⟩, h6⟩, h7⟩, h8⟩ := h
  have hw : watchCondition p = .inactive := by
    unfold watchCondition
    rcases h2 with h2 | h2
    · simp [h2]
    · split
      · rfl
      · simp [h2]
  have hb : (p.stm.bulletin.latch == .prompted && !p.radioCfg.bulletins) = false := by
    rcases h1 with h1 | h1 <;> simp [h1]
  simp [stmSettle, hl, hb, keepClaims_idle (readWatched_clean hl) hw h3 h4 h5 h6, stopTimer_idle, h7, h8]

end Sys2Proof.Machine
end

