-- ==== Sys2Proof/Laws/Effects.lean ====
section
/-! SUPPORT. What the shared operations on claims, prompts, calls and seeks leave, once each: which fields they change
and to what, where nothing stands in the way of the Station Manager's settling. -/

namespace Sys2Proof.Machine

/-! ### Claims -/

/-- A link command changes the record of the link alone: no tuner's claims or state. -/
theorem issue_only (t : TunerId) (cmd : LinkCmd) (p : Part) :
    ∃ tu, issue t cmd p = { p with tuc := tu }
      ∧ ∀ u, (tu.tuners.get u).claims = (p.tuner u).claims ∧ (tu.tuners.get u).state = (p.tuner u).state := by
  unfold issue
  split
  · exact ⟨p.tuc, rfl, fun _ => ⟨rfl, rfl⟩⟩
  · split
    · refine ⟨_, rfl, fun u => ?_⟩
      simp only [PerTuner.get_set]; split
      · subst_vars; exact ⟨rfl, rfl⟩
      · exact ⟨rfl, rfl⟩
    · refine ⟨_, rfl, fun u => ?_⟩
      unfold startLink; split <;> exact ⟨rfl, rfl⟩

/-- A tuner that goes IDLE keeps its claims; only tuners, the link and its following change. -/
theorem idleTuner_only (t : TunerId) (p : Part) :
    ∃ tu f, idleTuner t p = { p with tuc := tu, stm := { p.stm with follow := f } }
      ∧ (∀ u, (tu.tuners.get u).claims = (p.tuner u).claims
          ∧ (tu.tuners.get u).state = if u = t then .idle else (p.tuner u).state)
      ∧ ∀ u, f.get u = p.follow u ∨ (f.get u).lowTimer = false := by
  unfold idleTuner
  obtain ⟨tu, h1, h2⟩ := issue_only t .standby
    ((p.setTuner t { p.tuner t with state := .idle, settle := false, adapter := flush (p.tuner t).adapter,
                                    acked := false, done := false, note := none, seek := none }).setFollow t
                                        (p.follow t).ended)
  refine ⟨tu, p.stm.follow.set t (p.follow t).ended, h1, fun u => ?_, fun u => ?_⟩
  · rw [(h2 u).1, (h2 u).2]; simp only [Part.tuner_setFollow]
    by_cases h : u = t
    · subst h; simp
    · simp [h]
  · simp only [PerTuner.get_set]; split
    · right; rfl
    · left; rfl

/-- A tuner without claims goes IDLE, but for one in FAULT. -/
theorem idleIfFree_only (t : TunerId) (p : Part) :
    ∃ tu f, idleIfFree t p = { p with tuc := tu, stm := { p.stm with follow := f } }
      ∧ (∀ u, (tu.tuners.get u).claims = (p.tuner u).claims
          ∧ (tu.tuners.get u).state = if u = t ∧ (p.tuner t).claims = [] ∧ (p.tuner t).state ≠ .fault then .idle
              else (p.tuner u).state)
      ∧ ∀ u, f.get u = p.follow u ∨ (f.get u).lowTimer = false := by
  unfold idleIfFree; split
  · rename_i h
    simp only [Bool.and_eq_true, List.isEmpty_iff, bne_iff_ne, ne_eq] at h
    obtain ⟨tu, f, e, c, g⟩ := idleTuner_only t p
    refine ⟨tu, f, e, fun u => ⟨(c u).1, ?_⟩, g⟩
    rw [(c u).2]; simp [h.1.1, h.2]
  · rename_i h
    simp only [Bool.and_eq_true, List.isEmpty_iff, bne_iff_ne, ne_eq] at h
    refine ⟨p.tuc, p.stm.follow, rfl, fun u => ⟨rfl, ?_⟩, fun _ => .inl rfl⟩
    split
    · rename_i hu
      obtain ⟨rfl, h1, h2⟩ := hu
      by_cases hi : (p.tuner u).state = .idle
      · exact hi
      · exact absurd ⟨⟨h1, hi⟩, h2⟩ h
    · rfl

/-- A claimant's claims leave one tuner's list. -/
theorem dropClaim_only (w : Claimant) (t : TunerId) (p : Part) :
    ∃ tu, dropClaim w t p = { p with tuc := tu }
      ∧ ∀ u, (tu.tuners.get u).claims
          = (if u = t then (p.tuner t).claims.filter (fun c => c.who != w) else (p.tuner u).claims)
        ∧ (tu.tuners.get u).state = (p.tuner u).state := by
  refine ⟨_, rfl, fun u => ?_⟩
  simp only [PerTuner.get_set]; split
  · subst_vars; exact ⟨rfl, rfl⟩
  · exact ⟨rfl, rfl⟩

/-- Giving up a claim takes it off the lists, and the tuners that are left free go IDLE. -/
theorem giveUp_only (w : Claimant) (p : Part) :
    ∃ tu f, giveUp w p = { p with tuc := tu, stm := { p.stm with follow := f } }
      ∧ (∀ u, (tu.tuners.get u).claims = (p.tuner u).claims.filter (fun c => c.who != w)
          ∧ (tu.tuners.get u).state
            = if (p.tuner u).claims.filter (fun c => c.who != w) = [] ∧ (p.tuner u).state ≠ .fault then .idle
              else (p.tuner u).state)
      ∧ ∀ u, f.get u = p.follow u ∨ (f.get u).lowTimer = false := by
  obtain ⟨t1, e1, c1⟩ := dropClaim_only w .a p
  obtain ⟨t2, e2, c2⟩ := dropClaim_only w .b (dropClaim w .a p)
  obtain ⟨t3, f3, e3, c3, g3⟩ := idleIfFree_only .a (dropClaim w .b (dropClaim w .a p))
  obtain ⟨t4, f4, e4, c4, g4⟩ := idleIfFree_only .b (idleIfFree .a (dropClaim w .b (dropClaim w .a p)))
  have d : ∀ u, (t2.tuners.get u).claims = (p.tuner u).claims.filter (fun c => c.who != w)
      ∧ (t2.tuners.get u).state = (p.tuner u).state := by
    intro u
    have h := c2 u
    rw [e1] at h
    change _ = (if u = .b then (t1.tuners.get .b).claims.filter _ else (t1.tuners.get u).claims) ∧ _ =
        (t1.tuners.get u).state at h
    rw [h.1, h.2, (c1 u).1, (c1 u).2, (c1 .b).1]
    cases u <;> simp
  refine ⟨t4, f4, by unfold giveUp; rw [e4, e3, e2, e1], fun u => ?_, fun u => ?_⟩
  · have h4 := c4 u
    rw [e3] at h4
    change (_ = (t3.tuners.get u).claims) ∧ _ =
        (if u = .b ∧ (t3.tuners.get .b).claims = [] ∧ (t3.tuners.get .b).state ≠ .fault
      then .idle else (t3.tuners.get u).state) at h4
    have h3 : ∀ u, (t3.tuners.get u).claims = (t2.tuners.get u).claims ∧ (t3.tuners.get u).state
        = if u = .a ∧ (t2.tuners.get .a).claims = [] ∧ (t2.tuners.get .a).state ≠ .fault then .idle else
            (t2.tuners.get u).state := by
      intro u; have := c3 u; rw [e2] at this; exact this
    rw [h4.1, h4.2, (h3 u).1, (h3 u).2, (h3 .b).1, (h3 .b).2, (d u).1, (d u).2, (d .a).1, (d .b).1, (d .a).2,
        (d .b).2]
    cases u <;> simp
  · rcases g4 u with h | h
    · rw [h, e3]; show f3.get u = _ ∨ _
      rcases g3 u with h' | h'
      · left; rw [h', e2, e1]; rfl
      · right; exact h'
    · exact .inr h

/-- The withdrawal of a claim that no zone listens by, while no tuner switches. -/
theorem withdraw_only {w : Claimant} {p : Part} (hw : w.zone? = none) (ha : p.switching .a = false)
    (hb : p.switching .b = false) : withdraw w p = giveUp w p := by
  unfold withdraw giveUp
  rw [hw]
  dsimp only
  have h : ∀ (q : Part) (t : TunerId), q.switching t = false →
      (if (q.tuner t).listened then q else abandonSwitch t q) = q := by
    intro q t hq; unfold abandonSwitch; rw [hq]; simp
  have h1 : (dropClaim w .b (dropClaim w .a p)).switching .a = false := ha
  have h2 : (dropClaim w .b (dropClaim w .a p)).switching .b = false := hb
  rw [h _ _ h1, h _ _ h2]

/-! ### The Station Manager at rest -/

/-- At rest the watch is not active. -/
theorem watchState_of_still {p : Part} (h : p.still = true) : p.stm.watchState = .inactive := by
  simp only [Part.still, Bool.and_eq_true, beq_iff_eq] at h; exact h.1.1.1.1.1.2

/-- What is at rest stays so when the latch, the claims and the timers only fall away. -/
theorem still_of {p q : Part} (h : p.still = true) (hl : q.stm.bulletin.latch = p.stm.bulletin.latch)
    (hr : q.radioCfg = p.radioCfg) (hw : q.stm.watch = p.stm.watch ∨ q.stm.watch = none)
    (hs : q.stm.watchState = .inactive)
        (hh : ∀ u, ∃ f : Claim → Bool, (q.tuner u).claims = (p.tuner u).claims.filter f)
    (hf : ∀ t, q.follow t = p.follow t ∨ (q.follow t).lowTimer = false) : q.still = true := by
  simp only [Part.still, Bool.and_eq_true, Bool.or_eq_true, bne_iff_ne, ne_eq, beq_iff_eq, Option.isNone_iff_eq_none,
    Bool.not_eq_true'] at h ⊢
  obtain ⟨⟨⟨⟨⟨⟨⟨h1, h2⟩, h3⟩, h4⟩, h5⟩, h6⟩, h7⟩, h8⟩ := h
  have hold : ∀ x, p.holding x = none → q.holding x = none := by
    intro x hx
    simp only [Part.holding, List.find?_eq_none] at hx ⊢
    intro u hu
    have := hx u hu
    obtain ⟨f, hf⟩ := hh u
    rw [hf]
    simp only [List.any_eq_true, not_exists, List.mem_filter] at this ⊢
    rintro c ⟨⟨hc, _⟩, h⟩; exact this c ⟨hc, h⟩
  have hlow : ∀ t, (p.follow t).lowTimer = false → (q.follow t).lowTimer = false := by
    intro t ht; rcases hf t with h | h
    · rw [h, ht]
    · exact h
  refine ⟨⟨⟨⟨⟨⟨⟨?_, ?_⟩, hs⟩, hold _ h4⟩, hold _ h5⟩, ?_⟩, hlow _ h7⟩, hlow _ h8⟩
  · rw [hl, hr]; exact h1
  · rw [hr]; rcases hw with hw | hw
    · rw [hw]; exact h2
    · exact .inl hw
  · rw [hr]; exact h6

/-- What is at rest stays so under a change of neither the tables, the Station Manager nor the tuners. -/
theorem still_owner {p q : Part} (h : p.still = true) (ht : q.tst = p.tst) (hs : q.stm = p.stm) (hu : q.tuc = p.tuc) :
    q.still = true := by
  have : q.radioCfg = p.radioCfg := by unfold Part.radioCfg Part.unitPoisoned; rw [ht]
  exact still_of h (by rw [hs]) this (.inl (by rw [hs])) (by rw [hs]; exact watchState_of_still (p := p) h)
    (fun u => ⟨fun _ => true, by unfold Part.tuner; rw [hu]; simp⟩) (fun t => .inl (by unfold Part.follow; rw [hs]))

/-- A watch station that stands asleep is cleared. -/
theorem clearWatch_still {p : Part} (h : p.still = true) :
    ∃ tu f, clearWatch p = { p with tuc := tu, stm :=
        { p.stm with watch := none, watchState := .inactive, follow := f } }
      ∧ (clearWatch p).still = true := by
  unfold clearWatch
  obtain ⟨tu, f, e, c, g⟩ := giveUp_only .watch { p with stm :=
      { p.stm with watch := none, watchState := .inactive } }
  refine ⟨tu, f, e, ?_⟩
  rw [e]
  exact still_of h rfl rfl (.inr rfl) rfl (fun u => ⟨_, (c u).1⟩) g

/-! ### Reports -/

/-- Nothing that a rear seat sees has changed: no report. -/
theorem noteReports_same {p q : Part} (h : ∀ r, reportView p r = reportView q r) : noteReports p q = q := by
  simp [noteReports, h]

/-- Noting reports changes the Rear Link Unit alone. -/
theorem noteReports_eq (b q : Part) : ∃ rl, noteReports b q = { q with rlu := rl } := by
  unfold noteReports; dsimp only; split <;> split <;> exact ⟨_, rfl⟩

/-- The read of a replaced entry is its check, with the reports that this queues, or nothing. -/
theorem readReplaced_cases (table i : Nat) (p : Part) :
    readReplaced table i p = p ∨ ∃ rl, readReplaced table i p = { checkEntry table i p with rlu := rl } := by
  unfold readReplaced
  split
  · exact .inr (noteReports_eq p _)
  · exact .inl rfl

/-- TUNE by index is refused, or is a TUNE to a channel, and in each case the entry has been checked. -/
theorem tuneStation_cases (z : ZoneId) (i : Nat) (p : Part) :
    tuneStation z i p = (.badEntry, checkStation i p) ∨ tuneStation z i p = (.notFound, checkStation i p)
      ∨ ∃ c, tuneStation z i p = tuneZone z c (checkStation i p) := by
  unfold tuneStation; dsimp only; repeat' split
  · exact .inl rfl
  · exact .inr (.inr ⟨_, rfl⟩)
  · exact .inr (.inl rfl)

/-- Of a call a rear seat sees its membership alone. -/
theorem noteReports_call {p q : Part} (ht : q.tst = p.tst) (hz : q.zmx = p.zmx) (hp : q.pwc = p.pwc)
    (hm : ∀ r, membership q r = membership p r) : noteReports p q = q := by
  apply noteReports_same
  intro r
  unfold reportView Part.admissionPoisoned Part.unitPoisoned Part.zone
  rw [ht, hz, hp, hm]

/-! ### Prompts -/

/-- A prompt ended by its tag, playing or waiting. -/
theorem removePrompt_post (tag : Nat) (p : Part) :
    (removePrompt tag p).post .promptEnded tag = { p with
      anu := { p.anu with
            playing := p.anu.playing.filter fun x => x.tag != tag
            waiting := p.anu.waiting.filter fun x => x.tag != tag
            chime := if p.anu.playing.any fun x => x.tag == tag then {} else p.anu.chime }
      nfu := p.nfu.post .promptEnded tag none } := by
  unfold removePrompt
  cases hp : p.anu.playing with
  | none => simp [hp]; rfl
  | some x =>
    by_cases hxt : x.tag = tag
    · simp [hp, hxt, stopPlaying, Chime.stopped, Option.filter]; rfl
    · have hfil : (some x : Option Prompt).filter (fun x => x.tag != tag) = some x := by simp [Option.filter, hxt]
      simp [hp, hxt, hfil]; rfl

/-- A queue with room drops nothing. -/
theorem dropBack_under {n : Nat} {p : Part} (h : p.anu.waiting.length ≤ n) : dropBack n p = p := by
  unfold dropBack; rw [if_neg (by omega)]

/-- A queue without room drops the record at its back. -/
theorem dropBack_over {n : Nat} {p : Part} {front : List Prompt} {x : Prompt} (hw : p.anu.waiting = front ++ [x])
    (h : n < p.anu.waiting.length) (hx : x.cls ≠ .ring ∧ x.cls ≠ .bulletin) :
    dropBack n p = { p with
      anu := { p.anu with waiting := front }
      nfu := p.nfu.post .promptDropped x.tag none } := by
  unfold dropBack; rw [if_pos h, hw]
  simp only [List.getLast?_append, List.getLast?_singleton, Option.some_or, List.dropLast_concat]
  unfold tellPrompt
  split
  · rename_i h; exact absurd h hx.1
  · rename_i h; exact absurd h hx.2
  · rfl

/-- The bulletin `r` set back at the head of the queue,
    and a prompt placed before it: the records that the queue has no
room for are dropped from its back. -/
theorem setBack_join {p : Part} {r x : Prompt} {front lost : List Prompt} (t : Nat) (hx : x.front = true)
    (hx' : x.cls ≠ .safety)
    (hw : p.anu.waiting = r :: front ++ lost)
    (hf : front.length ≤ 10) (hlo : lost.length ≤ 2) (hor : lost = [] ∨ front.length = 10)
    (hlost : ∀ x ∈ lost, x.cls ≠ .ring ∧ x.cls ≠ .bulletin) :
    ∃ lost' n', dropBack 12 p = { p with anu := { p.anu with waiting := r :: front ++ lost' }, nfu := n' }
      ∧ (∀ x ∈ lost', x ∈ lost)
      ∧ placePrompt x { dropBack 12 p with anu := { (dropBack 12 p).anu with tagCounter := t } }
        = { p with anu := { p.anu with tagCounter := t, waiting := x :: r :: front }
                   nfu := lost.reverse.foldl (fun q x => q.post .promptDropped x.tag none) p.nfu } := by
  have hpl : ∀ q, placePrompt x q = { dropBack 11 q with anu :=
      { (dropBack 11 q).anu with waiting := x :: (dropBack 11 q).anu.waiting } } := by
    intro q
    unfold placePrompt
    rw [if_neg (by simpa using hx'), hx]; rfl
  have under : ∀ (q : Part) , q.anu.waiting = r :: front → dropBack 11 q = q :=
    fun q hq => dropBack_under (by simp only [hq, List.length_cons]; omega)
  have toomany : ∀ (q : Part) (y : Prompt), y ∈ lost → front.length = 10 → q.anu.waiting = r :: front ++ [y] →
      dropBack 11 q = { q with
        anu := { q.anu with waiting := r :: front }
        nfu := q.nfu.post .promptDropped y.tag none } :=
    fun q y hy h10 hq => dropBack_over hq (by rw [hq]; grind) (hlost y hy)
  rcases lost with _ | ⟨y, _ | ⟨z, _ | ⟨u, l⟩⟩⟩
  · have e : dropBack 12 p = p := dropBack_under (by rw [hw]; grind)
    refine ⟨[], p.nfu, ?_, by simp, ?_⟩
    · rw [e, ← hw]
    · rw [hpl, e, under { p with anu := { p.anu with tagCounter := t } } (by show p.anu.waiting = _; rw [hw]; simp)]
      have : p.anu.waiting = r :: front := by rw [hw]; simp
      exact congrArg (fun l => { p with anu := { p.anu with tagCounter := t, waiting := x :: l } }) this
  · have h10 : front.length = 10 := by simpa using hor
    have e : dropBack 12 p = p := dropBack_under (by rw [hw]; grind)
    refine ⟨[y], p.nfu, ?_, by simp, ?_⟩
    · rw [e, ← hw]
    · rw [hpl, e, toomany { p with anu := { p.anu with tagCounter := t } } y (by simp) h10 hw]; rfl
  · have h10 : front.length = 10 := by simpa using hor
    have e : dropBack 12 p = { p with
        anu := { p.anu with waiting := r :: front ++ [y] }
        nfu := p.nfu.post .promptDropped z.tag none } :=
      dropBack_over (by rw [hw]; simp) (by rw [hw]; grind) (hlost z (by simp))
    refine ⟨[y], _, e, by simp, ?_⟩
    rw [hpl, e, toomany _ y (by simp) h10 rfl]; rfl
  · simp at hlo

/-! ### Calls -/

/-- A context changed: the seat's record, and at most a notice. -/
theorem changeContext_only (k : Seat) (f : SeatRt → SeatRt) (p : Part) :
    changeContext k f p = { p.setSeat k (f (p.seat k)) with
      nfu := if (p.seat k).context != (f (p.seat k)).context && k == p.carried then p.nfu.post .canceller
          (seatCode k) none else p.nfu } := by
  unfold changeContext
  dsimp only
  split
  · rfl
  · rfl

/-- A new signature, with no error standing. -/
theorem setSignature_only {sig : Signature} {p : Part} (hl : p.tst.latent = []) :
    ∃ s u n, setSignature sig p = { p with clp := { p.clp with sig := sig, seats := s, uplinkCode := u }, nfu := n }
      ∧ ((∀ k, (p.seat k).context = .reset) → s = p.clp.seats ∧ n = p.nfu) := by
  unfold setSignature
  split
  · rename_i h; subst h; exact ⟨_, _, _, rfl, fun _ => ⟨rfl, rfl⟩⟩
  · have key : ∀ (l : List Seat) (q : Part), ∃ s n, l.foldl (fun q k =>
        if (q.seat k).context == .reset then q else changeContext k (SeatRt.trained sig) q) q
          = { q with clp := { q.clp with seats := s }, nfu := n }
        ∧ ((∀ k, (q.seat k).context = .reset) → s = q.clp.seats ∧ n = q.nfu) := by
      intro l
      induction l with
      | nil => intro q; exact ⟨_, _, rfl, fun _ => ⟨rfl, rfl⟩⟩
      | cons a l ih =>
        intro q
        rw [List.foldl_cons]
        by_cases ha : ((q.seat a).context == .reset) = true
        · rw [if_pos ha]; exact ih q
        · rw [if_neg ha]
          obtain ⟨s, n, e, _⟩ := ih (changeContext a (SeatRt.trained sig) q)
          refine ⟨s, n, by rw [e, changeContext_only]; rfl, fun h => ?_⟩
          rw [h a] at ha; exact absurd rfl ha
    obtain ⟨s, n, e, hr⟩ := key Seat.all { p with clp := { p.clp with sig := sig } }
    dsimp only
    rw [e, setUplink_clean (by exact hl)]
    exact ⟨s, _, n, rfl, fun h => hr h⟩

/-- Admission recomputed from none. -/
theorem readmit_only {p : Part} (hl : p.tst.latent = []) (ha : p.clp.admitted = .of fun _ => false) :
    ∃ s u n, readmit p = { p with
        clp := { p.clp with admitted := admittedOf p, seats := s, uplinkCode := u }
        nfu := n }
      ∧ (∀ k, (admittedOf p).get k = true → (s.get k).context = .training ∧ (s.get k).sig = some p.clp.sig)
      ∧ ((∀ k, (p.seat k).context = .reset) → n = if (admittedOf p).get p.carried = true then
            p.nfu.post .canceller (seatCode p.carried) none else p.nfu) := by
  have hb : ∀ k, p.clp.admitted.get k = false := by intro k; rw [ha]; cases k <;> rfl
  have key : ∀ (now : PerSeat Bool) (l : List Seat) (q : Part), l.Nodup → ∃ s n, l.foldl (fun q k =>
        if now.get k && !p.clp.admitted.get k then changeContext k (SeatRt.trained q.clp.sig) q
        else if p.clp.admitted.get k && !now.get k then unadmit k q else q) q
          = { q with clp := { q.clp with seats := s }, nfu := n }
        ∧ (∀ k ∈ l, now.get k = true → (s.get k).context = .training ∧ (s.get k).sig = some q.clp.sig)
        ∧ (∀ k, k ∉ l → s.get k = q.clp.seats.get k)
        ∧ ((∀ k ∈ l, (q.seat k).context = .reset) → n = if q.carried ∈ l ∧ now.get q.carried = true then
            q.nfu.post .canceller (seatCode q.carried) none else q.nfu) := by
    intro now l
    induction l with
    | nil => intro q _; exact ⟨q.clp.seats, q.nfu, rfl, by simp, by simp, by simp⟩
    | cons a l ih =>
      intro q hd
      obtain ⟨hal, hd'⟩ := List.nodup_cons.mp hd
      rw [List.foldl_cons, hb a]
      by_cases hn : now.get a = true
      · rw [if_pos (by simp [hn])]
        obtain ⟨s, n, e, h1, h2, h3⟩ := ih (changeContext a (SeatRt.trained q.clp.sig) q) hd'
        have hsig : (changeContext a (SeatRt.trained q.clp.sig) q).clp.sig = q.clp.sig :=
            by rw [changeContext_only]; rfl
        have hsa : (changeContext a (SeatRt.trained q.clp.sig) q).clp.seats = q.clp.seats.set a
            (SeatRt.trained q.clp.sig (q.seat a)) := by
          rw [changeContext_only]; rfl
        refine ⟨s, n, by rw [e, changeContext_only]; rfl, ?_, ?_, ?_⟩
        · intro k hk hnk
          rcases List.mem_cons.mp hk with rfl | hk
          · rw [h2 _ hal, hsa]; simp [SeatRt.trained]
          · have := h1 k hk hnk; rw [hsig] at this; exact this
        · intro k hk
          have hka : k ≠ a := fun h => hk (h ▸ List.mem_cons_self)
          rw [h2 k fun h => hk (List.mem_cons_of_mem _ h), hsa]; simp [hka]
        · intro hr
          have hc : (changeContext a (SeatRt.trained q.clp.sig) q).carried = q.carried :=
              by rw [changeContext_only]; rfl
          have hnn : (changeContext a (SeatRt.trained q.clp.sig) q).nfu
              = if a = q.carried then q.nfu.post .canceller (seatCode a) none else q.nfu := by
            rw [changeContext_only]
            dsimp only
            rw [hr a List.mem_cons_self]
            simp [SeatRt.trained]
          rw [h3 ?_, hc, hnn]
          · by_cases hac : a = q.carried
            · subst hac; simp [hal, hn]
            · have : q.carried ≠ a := fun h => hac h.symm
              simp [hac, this]
          · intro k hk
            have hka : k ≠ a := fun h => hal (h ▸ hk)
            show ((changeContext a (SeatRt.trained q.clp.sig) q).clp.seats.get k).context = _
            rw [hsa]; simp [hka]; exact hr k (List.mem_cons_of_mem _ hk)
      · rw [if_neg (by simp [hn]), if_neg (by simp)]
        obtain ⟨s, n, e, h1, h2, h3⟩ := ih q hd'
        refine ⟨s, n, e, ?_, ?_, ?_⟩
        · intro k hk hnk
          rcases List.mem_cons.mp hk with rfl | hk
          · exact absurd hnk hn
          · exact h1 k hk hnk
        · intro k hk; exact h2 k fun h => hk (List.mem_cons_of_mem _ h)
        · intro hr
          rw [h3 fun k hk => hr k (List.mem_cons_of_mem _ hk)]
          by_cases hac : q.carried = a
          · rw [hac]; simp [hn]
          · simp [hac]
  obtain ⟨s, n, e, h1, _, h3⟩ := key (admittedOf p) Seat.all
      { p with clp := { p.clp with admitted := admittedOf p } } (by decide)
  refine ⟨s, (readmit p).clp.uplinkCode, n, ?_, ?_, ?_⟩
  · unfold readmit; dsimp only; rw [e, setUplink_clean (by exact hl)]; rfl
  · intro k hk; exact h1 k (by cases k <;> decide) hk
  · intro hr
    have := h3 fun k _ => hr k
    rw [this]
    have hm : ∀ k, k ∈ Seat.all := by intro k; cases k <;> decide
    have hc : ({ p with clp := { p.clp with admitted := admittedOf p } } : Part).carried = p.carried := rfl
    rw [hc]; simp [hm]

/-! ### Tuners -/

/-- With no low-quality timer running and no ground for one, a report leaves the following as it is. -/
theorem watchQuality_idle {t : TunerId} {p : Part} (hl : p.tst.latent = []) (he : p.eligible t = false)
    (ht : (p.follow t).lowTimer = false) : watchQuality t p = p := by
  have hr : readFollowed t p = p := by
    unfold readFollowed; split
    · simp [checkStation, hl]
    · rfl
  unfold watchQuality
  rw [hr]; dsimp only
  rw [he]
  have : p.stm.follow.set t { p.follow t with lowTimer := false } = p.stm.follow := by
    have h2 : ({ p.follow t with lowTimer := false } : Follow) = p.follow t := by rw [← ht]
    rw [h2]; unfold Part.follow
    cases t <;> rfl
  show p.setFollow t _ = p
  unfold Part.setFollow; rw [this]

/-- Without following, or without a code heard, a tuner is not eligible. -/
theorem not_eligible {t : TunerId} {p : Part} (h : p.radioCfg.afEnable = false ∨ (p.tuner t).heard = none) :
    p.eligible t = false := by
  unfold Part.eligible
  dsimp only
  rcases h with h | h
  · rw [h]; rfl
  · rw [h]; simp

/-- What ends a seek. -/
theorem endSeek_only {t : TunerId} {k : Seek} {b : Bool} {c : Chan} {p : Part} (hl : p.tst.latent = [])
    (hc : (p.tuner t).chan = some c) :
    ∃ zm, endSeek t k b p = { p.setTuner t { p.tuner t with state := .playing, seek := none } with
        zmx := zm, nfu := p.nfu.post .seekDone (zoneCode k.zone) (if b then some c.freq else none) }
      ∧ ∀ z, (endSeek t k b p).zone z = if z = k.zone then { p.zone z with
            chan := some c, station := p.holderOf c
            code := ((p.holderOf c).bind p.station).map Station.code } else p.zone z := by
  unfold endSeek
  have hch : ((p.setTuner t { p.tuner t with state := .playing, seek := none }).tuner t).chan = some c := by simp [hc]
  dsimp only
  rw [hch]
  dsimp only
  unfold nameStation
  have hrh : ∀ q : Part, q.tst.latent = [] → readHolder c q = q := by
    intro q hq; unfold readHolder; split <;> simp [checkStation, hq]
  rw [hrh _ (by exact hl)]
  refine ⟨_, rfl, fun z => ?_⟩
  by_cases hz : z = k.zone
  · subst hz; simp; exact ⟨rfl, rfl⟩
  · simp [hz]

/-- A command issued is on the link or waits for it. -/
theorem issue_sent {t : TunerId} {cmd : LinkCmd} {p : Part} (ha : p.hasAddress t = true)
    (hs : (p.tuner t).state ≠ .fault)
    (hr : (p.tuner t).retry = none) :
    ∃ tu, issue t cmd p = { p with tuc := tu } ∧ tu.tuners = p.tuc.tuners ∧
        (t, cmd) ∈ tu.link.toList ++ tu.queue := by
  unfold issue
  rw [if_neg (by simp [ha, hs]), if_neg (by simp [hr])]
  refine ⟨_, rfl, ?_, ?_⟩
  · unfold startLink; split <;> rfl
  · unfold startLink
    split
    · rename_i x rest h1 h2
      dsimp only at h1 h2 ⊢
      have : (t, cmd) ∈ x :: rest := by rw [← h2]; simp
      simpa using this
    · simp

end Sys2Proof.Machine
end

