-- ==== Sys2Proof/Laws/Tables.lean ====
section
/-! SUPPORT. What reads and writes of the tables leave: the entries that a TABLE_READ returns, and a STATIONS entry
written whole, stored or removed. -/

namespace Sys2Proof.Machine

/-! ### TABLE_READ -/

/-- The part with other station slots. -/
def withStations (p : Part) (ss : List StationSlot) : Part := { p with tst := { p.tst with stations := ss } }

/-- A read of an entry reads its own slot. -/
theorem entryFields_withStations {p : Part} {ss : List StationSlot} {table j : Nat}
    (h : ss.getD j {} = p.tst.stations.getD j {}) : entryFields (withStations p ss) table j
        = entryFields p table j := by
  unfold entryFields
  split <;> first | rfl | skip
  · show (match withStations p ss with | _ => _) = _
    simp only [withStations] at *
    rw [h]

/-- Poisoning does not rest on the slots. -/
theorem poisoned_withStations (p : Part) (ss : List StationSlot) (table j : Nat) :
    (withStations p ss).entryPoisoned table j = p.entryPoisoned table j := rfl

/-- The bytes that a read gives for an entry. -/
def readBytes (p : Part) (table mask i : Nat) : List Byte := entryBytes p table i mask (p.entryPoisoned table i)

/-- The entries that fit into a reply, in order, with their marks cleared where the request asks for it. -/
theorem readEntries_spec {p : Part} (hl : p.tst.latent = []) (table mask : Nat) (marked clear : Bool) :
    ∀ (l : List Nat) (ss : List StationSlot) (acc : List Byte), l.Nodup →
      (∀ j ∈ l, ss.getD j {} = p.tst.stations.getD j {}) → ∀ n : Nat,
      let e := readBytes p table mask
      let wanted := l.filter fun i => !marked || (p.tst.stations.getD i {}).mark
      n ≤ wanted.length → acc.length + ((wanted.take n).flatMap e).length ≤ 53 →
      (n < wanted.length → 53 < acc.length + ((wanted.take (n + 1)).flatMap e).length) →
      ∃ ss', readEntries table mask marked clear l acc (withStations p ss)
          = (acc ++ (wanted.take n).flatMap e, wanted[n]?, withStations p ss')
        ∧ ∀ i : Nat, ss'[i]? = (ss[i]?).map fun s =>
            if clear = true ∧ i ∈ wanted.take n then { s with mark := false } else s := by
  intro l
  induction l with
  | nil =>
    intro ss acc _ _ n e wanted hn _ _
    have : n = 0 := by simpa [wanted] using hn
    subst this
    exact ⟨ss, by simp [readEntries, wanted], by simp [wanted]⟩
  | cons a l ih =>
    intro ss acc hd hs n e wanted hn h1 h2
    have hda : a ∉ l := (List.nodup_cons.mp hd).1
    have hdl := (List.nodup_cons.mp hd).2
    have hsl : ∀ j ∈ l, ss.getD j {} = p.tst.stations.getD j {} := fun j hj => hs j (List.mem_cons_of_mem _ hj)
    have hsa := hs a List.mem_cons_self
    by_cases hm : (!marked || (p.tst.stations.getD a {}).mark) = true
    · have hw : wanted = a :: l.filter fun i => !marked || (p.tst.stations.getD i {}).mark := by
        show List.filter _ (a :: l) = _
        rw [List.filter_cons, if_pos hm]
      have hskip : (marked && !((withStations p ss).tst.stations.getD a {}).mark) = false := by
        show (marked && !(ss.getD a {}).mark) = false
        rw [hsa]; revert hm; cases marked <;> simp
      have hb : (readEntry table a mask clear (withStations p ss)).1 = e a := by
        simp only [readEntry, poisonPending_clean (p := withStations p ss) table a hl, Bool.false_or]
        show entryBytes (withStations p ss) table a mask (p.entryPoisoned table a) = e a
        simp only [e, readBytes, entryBytes, entryFields_withStations hsa]
      let ss1 := if clear then ss.modify a fun s => { s with mark := false } else ss
      have hp : (readEntry table a mask clear (withStations p ss)).2 = withStations p ss1 := by
        have : (if clear then clearMark a (withStations p ss) else withStations p ss) = withStations p ss1 := by
          cases clear <;> rfl
        simp only [readEntry, this]
        exact checkEntry_clean _ _ hl
      have hs1 : ∀ j ∈ l, ss1.getD j {} = p.tst.stations.getD j {} := by
        intro j hj
        have hne : a ≠ j := fun h => hda (h ▸ hj)
        rw [← hsl j hj]
        cases clear
        · rfl
        · simp [ss1, List.getElem?_modify, hne]
      rw [hw] at hn h1 h2 ⊢
      unfold readEntries
      rw [hskip]
      simp only [Bool.false_eq_true, if_false, hb, hp]
      cases n with
      | zero =>
        have : 53 < acc.length + (e a).length := by simpa using h2 (by simp)
        rw [if_neg (by omega)]
        exact ⟨ss, by simp, by simp⟩
      | succ n =>
        have ha : acc.length + (e a).length ≤ 53 := by
          simp only [List.take_succ_cons, List.flatMap_cons, List.length_append] at h1; omega
        rw [if_pos ha]
        obtain ⟨ss', hr, hi⟩ := ih ss1 (acc ++ e a) hdl hs1 n (by simpa using hn)
          (by
            simp only [List.take_succ_cons, List.flatMap_cons, List.length_append] at h1 ⊢
            show _ + ((List.take n _).flatMap e).length ≤ _
            omega)
          (by
            intro hn'
            have := h2 (by simpa using hn')
            rw [List.take_succ_cons] at this
            simp only [List.flatMap_cons, List.length_append] at this ⊢
            show _ < _ + ((List.take (n + 1) _).flatMap e).length
            omega)
        refine ⟨ss', ?_, ?_⟩
        · rw [hr]; simp only [List.take_succ_cons, List.flatMap_cons, List.append_assoc, List.getElem?_cons_succ]; rfl
        · intro i
          rw [hi i]
          have hna : a ∉ (l.filter fun i => !marked || (p.tst.stations.getD i {}).mark).take n := fun h =>
            hda (List.mem_of_mem_filter (List.mem_of_mem_take h))
          by_cases hia : a = i
          · subst hia
            cases clear
            · simp [ss1]
            · simp only [ss1, if_true, List.getElem?_modify, Option.map_map]
              simp only [List.take_succ_cons, List.mem_cons, true_or, and_true, hna, and_false]
              cases ss[a]? <;> simp
          · have : i ≠ a := fun h => hia h.symm
            cases clear
            · simp [ss1]
            · simp [ss1, List.getElem?_modify, hia, this]
    · have hw : wanted = l.filter fun i => !marked || (p.tst.stations.getD i {}).mark := by
        show List.filter _ (a :: l) = _
        rw [List.filter_cons, if_neg hm]
      have hskip : (marked && !((withStations p ss).tst.stations.getD a {}).mark) = true := by
        show (marked && !(ss.getD a {}).mark) = true
        rw [hsa]; revert hm; cases marked <;> simp
      rw [hw] at hn h1 h2 ⊢
      unfold readEntries
      rw [hskip, if_pos rfl]
      exact ih ss acc hdl hsl n hn h1 h2

/-! ### TABLE_WRITE -/

/-- A TABLE_WRITE that is taken up is answered as its owner says. -/
theorem write_taken {h : ReqHeader} {t i m : Nat} {vs : List Byte} {p : Part} {w : List Instr}
    (ht : p.takes 0x11 h = true) (h1 : 1 ≤ vs.length) (h2 : vs.length ≤ 52) :
    exec (.tableWrite h t i m vs) ⟨p, w⟩ = .next ⟨answered 0x11 h (writing t (tableWrite t i m vs) p).result
      (writing t (tableWrite t i m vs) p).body (writing t (tableWrite t i m vs) p).part, w⟩ := by
  have hc : ringChecks 0x11 (4 + vs.length) 0 false = none := by
    simp [ringChecks, requestLengths, sourceMay]; omega
  show Host.Outcome.next _ = _
  rw [ringRequest_taken ht hc]

/-- What a taken write of STATIONS leaves: the stored part, with the reports it queues. -/
theorem writing_ok {t i m : Nat} {vs : List Byte} {p q : Part} (ht : t = 8) (h : tableWrite t i m vs p = (.ok, q))
    (hq : q.still = true) (hl : q.tst.latent = []) :
    ∃ rl, writing t (tableWrite t i m vs) p = { result := .ok, body := [], part := { q with rlu := rl } } := by
  subst ht
  obtain ⟨rl, e⟩ := noteReports_eq p q
  refine ⟨rl, ?_⟩
  have : writing 8 (tableWrite 8 i m vs) p = settling (tableWrite 8 i m vs) p := rfl
  rw [this]
  simp only [settling, settled, answer, h, stmSettle_still hq hl, e]

/-- What a refused write of STATIONS leaves: the part as it was. -/
theorem writing_refused {t i m : Nat} {vs : List Byte} {p : Part} {r : Result} (ht : t = 8)
    (h : tableWrite t i m vs p = (r, p)) (hq : p.still = true) (hl : p.tst.latent = []) :
    writing t (tableWrite t i m vs) p = { result := r, body := [], part := p } := by
  subst ht
  have : writing 8 (tableWrite 8 i m vs) p = settling (tableWrite 8 i m vs) p := rfl
  rw [this]
  simp only [settling, settled, answer, h, stmSettle_still hq hl, noteReports_same (fun _ => rfl)]

/-- The zones that name a station index name none. -/
theorem unname_zone (i : Nat) (p : Part) :
    ∃ z, unnameStation i p = { p with zmx := z } ∧ ∀ x, (unnameStation i p).zone x
      = if (p.zone x).station = some i then { p.zone x with station := none } else p.zone x := by
  have key : ∀ (l : List ZoneId) (q : Part), l.Nodup → ∃ z, (l.foldl (fun q z => if (q.zone z).station == some i then
      q.setZone z { q.zone z with station := none } else q) q) = { q with zmx := z } ∧ ∀ x,
      ((l.foldl (fun q z => if (q.zone z).station == some i then
        q.setZone z { q.zone z with station := none } else q) q).zone x)
      = if x ∈ l ∧ (q.zone x).station = some i then { q.zone x with station := none } else q.zone x := by
    intro l
    induction l with
    | nil => intro q _; exact ⟨q.zmx, rfl, fun x => by simp⟩
    | cons a l ih =>
      intro q hd
      rw [List.foldl_cons]
      have hal := (List.nodup_cons.mp hd).1
      obtain ⟨z, e, hz⟩ := ih (if (q.zone a).station == some i then
        q.setZone a { q.zone a with station := none } else q) (List.nodup_cons.mp hd).2
      refine ⟨z, ?_, fun x => ?_⟩
      · rw [e]; split <;> rfl
      · rw [hz x]
        by_cases hx : x = a
        · subst hx; split <;> simp_all
        · split <;> simp [hx]
  obtain ⟨z, e, hz⟩ := key ZoneId.all p (by decide)
  refine ⟨z, e, fun x => ?_⟩
  unfold unnameStation
  rw [hz x]
  have : x ∈ ZoneId.all := by cases x <;> decide
  simp [this]

/-- A named field at the front of the values. -/
theorem split_step {t m size n : Nat} {rest : List (Nat × Nat)} {a b : List Byte} (hm : m.testBit n = true)
    (ha : a ≠ []) (hl : fieldLength t n size (a ++ b) = a.length) :
    splitFields t m ((size, n) :: rest) (a ++ b) = (splitFields t m rest b).map fun fs => some a :: fs := by
  have h1 : (a ++ b).isEmpty = false := by cases a <;> simp_all
  have h2 : ¬ ((a ++ b).length < a.length) := by simp
  simp only [splitFields, hm, if_true, hl, h1, h2, Bool.false_or, decide_false, Bool.false_eq_true, if_false]
  rw [List.drop_left, List.take_left]

/-- A value read behind a first part. -/
theorem valueAt_append_right (a b : List Byte) (k n : Nat) : valueAt (a ++ b) (a.length + k) n = valueAt b k n := by
  unfold valueAt
  congr 1
  apply List.map_congr_left
  intro x _
  simp [List.getD, List.getElem?_append_right, Nat.add_assoc]

/-- A value read within a first part. -/
theorem valueAt_append_left (a b : List Byte) (k n : Nat) (h : k + n ≤ a.length) : valueAt (a ++ b) k n
    = valueAt a k n := by
  unfold valueAt
  congr 1
  apply List.map_congr_left
  intro x hx
  have : x < n := by simpa using hx
  simp [List.getD]
  rw [List.getElem?_append_left (by omega)]

/-- Two bytes hold what was put into them. -/
theorem byte2_value {n : Nat} (h : n < 65536) : valueAt (byte2 n) 0 2 = n := by
  simp [valueAt, valueOf, byte2, List.range_succ]; omega

/-- The frequencies of a list of items. -/
theorem items_freqs : ∀ (l : List Item), (∀ it ∈ l, it.freq < 65536) →
    (List.range l.length).map (fun k => valueAt
        (l.flatMap fun i => byte2 i.freq ++ byte1 (codeOfOption i.quality 255)) (3 * k) 2)
      = l.map Item.freq := by
  intro l
  induction l with
  | nil => intro _; rfl
  | cons a l ih =>
    intro h
    rw [List.length_cons, List.range_succ_eq_map, List.map_cons, List.map_map, List.map_cons]
    congr 1
    · rw [List.flatMap_cons, List.append_assoc, Nat.mul_zero]
      rw [valueAt_append_left _ _ _ _ (by simp [byte2])]
      exact byte2_value (h a List.mem_cons_self)
    · rw [← ih fun it hi => h it (List.mem_cons_of_mem _ hi)]
      apply List.map_congr_left
      intro k _
      have : 3 * (k + 1) = (byte2 a.freq ++ byte1 (codeOfOption a.quality 255)).length + 3 * k := by
        simp [byte1, byte2]; omega
      simp only [Function.comp_apply, List.flatMap_cons, Nat.succ_eq_add_one]
      rw [this, valueAt_append_right]

/-- The frequencies of a list-item field. -/
theorem writtenFreqs_items {l : List Item} (h6 : l.length ≤ 6) (h : ∀ it ∈ l, it.freq < 65536) :
    writtenFreqs (itemsField l) = some (l.map Item.freq) := by
  have h0 : valueAt (itemsField l) 0 1 = l.length := by
    rw [itemsField, valueAt_append_left _ _ _ _ (by simp [byte1])]
    simp [valueAt, valueOf, byte1]; omega
  unfold writtenFreqs
  simp only [h0, h6, if_true]
  rw [← items_freqs l h]
  refine congrArg some ?_
  apply List.map_congr_left
  intro k _
  rw [itemsField, show 1 + 3 * k = (byte1 l.length).length + 3 * k from rfl, valueAt_append_right]

/-- The length of a list-item field. -/
theorem items_length (l : List Item) : (itemsField l).length = 1 + 3 * l.length := by
  simp only [itemsField, List.length_append]
  congr 1
  induction l with
  | nil => rfl
  | cons a l ih => rw [List.flatMap_cons, List.length_append, ih]; simp [byte1, byte2]; omega

/-- Its count comes first. -/
theorem items_head (l : List Item) (h : l.length < 256) (b : List Byte) : ((itemsField l ++ b).headD 0#8).toNat
    = l.length := by
  simp [itemsField, byte1]; omega

/-- The label field. -/
def labelBytes (e : Station) : List Byte := e.label.getD (List.replicate 8 0#8)

/-- The fields of an entry written whole. -/
theorem full_split (e : Station) (h12 : e.items.length ≤ 12) (h8 : (labelBytes e).length = 8) :
    splitFields 8 255 (fieldSizes 8).zipIdx (stationFields e false).flatten
      = some [some (byte1 1), some (byte2 e.code), some (byte1 (bandCode e.band)), some (labelBytes e),
          some (itemsField (e.items.take 6)), some (itemsField (e.items.drop 6)),
          some (byte1 (codeOfOption e.favourite 0)),
          some (byte1 (codeOfBool e.capable + 2 * codeOfBool e.active + 4 * codeOfBool false + 8 * codeOfBool e.learned))] := by
  have hne : ∀ l, itemsField l ≠ [] := by intro l; simp [itemsField, byte1]
  have hz : (fieldSizes 8).zipIdx = [(1, 0), (2, 1), (1, 2), (8, 3), (19, 4), (19, 5), (1, 6), (1, 7)] := rfl
  have hlab : labelBytes e ≠ [] := by intro h; rw [h] at h8; simp at h8
  rw [hz]
  simp only [stationFields, List.flatten_cons, List.flatten_nil]
  rw [split_step (by decide) (by simp [byte1]) (by simp [fieldLength, byte1]),
    split_step (by decide) (by simp [byte2]) (by simp [fieldLength, byte2]),
    split_step (by decide) (by simp [byte1]) (by simp [fieldLength, byte1])]
  rw [show e.label.getD (List.replicate 8 0#8) = labelBytes e from rfl,
    split_step (by decide) hlab (by simp [fieldLength, h8]),
    split_step (by decide) (hne _) (by
      rw [fieldLength, if_pos (by decide), items_head _ (by simp), items_length]),
    split_step (by decide) (hne _) (by
      rw [fieldLength, if_pos (by decide), items_head _ (by simp; omega), items_length]),
    split_step (by decide) (by simp [byte1]) (by simp [fieldLength, byte1]),
    split_step (by decide) (by simp [byte1]) (by simp [fieldLength, byte1])]
  rfl

/-- What the full write of an entry would leave. -/
theorem written_full (e : Station) (old : Option Station) (hcode : e.code < 65536) (h12 : e.items.length ≤ 12)
    (hf : ∀ it ∈ e.items, it.freq < 65536) (hfav : ∀ n, e.favourite = some n → 1 ≤ n ∧ n < 256)
    (hlab : ∀ l, e.label = some l → l.length = 8 ∧ ∀ b ∈ l, 0x20 ≤ b.toNat ∧ b.toNat ≤ 0x7E) :
    writtenStation [some (byte1 1), some (byte2 e.code), some (byte1 (bandCode e.band)), some (labelBytes e),
          some (itemsField (e.items.take 6)), some (itemsField (e.items.drop 6)),
          some (byte1 (codeOfOption e.favourite 0)),
          some (byte1 (codeOfBool e.capable + 2 * codeOfBool e.active + 4 * codeOfBool false + 8 * codeOfBool e.learned))] old
      = if 1 ≤ e.code ∧ e.items ≠ [] ∧ (∀ it ∈ e.items, validFreq e.band it.freq = true)
          ∧ ∀ n, e.favourite = some n → n ≤ 12 then
        some { e with
          items := (e.items.map Item.freq).map fun f =>
              (((old.elim [] Station.items).find? fun (it : Item) => it.freq == f).getD { freq := f })
          learned := old.any Station.learned }
      else none := by
  have h1 : labelOf (labelBytes e) = some e.label := by
    unfold labelBytes
    cases hl : e.label with
    | none => rfl
    | some l =>
      obtain ⟨h8, hb⟩ := hlab l hl
      have n0 : (l.all fun x => x == 0#8) = false := by
        match l, h8, hb with
        | b :: l, _, hb =>
          have := (hb b List.mem_cons_self).1
          have : (b == 0#8) = false := by
            rw [Bool.eq_false_iff]; intro h; have := beq_iff_eq.mp h; subst this; simp at *
          simp [this]
      have n1 : (l.all fun b => decide (0x20 ≤ b.toNat) && decide (b.toNat ≤ 0x7E)) = true := by
        simp only [List.all_eq_true, Bool.and_eq_true, decide_eq_true_eq]; exact hb
      simp [labelOf, n0]
      intro x hx; exact hb x hx
  have h2 : ∀ items, writtenList [some (byte1 1), some (byte2 e.code), some (byte1 (bandCode e.band)), some
      (labelBytes e),
          some (itemsField (e.items.take 6)), some (itemsField (e.items.drop 6)),
          some (byte1 (codeOfOption e.favourite 0)),
          some (byte1 (codeOfBool e.capable + 2 * codeOfBool e.active + 4 * codeOfBool false + 8 * codeOfBool e.learned))] items
      = some (e.items.map Item.freq) := by
    intro items
    have a := writtenFreqs_items (l := e.items.take 6) (by simp) (fun it hi => hf it (List.mem_of_mem_take hi))
    have b := writtenFreqs_items (l := e.items.drop 6) (by simp; omega) (fun it hi => hf it (List.mem_of_mem_drop hi))
    unfold writtenList listedFreqs
    simp only [List.getD_cons_succ, List.getD_cons_zero, a, b]
    have : (named [some (byte1 1), some (byte2 e.code), some (byte1 (bandCode e.band)), some (labelBytes e),
          some (itemsField (e.items.take 6)), some (itemsField (e.items.drop 6)),
          some (byte1 (codeOfOption e.favourite 0)),
          some (byte1 (codeOfBool e.capable + 2 * codeOfBool e.active + 4 * codeOfBool false + 8 * codeOfBool e.learned))] 5) = true := rfl
    by_cases h6 : e.items.length ≤ 6
    · have hd : e.items.drop 6 = [] := List.drop_eq_nil_of_le h6
      rw [this, hd]
      simp [List.take_of_length_le h6]
    · rw [this]
      have : ((e.items.take 6).map Item.freq).length = 6 := by simp; omega
      simp only [this]
      simp [← List.map_append]
  have h3 : bandOf (valueOf (byte1 (bandCode e.band))) = some e.band := by cases e.band <;> rfl
  have v1 : valueOf (byte2 e.code) = e.code := by simp [valueOf, byte2]; omega
  have v6 : valueOf (byte1 (codeOfOption e.favourite 0)) = codeOfOption e.favourite 0 := by
    cases hfv : e.favourite with
    | none => rfl
    | some n => have := (hfav n hfv).2; simp [valueOf, byte1, codeOfOption]; omega
  have v7 : (valueOf (byte1 (codeOfBool e.capable + 2 * codeOfBool e.active + 4 * codeOfBool false + 8 * codeOfBool e.learned))).testBit 0 = e.capable
      ∧ (valueOf (byte1 (codeOfBool e.capable + 2 * codeOfBool e.active + 4 * codeOfBool false + 8 * codeOfBool e.learned))).testBit 1 = e.active := by
    cases e.capable <;> cases e.active <;> cases e.learned <;> decide
  unfold writtenStation
  simp only [valueOr, List.getD_cons_succ, List.getD_cons_zero, h1, h2, h3, v1, v6, v7]
  have hcond : (decide (1 ≤ e.code) && decide (1 ≤ (e.items.map Item.freq).length) && decide
      ((e.items.map Item.freq).length ≤ 12)
      && (e.items.map Item.freq).all (validFreq e.band) && decide (codeOfOption e.favourite 0 ≤ 12)) = true ↔
      (1 ≤ e.code ∧ e.items ≠ [] ∧ (∀ it ∈ e.items, validFreq e.band it.freq = true)
          ∧ ∀ n, e.favourite = some n → n ≤ 12) := by
    simp only [Bool.and_eq_true, decide_eq_true_eq, List.length_map, List.all_map, List.all_eq_true]
    have : e.items ≠ [] ↔ 1 ≤ e.items.length := by cases e.items <;> simp
    rw [this]
    have : codeOfOption e.favourite 0 ≤ 12 ↔ ∀ n, e.favourite = some n → n ≤ 12 := by
      cases e.favourite <;> simp [codeOfOption]
    rw [this]
    constructor
    · rintro ⟨⟨⟨⟨a, b⟩, c⟩, d⟩, f⟩; exact ⟨a, b, d, f⟩
    · rintro ⟨a, b, d, f⟩; exact ⟨⟨⟨⟨a, b⟩, h12⟩, d⟩, f⟩
  by_cases hv : 1 ≤ e.code ∧ e.items ≠ [] ∧ (∀ it ∈ e.items, validFreq e.band it.freq = true)
          ∧ ∀ n, e.favourite = some n → n ≤ 12
  · rw [if_pos (hcond.mpr hv), if_pos hv]
    have hfv : (if codeOfOption e.favourite 0 = 0 then none else some (codeOfOption e.favourite 0))
        = e.favourite := by
      cases hfv : e.favourite with
      | none => rfl
      | some n =>
        have := (hfav n hfv).1
        have h0 : n ≠ 0 := by omega
        show (if n = 0 then none else some n) = some n
        rw [if_neg h0]
    rw [hfv]
    cases old <;> rfl
  · rw [if_neg (fun h => hv (hcond.mp h)), if_neg hv]

/-- No two members are equal. -/
theorem distinct_iff : ∀ l : List Nat, distinct l = true ↔ l.Nodup
  | [] => by simp [distinct]
  | a :: l => by simp [distinct, distinct_iff l]

/-- A property of every other entry. -/
theorem otherStations_iff {p : Part} {i : Nat} {f : Station → Bool} :
    (otherStations p i).all f = true ↔ ∀ j o, j ≠ i → p.station j = some o → f o = true := by
  simp only [otherStations, List.all_eq_true, List.mem_filterMap, Prod.exists, List.mem_zipIdx_iff_getElem?]
  constructor
  · intro h j o hj ho
    have hb : p.tst.stations[j]? = some (p.tst.stations.getD j {}) := by
      unfold Part.station at ho
      cases hc : p.tst.stations[j]? with
      | none => rw [List.getD, hc] at ho; simp at ho
      | some s => simp [List.getD, hc]
    refine h o ⟨_, j, by simpa using hb, ?_⟩
    simp [hj]; exact ho
  · rintro h o ⟨s, j, hs, ho⟩
    split at ho
    · cases ho
    · rename_i hj
      simp at hj hs
      refine h j o hj ?_
      simp [Part.station, List.getD, hs, ho]

/-- The length of an entry's fields. -/
theorem station_fields_length (e : Station) (h8 : (labelBytes e).length = 8) :
    (stationFields e false).flatten.length = 16 + 3 * e.items.length := by
  have : e.label.getD (List.replicate 8 0#8) = labelBytes e := rfl
  simp only [stationFields, List.flatten_cons, List.flatten_nil, List.length_append, items_length, this, h8]
  simp [byte1, byte2]; omega

/-- The zones that reference an entry take its code. -/
theorem recode_zone (i c : Nat) (p : Part) :
    ∃ z, recodeZones i c p = { p with zmx := z } ∧ ∀ x, (recodeZones i c p).zone x
      = if p.refersTo x i = true then { p.zone x with code := some c } else p.zone x := by
  have key : ∀ (l : List ZoneId) (q : Part), l.Nodup → ∃ z, (l.foldl (fun q z => if q.refersTo z i then
      q.setZone z { q.zone z with code := some c } else q) q) = { q with zmx := z } ∧ ∀ x,
      ((l.foldl (fun q z => if q.refersTo z i then
        q.setZone z { q.zone z with code := some c } else q) q).zone x)
      = if x ∈ l ∧ q.refersTo x i = true then { q.zone x with code := some c } else q.zone x := by
    intro l
    induction l with
    | nil => intro q _; exact ⟨q.zmx, rfl, fun x => by simp⟩
    | cons a l ih =>
      intro q hd
      rw [List.foldl_cons]
      have hal := (List.nodup_cons.mp hd).1
      obtain ⟨z, e, hz⟩ := ih (if q.refersTo a i then
        q.setZone a { q.zone a with code := some c } else q) (List.nodup_cons.mp hd).2
      have href : ∀ x, (if q.refersTo a i then q.setZone a { q.zone a with code := some c } else q).refersTo x i
          = q.refersTo x i := by
        intro x; split
        · have hl : (q.setZone a { q.zone a with code := some c }).listening x = q.listening x := rfl
          simp only [Part.refersTo, hl]
          by_cases hx : x = a
          · subst hx; simp
          · simp [hx]
        · rfl
      refine ⟨z, ?_, fun x => ?_⟩
      · rw [e]; split <;> rfl
      · rw [hz x, href]
        by_cases hx : x = a
        · subst hx; simp [hal]; split <;> simp_all
        · have : (if q.refersTo a i then q.setZone a { q.zone a with code := some c } else q).zone x = q.zone x := by
            split <;> simp [hx]
          rw [this]; simp [hx]
  obtain ⟨z, e, hz⟩ := key [ZoneId.front, .hpLeft, .hpRight] p (by decide)
  refine ⟨z, e, fun x => ?_⟩
  unfold recodeZones
  rw [hz x]
  by_cases hr : p.refersTo x i = true
  · have : x ∈ [ZoneId.front, .hpLeft, .hpRight] := by
      cases x <;> simp [Part.refersTo, Part.listening, claimantOf] at hr ⊢
    simp [this, hr]
  · simp [hr]

/-- What storing an entry leaves. -/
theorem storeStation_spec {i : Nat} {e : Station} {p : Part} (hs : p.still = true) (hl : p.tst.latent = [])
    (hi : i < p.tst.stations.length) :
    (storeStation i (p.station i) e p).still = true ∧ (storeStation i (p.station i) e p).tst.latent = []
      ∧ (storeStation i (p.station i) e p).station i = some e
      ∧ (storeStation i (p.station i) e p).tst.stations.map StationSlot.mark = p.tst.stations.map StationSlot.mark
      ∧ (∀ j, j ≠ i → (storeStation i (p.station i) e p).station j = p.station j)
      ∧ (∀ z, (storeStation i (p.station i) e p).zone z
          = if p.refersTo z i = true ∧ (p.station i).any (fun o => o.code != e.code) = true
            then { p.zone z with code := some e.code } else p.zone z)
      ∧ (storeStation i (p.station i) e p).stm.watch
          = (if p.stm.watch = some i ∧ (p.station i).any Station.capable = true ∧ e.capable = false then
              none else p.stm.watch)
      ∧ ∃ ts zm st tu, storeStation i (p.station i) e p = { p with tst := ts, zmx := zm, stm := st, tuc := tu } := by
  have key : ∃ q1 ps z, q1 = { p with tst := { p.tst with stations := p.tst.stations.modify i fun s =>
      { s with entry := some e }
                                                          poisoned := ps }, zmx := z }
      ∧ (ps.contains ⟨tblRadio, 0, 0⟩ = p.tst.poisoned.contains ⟨tblRadio, 0, 0⟩)
      ∧ (∀ x, q1.zone x = if p.refersTo x i = true ∧ (p.station i).any (fun o => o.code != e.code) = true
            then { p.zone x with code := some e.code } else p.zone x)
      ∧ storeStation i (p.station i) e p
        = if q1.stm.watch == some i && ((p.station i).any fun o => o.capable) && !e.capable then
            clearWatch q1 else q1 := by
    cases ho : p.station i with
    | none =>
      refine ⟨_, p.tst.poisoned.filter fun u => !(u.table == tblStations && u.entry == i), p.zmx, rfl, ?_,
          fun x => ?_, ?_⟩
      · rw [Bool.eq_iff_iff]; simp [tblRadio, tblStations]
      · simp; rfl
      · simp [storeStation, cleanEntry, Part.updStation, updAt, hl]
    | some o =>
      by_cases hc : o.code = e.code
      · refine ⟨_, p.tst.poisoned, p.zmx, rfl, rfl, fun x => ?_, ?_⟩
        · simp [hc]; rfl
        · simp [storeStation, Part.updStation, updAt, hc]
      · obtain ⟨z, ez, hz⟩ := recode_zone i e.code (p.updStation i fun s => { s with entry := some e })
        refine ⟨recodeZones i e.code (p.updStation i fun s => { s with entry := some e }), p.tst.poisoned, z, ez,
            rfl, fun x => ?_, ?_⟩
        · rw [hz]; simp [hc]; rfl
        · have : (o.code != e.code) = true := by simpa using hc
          simp only [storeStation, Option.any_some, this, if_true, Option.isNone_some, Bool.false_eq_true, if_false]
  obtain ⟨q1, ps, z, e1, hps, hz, hst⟩ := key
  have hr1 : q1.radioCfg = p.radioCfg := by
    have hu : q1.unitPoisoned tblRadio 0 0 = p.unitPoisoned tblRadio 0 0 := by rw [e1]; exact hps
    have ht : q1.tst.radio = p.tst.radio := by rw [e1]
    unfold Part.radioCfg; rw [hu, ht]
  have hs1 : q1.still = true :=
    still_of (p := p) hs (by rw [e1]) hr1 (.inl (by rw [e1])) (by rw [e1]; exact watchState_of_still (p := p) hs)
      (fun u => ⟨fun _ => true, by rw [e1]; simp [Part.tuner]⟩) (fun t => .inl (by rw [e1]; rfl))
  have fin : ∀ q, (∃ tu f wa ws, q = { q1 with tuc := tu, stm :=
      { q1.stm with watch := wa, watchState := ws, follow := f } }
        ∧ wa = if p.stm.watch = some i ∧ (p.station i).any Station.capable = true ∧ e.capable = false then
            none else p.stm.watch) →
      q.still = true → q.still = true ∧ q.tst.latent = [] ∧ q.station i = some e
      ∧ q.tst.stations.map StationSlot.mark = p.tst.stations.map StationSlot.mark
      ∧ (∀ j, j ≠ i → q.station j = p.station j)
      ∧ (∀ z, q.zone z
          = if p.refersTo z i = true ∧ (p.station i).any (fun o => o.code != e.code) = true
            then { p.zone z with code := some e.code } else p.zone z)
      ∧ q.stm.watch
          = (if p.stm.watch = some i ∧ (p.station i).any Station.capable = true ∧ e.capable = false then
              none else p.stm.watch)
      ∧ ∃ ts zm st tu, q = { p with tst := ts, zmx := zm, stm := st, tuc := tu } := by
    rintro q ⟨tu, f, wa, ws, rfl, hwa⟩ hq
    have hst1 : q1.tst.stations = p.tst.stations.modify i fun s => { s with entry := some e } := by rw [e1]
    refine ⟨hq, by rw [e1]; exact hl, ?_, ?_, ?_, hz, hwa, ?_⟩
    · show (q1.tst.stations.getD i {}).entry = _
      rw [hst1]; simp [List.getD, List.getElem?_modify, hi]
    · show q1.tst.stations.map StationSlot.mark = _
      rw [hst1]
      apply List.ext_getElem?
      intro j; simp [List.getElem?_modify]; split
      · subst_vars; cases p.tst.stations[j]? <;> simp
      · rfl
    · intro j hj
      show (q1.tst.stations.getD j {}).entry = _
      rw [hst1]; simp [List.getD, Part.station, Ne.symm hj]
    · rw [e1]; exact ⟨_, _, _, _, rfl⟩
  have hwq : q1.stm.watch = p.stm.watch := by rw [e1]
  rw [hst]
  by_cases hc : p.stm.watch = some i ∧ (p.station i).any Station.capable = true ∧ e.capable = false
  · obtain ⟨tu, f, ec, sc⟩ := clearWatch_still hs1
    have : (q1.stm.watch == some i && ((p.station i).any fun o => o.capable) && !e.capable) = true := by
      rw [hwq]; simp only [Bool.and_eq_true, beq_iff_eq, Bool.not_eq_true']; exact ⟨⟨hc.1, hc.2.1⟩, hc.2.2⟩
    rw [if_pos this]
    exact fin _ ⟨tu, f, none, .inactive, ec, by rw [if_pos hc]⟩ sc
  · have : ¬ (q1.stm.watch == some i && ((p.station i).any fun o => o.capable) && !e.capable) = true := by
      rw [hwq]; simp only [Bool.and_eq_true, beq_iff_eq, Bool.not_eq_true']; rintro ⟨⟨a, b⟩, c⟩; exact hc ⟨a, b, c⟩
    rw [if_neg this]
    exact fin _ ⟨q1.tuc, q1.stm.follow, q1.stm.watch, q1.stm.watchState, rfl, by rw [if_neg hc, hwq]⟩ hs1

end Sys2Proof.Machine
end

