-- ==== Sys2Proof/Laws/Writes.lean ====
section
/-! SUPPORT. What a TABLE_WRITE leaves: its body taken apart, each owner's answer to an entry written whole,
and a write of the inactive bank. -/

namespace Sys2Proof.Machine

/-- The fields of a write that names each field stand in its body one behind the other. -/
theorem split_whole {t m : Nat} (h8 : t ≠ 8) : ∀ (fields : List (List Byte)) (k : Nat),
    (∀ n, k ≤ n → n < k + fields.length → m.testBit n = true) → (∀ f ∈ fields, f ≠ []) →
    splitFields t m ((fields.map List.length).zipIdx k) fields.flatten = some (fields.map some)
  | [], _, _, _ => rfl
  | f :: fs, k, hb, hf => by
    rw [List.map_cons, List.zipIdx_cons, List.flatten_cons,
      split_step (hb k (Nat.le_refl _) (by simp)) (hf f List.mem_cons_self) (by simp [fieldLength, tblStations, h8]),
      split_whole h8 fs (k + 1) (fun n h1 h2 => hb n (by omega) (by simp; omega)) fun g hg => hf g
          (List.mem_cons_of_mem _ hg)]
    rfl

/-- A full write of a table but STATIONS, RADIO_CFG and ADMISSION reaches its owner, whose answer it gives. -/
theorem written_whole {t i n : Nat} {fields : List (List Byte)} {p : Part} {h : ReqHeader} {w : List Instr}
    (ht : p.takes 0x11 h = true) (h14 : t < 14) (h8 : t ≠ 8) (h9 : t ≠ 9) (h13 : t ≠ 13)
    (hd : directory[t]? = some n) (hi : i < n)
    (hs : fields.map List.length = fieldSizes t) (hf : ∀ f ∈ fields, f ≠ []) (hlen : 1 ≤ fields.flatten.length)
    (hle : fields.flatten.length ≤ 52) :
    exec (.tableWrite h t i (2 ^ fields.length - 1) fields.flatten) ⟨p, w⟩ = .next ⟨answered 0x11 h
      (ownerWrite t i (fields.map some) p).1 []
      (noteReports p (if (ownerWrite t i (fields.map some) p).1 == .ok then
        afterWrite t (cleanEntry t i (ownerWrite t i (fields.map some) p).2) else
            (ownerWrite t i (fields.map some) p).2)), w⟩ := by
  rw [write_taken ht hlen hle]
  have hlen' : fields.length = (fieldSizes t).length := by rw [← hs]; simp
  have hpos : 1 ≤ (fieldSizes t).length := by
    rw [← hlen']
    rcases fields with _ | _ <;> simp at hlen ⊢
  have hpow : 2 ≤ 2 ^ (fieldSizes t).length := by
    calc 2 = 2 ^ 1 := rfl
      _ ≤ _ := Nat.pow_le_pow_right (by decide) hpos
  have hm : maskOk t (2 ^ fields.length - 1) = true := by
    rw [hlen']; simp [maskOk]; omega
  have hfm : fullMask t (2 ^ fields.length - 1) = true := by rw [hlen']; simp [fullMask]
  have hsp : splitFields t (2 ^ fields.length - 1) (fieldSizes t).zipIdx fields.flatten = some (fields.map some) := by
    rw [← hs]
    refine split_whole h8 fields 0 (fun k _ hk => ?_) hf
    simp [Nat.testBit_two_pow_sub_one]; omega
  have htw : tableWrite t i (2 ^ fields.length - 1) fields.flatten p = takeWrite t i (2 ^ fields.length - 1)
      (fields.map some) p := by
    have h14' : ¬ 14 ≤ t := by omega
    have hi' : ¬ n ≤ i := by omega
    unfold tableWrite; rw [hd]
    have hro : readReplaced t i p = p := by simp [readReplaced, comparesOld, h8, h13]
    simp only [h14', hi', hm, hsp, hfm, hro, if_false, if_true, Bool.not_true, Bool.false_eq_true]
  have hw : writing t (tableWrite t i (2 ^ fields.length - 1) fields.flatten) p
      = reporting (tableWrite t i (2 ^ fields.length - 1) fields.flatten) p := by
    unfold writing; simp [h8, h9]
  rw [hw]
  simp only [reporting, answer, htw, takeWrite, hfm, if_true]
  by_cases hok : ((ownerWrite t i (fields.map some) p).1 == .ok) = true
  · rw [if_pos hok, if_pos hok]; rw [beq_iff_eq] at hok; rw [hok]
  · rw [if_neg hok, if_neg hok]

/-- The value of a written byte. -/
theorem valueOf_byte1 {n : Nat} (h : n < 256) : valueOf (byte1 n) = n := by simp [valueOf, byte1]; omega

/-- The value of a written word. -/
theorem valueOf_byte2 {n : Nat} (h : n < 65536) : valueOf (byte2 n) = n := by simp [valueOf, byte2]; omega

/-- The value of four written bytes. -/
theorem valueOf_byte4 {n : Nat} (h : n < 4294967296) : valueOf (byte4 n) = n := by
  simp [valueOf, byte4, byte2]; omega

/-- The value of a written flag. -/
theorem valueOf_flag (b : Bool) : valueOf (byte1 (codeOfBool b)) = codeOfBool b := by cases b <;> rfl

/-- The values of two bytes written in one field. -/
theorem valueAt_pair {a b : Nat} (ha : a < 256) (hb : b < 256) : valueAt (byte1 a ++ byte1 b) 0 1 = a ∧ valueAt
    (byte1 a ++ byte1 b) 1 1 = b := by
  constructor
  · simp [valueAt, valueOf, byte1]; omega
  · simp [valueAt, valueOf, byte1]; omega

/-- ZONES, written whole: taken where each value lies in its range (R20). -/
theorem writeZone_whole (z : ZoneId) (c : ZoneCfg) (p : Part) (h1 : c.attack < 256) (h2 : c.release < 256)
    (h3 : c.promptOffset < 256)
    (h4 : c.callOffset < 256) (h5 : c.followOffset < 256) (h6 : c.rearQuiet < 65536) (h7 : c.compStep < 256)
        (h8 : c.compMax < 256) :
    writeZone z ((zoneCfgFields c).map some) p = if
            (1 ≤ c.attack ∧ c.attack ≤ 64 ∧ 1 ≤ c.release ∧ c.release ≤ 64 ∧ c.promptOffset ≤ 96 ∧ c.callOffset ≤ 96
              ∧ c.followOffset ≤ 96 ∧ c.rearQuiet ≤ 384 ∧ c.compStep ≤ 8 ∧ c.compMax ≤ 96
              ∧ (z.follows = false → c.followOffset = 0) ∧ (z ≠ .rearCabin → c.rearQuiet = 0)
              ∧ (z ≠ .cargo → c.cargoAuto = false) ∧ (z ≠ .front → c.compStep = 0 ∧ c.compMax = 0)) then
      (.ok, { p with tst := { p.tst with zones := p.tst.zones.set z c } }) else (.badValue, p) := by
  unfold writeZone
  simp only [zoneCfgFields, valueOr, List.map_cons, List.map_nil, List.getD_cons_zero, List.getD_cons_succ,
      valueOf_byte1 h1, valueOf_byte1 h2, valueOf_byte1 h3, valueOf_byte1 h4, valueOf_byte1 h5,
    valueOf_byte2 h6, valueOf_byte1 h7, valueOf_byte1 h8, valueOf_flag]
  have hb : ∀ b : Bool, (codeOfBool b == 1) = b := by intro b; cases b <;> rfl
  have hb1 : ∀ b : Bool, codeOfBool b ≤ 1 := by intro b; cases b <;> decide
  have hb0 : ∀ b : Bool, (codeOfBool b == 0) = !b := by intro b; cases b <;> rfl
  simp only [hb, hb1, hb0]
  congr 1
  simp only [Bool.and_eq_true, Bool.or_eq_true, decide_eq_true_eq, beq_iff_eq, Bool.not_eq_true', eq_iff_iff]
  cases hf : z.follows <;> by_cases a : z = .rearCabin <;> by_cases b : z = .cargo <;> by_cases d : z
      = .front <;> simp [a, b, d] <;> tauto

/-- DUCKS, written whole (R32). -/
theorem writeDuck_whole (i : Nat) (c : PerZone Nat) (p : Part) (hc : ∀ z, c.get z < 65536) :
    writeDuck i ((c.toList.map byte2).map some) p = if ∀ x ∈ c.toList, x ≤ 384 then
      (.ok, { p with tst := { p.tst with ducks := p.tst.ducks.set i c } }) else (.badValue, p) := by
  unfold writeDuck
  have : (PerZone.of fun z => valueOr ((c.toList.map byte2).map some) (zoneCode z)
      ((p.tst.ducks.getD i (.of fun _ => 0)).get z)) = c := by
    obtain ⟨a, b, d, e, f, g⟩ := c
    have ha := hc .front; have hb := hc .rearCabin; have hd := hc .hpLeft; have he := hc .hpRight
    have hf := hc .cargo; have hg := hc .driver
    simp only [PerZone.get] at ha hb hd he hf hg
    simp only [PerZone.of, PerZone.toList, valueOr, zoneCode, List.map_cons, List.map_nil, List.getD_cons_zero,
        List.getD_cons_succ,
      valueOf_byte2 ha, valueOf_byte2 hb, valueOf_byte2 hd, valueOf_byte2 he, valueOf_byte2 hf, valueOf_byte2 hg]
  dsimp only
  rw [this]
  congr 1
  simp only [List.all_eq_true, decide_eq_true_eq]

/-- SEATS, written whole (R140, R141). -/
theorem writeSeat_whole (k : Seat) (c : SeatCfg) (p : Part) (h1 : c.mic1 < 256) (h2 : ∀ n, c.mic2 = some n → n < 255)
    (h3 : c.gain < 65536) (h4 : c.window < 256) :
    writeSeat k ((seatFields c).map some) p = if
      (c.mic1 ≤ 5 ∧ (∀ n, c.mic2 = some n → n ≤ 5 ∧ n ≠ c.mic1) ∧ c.gain ≤ 384 ∧ 4 ≤ c.window ∧ c.window ≤ 64) then
      (.ok, { p with tst := { p.tst with seats := p.tst.seats.set k c }
                     clp := { p.clp with
                       seats := p.clp.seats.set k { p.seat k with meterOpen := false, meterSum := 0 } } })
      else (.badValue, p) := by
  have e1 : valueAt (byte1 c.mic1 ++ byte1 (codeOfOption c.mic2 255)) 0 1 = c.mic1 := by
    simp [valueAt, valueOf, byte1]; omega
  have e2 : valueAt (byte1 c.mic1 ++ byte1 (codeOfOption c.mic2 255)) 1 1 = codeOfOption c.mic2 255 := by
    cases hm : c.mic2 with
    | none => rfl
    | some n => have := h2 n hm; simp [valueAt, valueOf, byte1, codeOfOption]; omega
  unfold writeSeat
  simp only [seatFields, valueOr, partOr, named, List.map_cons, List.map_nil, List.getD_cons_zero,
      List.getD_cons_succ, e1, e2, valueOf_byte2 h3, valueOf_byte1 h4,
    Option.isSome_some, if_true]
  have e3 : optionOf (codeOfOption c.mic2 255) = c.mic2 := by
    cases hm : c.mic2 with
    | none => rfl
    | some n =>
      have := h2 n hm
      have h0 : n ≠ 255 := by omega
      simp [codeOfOption, optionOf, h0]
  rw [e3]
  have hcond : ((decide (c.mic1 ≤ 5) && optBelow
      (codeOfOption c.mic2 255) 6 && c.mic1 != codeOfOption c.mic2 255 && decide (c.gain ≤ 384)
      && decide (4 ≤ c.window) && decide (c.window ≤ 64)) = true) ↔
          (c.mic1 ≤ 5 ∧ (∀ n, c.mic2 = some n → n ≤ 5 ∧ n ≠ c.mic1) ∧ c.gain ≤ 384 ∧ 4 ≤ c.window
          ∧ c.window ≤ 64) := by
    simp only [Bool.and_eq_true, decide_eq_true_eq, bne_iff_ne, ne_eq, optBelow, Bool.or_eq_true, beq_iff_eq]
    cases hm : c.mic2 with
    | none => simp [codeOfOption]; omega
    | some n => have := h2 n hm; simp [codeOfOption]; omega
  by_cases hok : (c.mic1 ≤ 5 ∧ (∀ n, c.mic2 = some n → n ≤ 5 ∧ n ≠ c.mic1) ∧ c.gain ≤ 384 ∧ 4 ≤ c.window
      ∧ c.window ≤ 64)
  · rw [if_pos (hcond.mpr hok), if_pos hok]; rfl
  · rw [if_neg (fun h => hok (hcond.mp h)), if_neg hok]

/-- A set of zones is read back from its code. -/
theorem zoneSetOf_code (s : ZoneSet) : zoneSetOf (zoneSetCode s) = some s ∧ zoneSetCode s < 256 := by
  obtain ⟨a, b, c, d, e, f⟩ := s
  cases a <;> cases b <;> cases c <;> cases d <;> cases e <;> cases f <;> decide

/-- CALL_CFG, written whole (R130). -/
theorem writeCall_whole (c : CallCfg) (p : Part) (h1 : c.level < 65536) (h2 : c.ringPattern < 256)
    (h3 : c.navDuck < 256) (h4 : c.gateLevel < 256)
    (h5 : c.switchMargin < 256) (h6 : c.talkerHold < 65536) (h7 : c.gateAtt < 65536) (h8 : c.uplinkBase < 65536)
        (h9 : c.convErle < 256)
    (h10 : c.divErle < 256) :
    writeCall ((callFields c).map some) p = if
            (c.level ≤ 384 ∧ c.defaultZones.cargo = false ∧ c.ringPattern ≤ 15 ∧ c.navDuck ≤ 96 ∧ c.gateLevel ≤ 240
              ∧ c.switchMargin ≤ 240 ∧ 16 ≤ c.talkerHold ∧ c.talkerHold ≤ 5000 ∧ c.gateAtt ≤ 384 ∧ c.uplinkBase ≤ 384
              ∧ c.convErle ≤ 160 ∧ c.divErle ≤ c.convErle) then
      (.ok, { p with tst := { p.tst with call := c } }) else (.badValue, p) := by
  obtain ⟨z1, z2⟩ := zoneSetOf_code c.defaultZones
  unfold writeCall
  simp only [callFields, valueOr, List.map_cons, List.map_nil, List.getD_cons_zero, List.getD_cons_succ,
      valueOf_byte2 h1, valueOf_byte1 h2, valueOf_byte1 h3, valueOf_byte1 h4, valueOf_byte1 h5, valueOf_byte2 h6,
    valueOf_byte2 h7, valueOf_byte2 h8, valueOf_byte1 h9, valueOf_byte1 h10, valueOf_byte1 z2, z1]
  congr 1
  simp only [Bool.and_eq_true, decide_eq_true_eq, Bool.not_eq_true', eq_iff_iff]
  tauto

/-- CHIMES, written whole (R110). -/
theorem writeChime_whole (i : Nat) (c : Pattern) (p : Part) (hc : c.segments.length = 8)
    (hp : (p.tst.chimes.getD i {}).segments.length = 8)
    (h1 : c.count < 256) (h2 : c.repeats < 256) (h3 : ∀ s ∈ c.segments, s.freq < 65536 ∧ s.duration < 65536
        ∧ s.level < 65536) :
    writeChime i ((chimeFields c).map some) p = if
            (1 ≤ c.count ∧ c.count ≤ 8 ∧ 1 ≤ c.repeats ∧ ∀ s ∈ c.segments,
              (s.freq = 0 ∨ (100 ≤ s.freq ∧ s.freq ≤ 8000)) ∧ 1 ≤ s.duration ∧ s.duration ≤ 2000 ∧ s.level ≤ 384) then
      (.ok, { p with tst := { p.tst with chimes := p.tst.chimes.set i c } }) else (.badValue, p) := by
  have e1 : valueAt (byte1 c.count ++ byte1 c.repeats) 0 1 = c.count := by simp [valueAt, valueOf, byte1]; omega
  have e2 : valueAt (byte1 c.count ++ byte1 c.repeats) 1 1 = c.repeats := by simp [valueAt, valueOf, byte1]; omega
  have hss : ((p.tst.chimes.getD i {}).segments.zipIdx.map fun x => writtenSegment ((chimeFields c).map some)
      (x.2 + 1) x.1) = c.segments := by
    apply List.ext_getElem
    · simp only [List.length_map, List.length_zipIdx, hc, hp]
    · intro n hn hn'
      simp only [List.getElem_map, List.getElem_zipIdx, Nat.zero_add]
      have hs := h3 c.segments[n] (List.getElem_mem hn')
      have hget : ((chimeFields c).map some).getD (n + 1) none
          = some (byte2 c.segments[n].freq ++ byte2 c.segments[n].duration ++ byte2 c.segments[n].level) := by
        have hn2 : n + 1 < ((chimeFields c).map some).length := by simp [chimeFields]; omega
        rw [List.getD_eq_getElem?_getD, List.getElem?_eq_getElem hn2]
        simp [chimeFields]
      generalize c.segments[n] = s at hs hget ⊢
      unfold writtenSegment partOr
      rw [hget]
      dsimp only
      obtain ⟨a, b, d⟩ := hs
      have x1 : valueAt (byte2 s.freq ++ byte2 s.duration ++ byte2 s.level) 0 2 = s.freq := by
        simp [valueAt, valueOf, byte2, List.range_succ]; omega
      have x2 : valueAt (byte2 s.freq ++ byte2 s.duration ++ byte2 s.level) 2 2 = s.duration := by
        simp [valueAt, valueOf, byte2, List.range_succ]; omega
      have x3 : valueAt (byte2 s.freq ++ byte2 s.duration ++ byte2 s.level) 4 2 = s.level := by
        simp [valueAt, valueOf, byte2, List.range_succ]; omega
      rw [x1, x2, x3]
  unfold writeChime
  dsimp only
  rw [hss]
  have p1 : partOr ((chimeFields c).map some) 0 0 1 (p.tst.chimes.getD i {}).count = c.count := e1
  have p2 : partOr ((chimeFields c).map some) 0 1 1 (p.tst.chimes.getD i {}).repeats = c.repeats := e2
  rw [p1, p2]
  congr 1
  simp only [Bool.and_eq_true, decide_eq_true_eq, List.all_eq_true, segmentOk, Bool.or_eq_true, beq_iff_eq,
      eq_iff_iff]
  constructor
  · rintro ⟨⟨⟨⟨a, b⟩, d⟩, _⟩, e⟩
    exact ⟨a, b, d, fun s hs => ⟨(e s hs).1.1.1, (e s hs).1.1.2, (e s hs).1.2, (e s hs).2⟩⟩
  · rintro ⟨a, b, d, e⟩
    exact ⟨⟨⟨⟨a, b⟩, d⟩, by omega⟩, fun s hs => ⟨⟨⟨(e s hs).1, (e s hs).2.1⟩, (e s hs).2.2.1⟩, (e s hs).2.2.2⟩⟩

/-- The two answers of a table's owner, carried to the command. -/
theorem written_owner {t i n : Nat} {fields : List
    (List Byte)} {p q0 : Part} {h : ReqHeader} {w : List Instr} {ok : Prop} [Decidable ok]
    (ht : p.takes 0x11 h = true) (h14 : t < 14) (h8 : t ≠ 8) (h9 : t ≠ 9) (h13 : t ≠ 13)
    (hd : directory[t]? = some n) (hi : i < n)
    (hs : fields.map List.length = fieldSizes t) (hf : ∀ f ∈ fields, f ≠ []) (hlen : 1 ≤ fields.flatten.length)
    (hle : fields.flatten.length ≤ 52) (ho : ownerWrite t i (fields.map some) p = if ok then (.ok, q0) else
        (.badValue, p)) :
    (¬ ok → exec (.tableWrite h t i (2 ^ fields.length - 1) fields.flatten) ⟨p, w⟩ = .next
        ⟨answered 0x11 h .badValue [] p, w⟩)
    ∧ (ok → exec (.tableWrite h t i (2 ^ fields.length - 1) fields.flatten) ⟨p, w⟩
        = .next ⟨answered 0x11 h .ok [] (noteReports p (afterWrite t (cleanEntry t i q0))), w⟩) := by
  rw [written_whole ht h14 h8 h9 h13 hd hi hs hf hlen hle, ho]
  constructor
  · intro h; rw [if_neg h]
    show Host.Outcome.next (⟨answered 17 _ .badValue [] (noteReports p p), w⟩ : State) = _
    rw [noteReports_same fun _ => rfl]
  · intro h; rw [if_pos h]; rfl

/-- A write that leaves what the reports show queues no report. -/
theorem noteReports_store {p : Part} {s : Store} {c : Clp} (h1 : s.admission = p.tst.admission)
    (h2 : s.poisoned.contains ⟨tblAdmission, 0, 0⟩ = p.tst.poisoned.contains ⟨tblAdmission, 0, 0⟩)
    (h3 : s.poisoned.contains ⟨tblAdmission, 1, 0⟩ = p.tst.poisoned.contains ⟨tblAdmission, 1, 0⟩)
    (h4 : c.state = p.clp.state) (h5 : c.zones = p.clp.zones) (h6 : c.isPrivate = p.clp.isPrivate) :
    noteReports p { p with tst := s, clp := c } = { p with tst := s, clp := c } := by
  apply noteReports_same
  intro r
  have hp : Part.admissionPoisoned { p with tst := s, clp := c } r = p.admissionPoisoned r := by
    cases r
    · exact h2
    · exact h3
  have hm : membership { p with tst := s, clp := c } r = membership p r := by
    unfold membership; dsimp only; rw [h4, h5, h6]; rfl
  unfold reportView
  rw [hp, hm, h1]; rfl

/-- Clearing an entry's poisoning leaves the units of other tables. -/
theorem contains_cleaned {l : List MemUnit} {t i : Nat} {u : MemUnit} (h : u.table ≠ t) :
    (l.filter fun u => !(u.table == t && u.entry == i)).contains u = l.contains u := by
  rw [Bool.eq_iff_iff]; simp [h]

/-- The order of a curve, as Mathlib has it. -/
theorem descending_iff_pairwise : ∀ l : List Nat, descending l = true ↔ l.Pairwise fun a b => b ≤ a
  | [] => by simp [descending]
  | [a] => by simp [descending]
  | a :: b :: l => by
    rw [descending, Bool.and_eq_true, decide_eq_true_eq, descending_iff_pairwise (b :: l), List.pairwise_cons
        (a := a)]
    constructor
    · rintro ⟨h1, h2⟩
      refine ⟨fun c hc => ?_, h2⟩
      rcases List.mem_cons.mp hc with rfl | hc
      · exact h1
      · exact Nat.le_trans ((List.pairwise_cons.mp h2).1 c hc) h1
    · rintro ⟨h1, h2⟩; exact ⟨h1 b List.mem_cons_self, h2⟩

/-- The codes of a CURVES field are read back from its bytes. -/
theorem codesOf_bytes : ∀ (l : List Nat), (∀ c ∈ l, c < 65536) → codesOf (l.flatMap byte2) = l := by
  intro l
  have hlen : ∀ l : List Nat, (l.flatMap byte2).length = 2 * l.length := by
    intro l; induction l with
    | nil => rfl
    | cons a l ih => rw [List.flatMap_cons, List.length_append, ih]; simp [byte2]; omega
  unfold codesOf
  rw [hlen, Nat.mul_div_cancel_left _ (by decide)]
  induction l with
  | nil => intro _; rfl
  | cons a l ih =>
    intro h
    rw [List.length_cons, List.range_succ_eq_map, List.map_cons, List.map_map, List.flatMap_cons]
    congr 1
    · rw [Nat.mul_zero, valueAt_append_left _ _ _ _ (by simp [byte2])]; exact byte2_value (h a List.mem_cons_self)
    · conv_rhs => rw [← ih fun c hc => h c (List.mem_cons_of_mem _ hc)]
      apply List.map_congr_left
      intro k _
      have : 2 * (k + 1) = (byte2 a).length + 2 * k := by simp [byte2]; omega
      simp only [Function.comp_apply, Nat.succ_eq_add_one]
      rw [this, valueAt_append_right]

/-- RADIO_CFG, written whole, is read back from its fields. -/
theorem writtenRadio_whole (c old : RadioCfg) (h1 : c.fsFloor < 256) (h2 : c.blendLo < 256) (h3 : c.blendHi < 256)
    (h4 : c.muteHi < 256) (h5 : c.muteSlope < 256)
      (h6 : c.muteMax < 65536) (h7 : c.trim < 65536) (h8 : c.seekThreshold < 256) (h9 : c.scanThreshold < 256)
      (h10 : ∀ t n, c.addresses.get t = some n → n < 255) (h11 : c.afThreshold < 256) (h12 : c.afMargin < 256)
          (h13 : c.afHold < 65536)
      (h14 : c.afAge < 4294967296) (h15 : c.afBlindInterval < 4294967296) (h16 : c.bulletinLevel < 65536)
          (h17 : c.captureTrigger < 256) :
    writtenRadio ((radioFields c).map some) old c.bulletinZones = c ∧ partOr ((radioFields c).map some) 11 0 1
        (zoneSetCode old.bulletinZones) = zoneSetCode c.bulletinZones
      ∧ flagsOk ((radioFields c).map some) = true := by
  have hz := (zoneSetOf_code c.bulletinZones).2
  have e2 := valueAt_pair h2 h3
  have e5 := valueAt_pair h8 h9
  have e8 := valueAt_pair h11 h12
  have ha : ∀ a : Option Nat, (∀ n, a = some n → n < 255) → codeOfOption a 255 < 256 ∧ optionOf
      (codeOfOption a 255) = a := by
    intro a h
    cases a with
    | none => exact ⟨by decide, rfl⟩
    | some n =>
      have := h n rfl
      have h0 : n ≠ 255 := by omega
      exact ⟨by simp [codeOfOption]; omega, by simp [codeOfOption, optionOf, h0]⟩
  have aa := ha c.addresses.a (h10 .a)
  have ab := ha c.addresses.b (h10 .b)
  have e6 := valueAt_pair aa.1 ab.1
  have hb : ∀ b : Bool, codeOfBool b < 256 := by intro b; cases b <;> decide
  have e3 : valueAt (byte1 c.muteHi ++ byte1 c.muteSlope ++ byte2 c.muteMax) 0 1 = c.muteHi ∧
      valueAt (byte1 c.muteHi ++ byte1 c.muteSlope ++ byte2 c.muteMax) 1 1 = c.muteSlope ∧
      valueAt (byte1 c.muteHi ++ byte1 c.muteSlope ++ byte2 c.muteMax) 2 2 = c.muteMax := by
    refine ⟨?_, ?_, ?_⟩ <;> simp [valueAt, valueOf, byte1, byte2, List.range_succ] <;> omega
  have e7 : valueAt (byte1 (codeOfBool c.afEnable) ++ byte1 (codeOfBool c.background) ++ byte1
      (codeOfBool c.bulletins)) 0 1 = codeOfBool c.afEnable ∧
      valueAt (byte1 (codeOfBool c.afEnable) ++ byte1 (codeOfBool c.background) ++ byte1
          (codeOfBool c.bulletins)) 1 1 = codeOfBool c.background ∧
      valueAt (byte1 (codeOfBool c.afEnable) ++ byte1 (codeOfBool c.background) ++ byte1
          (codeOfBool c.bulletins)) 2 1 = codeOfBool c.bulletins := by
    cases c.afEnable <;> cases c.background <;> cases c.bulletins <;> decide
  have e12 : valueAt (byte1 (zoneSetCode c.bulletinZones) ++ byte2 c.bulletinLevel) 0 1
      = zoneSetCode c.bulletinZones ∧
      valueAt (byte1 (zoneSetCode c.bulletinZones) ++ byte2 c.bulletinLevel) 1 2 = c.bulletinLevel := by
    refine ⟨?_, ?_⟩ <;> simp [valueAt, valueOf, byte1, byte2, List.range_succ] <;> omega
  have hcb : ∀ b : Bool, (codeOfBool b != 0) = b := by intro b; cases b <;> rfl
  refine ⟨?_, e12.1, ?_⟩
  · simp only [writtenRadio, radioFields, valueOr, partOr, List.map_cons, List.map_nil, List.getD_cons_zero,
      List.getD_cons_succ, valueOf_byte1 h1, e2.1, e2.2, e3.1, e3.2.1, e3.2.2,
      valueOf_byte2 h7, e5.1, e5.2, e6.1, e6.2, e7.1, e7.2.1, e7.2.2, e8.1, e8.2, valueOf_byte2 h13,
          valueOf_byte4 h14, valueOf_byte4 h15, e12.2, valueOf_byte1 h17, aa.2, ab.2, hcb]
  · simp only [flagsOk, radioFields, List.map_cons, List.getD_cons_zero, List.getD_cons_succ]
    cases c.afEnable <;> cases c.background <;> cases c.bulletins <;> decide

/-- Starting the link moves a command from the queue to the link. -/
theorem startLink_only (c : Tuc) : ∃ l q, startLink c = { c with link := l, queue := q }
    ∧ l.toList ++ q = c.link.toList ++ c.queue := by
  unfold startLink
  split
  · rename_i h1 h2; exact ⟨_, _, rfl, by rw [h1, h2]; rfl⟩
  · exact ⟨_, _, rfl, rfl⟩

/-- A new address changes the link and its queue alone. -/
theorem readdress_only (old : PerTuner (Option Nat)) (p : Part) (t : TunerId) :
    ∃ tu, readdress old p t = { p with tuc := tu }
      ∧ (∀ u, (tu.tuners.get u).claims = (p.tuner u).claims ∧ (tu.tuners.get u).state = (p.tuner u).state
          ∧ (tu.tuners.get u).scoring = (p.tuner u).scoring ∧ (tu.tuners.get u).retry.isSome =
              (p.tuner u).retry.isSome)
      ∧ (p.tst.radio.addresses.get t = old.get t → tu = p.tuc)
      ∧ (p.tst.radio.addresses.get t ≠ old.get t → p.hasAddress t = true → (p.tuner t).state ≠ .fault →
          (p.tuner t).retry = none →
          (t, LinkCmd.standby) ∈ tu.link.toList ++ tu.queue)
      ∧ ∀ u, u ≠ t → (u, LinkCmd.standby) ∈ p.tuc.link.toList ++ p.tuc.queue →
          (u, LinkCmd.standby) ∈ tu.link.toList ++ tu.queue := by
  unfold readdress
  by_cases he : p.tst.radio.addresses.get t = old.get t
  · rw [if_pos (by rw [beq_iff_eq]; exact he)]
    exact ⟨p.tuc, rfl, fun _ => ⟨rfl, rfl, rfl, rfl⟩, fun _ => rfl, fun h => absurd he h, fun u _ h => h⟩
  · rw [if_neg (by rw [beq_iff_eq]; exact he)]
    dsimp only
    have hq : ∀ u, u ≠ t → (u, LinkCmd.standby) ∈ p.tuc.link.toList ++ p.tuc.queue →
        (u, LinkCmd.standby) ∈ p.tuc.link.toList ++ p.tuc.queue.filter fun x => x.1 != t := by
      intro u hu h
      rcases List.mem_append.mp h with h | h
      · exact List.mem_append_left _ h
      · exact List.mem_append_right _ (List.mem_filter.mpr ⟨h, by simpa using hu⟩)
    unfold issue
    split
    · rename_i hno
      refine ⟨_, rfl, fun _ => ⟨rfl, rfl, rfl, rfl⟩, fun h => absurd h he, fun _ ha hs => ?_, hq⟩
      exfalso
      simp only [Bool.or_eq_true, Bool.not_eq_true', beq_iff_eq] at hno
      rcases hno with hno | hno
      · have : p.hasAddress t = false := hno
        rw [ha] at this; cases this
      · exact hs hno
    · split
      · rename_i hre
        refine ⟨_, rfl, fun u => ?_, fun h => absurd h he, fun _ _ _ hn => ?_, fun u hu h => ?_⟩
        · simp only [PerTuner.get_set]; split
          · subst_vars; exact ⟨rfl, rfl, rfl, by show true = _; exact hre.symm⟩
          · exact ⟨rfl, rfl, rfl, rfl⟩
        · have : (p.tuner t).retry.isSome = true := hre
          rw [hn] at this; cases this
        · exact hq u hu h
      · obtain ⟨l, q, e, hm⟩ := startLink_only
          { p.tuc with queue := (p.tuc.queue.filter fun x => x.1 != t).filter (fun x => x.1 != t) ++ [(t, .standby)] }
        refine ⟨_, rfl, fun u => ?_, fun h => absurd h he, fun _ _ _ _ => ?_, fun u hu h => ?_⟩
        · rw [e]; exact ⟨rfl, rfl, rfl, rfl⟩
        · rw [e]; show _ ∈ l.toList ++ q; rw [hm]; simp
        · rw [e]; show _ ∈ l.toList ++ q; rw [hm]
          have := hq u hu h
          rcases List.mem_append.mp this with h | h
          · exact List.mem_append_left _ h
          · refine List.mem_append_right _ (List.mem_append_left _ (List.mem_filter.mpr ⟨h, by simpa using hu⟩))

/-- A write of some fields of an entry of the inactive bank (R40, R41). -/
theorem render_write {h : ReqHeader} {bank : BankId} {i m : Nat} {e : RenderEntry} {p : Part} {w : List Instr}
    {vs : List Byte} {fs : Fields} (ht : p.takes 0x11 h = true) (hl : p.tst.latent = []) (hx : p.rmx.crossfade = none)
    (ha : p.rmx.active ≠ bank) (hi : i < 32) (hp : p.entryPoisoned (bankTable bank) i = false)
    (he : (p.bank bank)[i]? = some e) (hm : maskOk (bankTable bank) m = true)
        (hf : fullMask (bankTable bank) m = false)
    (hs : splitFields (bankTable bank) m (fieldSizes (bankTable bank)).zipIdx vs = some fs)
    (h1 : 1 ≤ vs.length) (h2 : vs.length ≤ 52) :
    exec (.tableWrite h (bankTable bank) i m vs) ⟨p, w⟩
      = match writtenContributions fs 3 e.contribs with
        | some cs =>
          if valueOr fs 0 (codeOfBool e.enabled) ≤ 1 ∧ valueOr fs 1 e.delay ≤ 1023 ∧ valueOr fs 2 e.count ≤ 4 then
            .next ⟨answered 0x11 h .ok [] (p.setBank bank ((p.bank bank).set i (settleTrims p.rmx.tailgateOpen
              { enabled := valueOr fs 0 (codeOfBool e.enabled) == 1, delay := valueOr fs 1 e.delay
                count := valueOr fs 2 e.count, contribs := cs }))), w⟩
          else .next ⟨answered 0x11 h .badValue [] p, w⟩
        | none => .next ⟨answered 0x11 h .badValue [] p, w⟩ := by
  have hd : directory[bankTable bank]? = some 32 := by cases bank <;> rfl
  have hb : bankRefusal bank p = none := by simp [bankRefusal, hx, ha]
  have hbo : bankOf (bankTable bank) = some bank := by cases bank <;> rfl
  have hnc : (bankTable bank != tblCurves) = true := by cases bank <;> rfl
  have hge : (p.bank bank).getD i {} = e := by simp [List.getD, he]
  have hmc : mergeCheck (bankTable bank) i m p = p := by
    have : (bankTable bank == tblCurves) = false := by cases bank <;> rfl
    simp [mergeCheck, this, hl]
  have how : ownerWrite (bankTable bank) i fs p = writeRender bank i fs p := by cases bank <;> rfl
  have haw : ∀ q, afterWrite (bankTable bank) q = q := by intro q; cases bank <;> rfl
  have hw : tableWrite (bankTable bank) i m vs p = writeRender bank i fs p := by
    unfold tableWrite; rw [hd]
    have h14 : ¬ 14 ≤ bankTable bank := by cases bank <;> decide
    have h32 : ¬ 32 ≤ i := by omega
    simp only [h14, h32, if_false, hm, hs, hf, hp, Bool.not_true, Bool.and_false, Bool.false_eq_true]
    simp [mergeWrite, hbo, hb, hmc, hl, takeWrite, hf, how, haw]
    exact fun h => by rw [← h]
  rw [write_taken ht h1 h2]
  have hwr : writing (bankTable bank) (tableWrite (bankTable bank) i m vs) p
      = reporting (tableWrite (bankTable bank) i m vs) p := by cases bank <;> rfl
  rw [hwr]
  have hsame : noteReports p p = p := noteReports_same fun _ => rfl
  unfold writeRender at hw
  rw [hb] at hw
  simp only [hge] at hw
  have hrv : ∀ es, noteReports p (p.setBank bank es) = p.setBank bank es := by
    intro es; apply noteReports_same; intro r; cases bank <;> rfl
  simp only [reporting, hw, answer]
  cases hc : writtenContributions fs 3 e.contribs with
  | none => simp [hsame]
  | some cs =>
    by_cases hv : valueOr fs 0 (codeOfBool e.enabled) ≤ 1 ∧ valueOr fs 1 e.delay ≤ 1023 ∧ valueOr fs 2 e.count ≤ 4
    · simp [hv, hrv]
    · have hb' : (decide (valueOr fs 0 (codeOfBool e.enabled) ≤ 1) && decide (valueOr fs 1 e.delay ≤ 1023)
          && decide (valueOr fs 2 e.count ≤ 4)) = false := by
        rw [Bool.eq_false_iff]; simpa [and_assoc] using hv
      simp [hv, hb', hsame]

/-- What an entry stored with its applied trims settled holds (R40, R45). -/
theorem settled_entry {bank : BankId} {i : Nat} {e new : RenderEntry} {p : Part} (he : (p.bank bank)[i]? = some e) :
    let q := p.setBank bank ((p.bank bank).set i (settleTrims p.rmx.tailgateOpen new))
    ∃ e', (q.bank bank)[i]? = some e' ∧ { e' with contribs := new.contribs } = new
        ∧ e'.contribs.length = new.contribs.length
        ∧ (∀ (k : Nat) c, new.contribs[k]? = some c → ∃ c', e'.contribs[k]? = some c' ∧
            { c' with applied := c.applied } = c
            ∧ (k < new.count → c'.applied = if p.rmx.tailgateOpen then c.trimOpen else c.trimClosed))
        ∧ (∀ j, j ≠ i → (q.bank bank)[j]? = (p.bank bank)[j]?) ∧ q = p.setBank bank (q.bank bank) := by
  intro q
  have hq : q.bank bank = (p.bank bank).set i (settleTrims p.rmx.tailgateOpen new) := by cases bank <;> rfl
  have hlt : i < (p.bank bank).length := (List.getElem?_eq_some_iff.mp he).1
  refine ⟨settleTrims p.rmx.tailgateOpen new, by rw [hq]; simp [hlt], rfl, by simp [settleTrims], ?_, ?_, ?_⟩
  · intro k c hc
    refine ⟨{ c with applied := if k < new.count then columnTrim p.rmx.tailgateOpen c else 0 }, ?_, rfl, ?_⟩
    · simp [settleTrims, hc]
    · intro hk; simp [hk, columnTrim]
  · intro j hj; rw [hq]; exact List.getElem?_set_ne (Ne.symm hj)
  · rw [hq]

end Sys2Proof.Machine
end

