-- ==== Sys2Proof/Tests/Slice0.lean ====
section
/-! SUPPORT. The model's own tests: a smoke test of every check of WellFormed, the spec's worked figures, one step of
some commands, and for each statement with hypotheses a witness that meets them. -/

open Sys2Proof Sys2Proof.Machine

set_option Elab.async false

namespace Sys2Proof.Tests

/-! ### Small states -/

/-- A request of the head unit. -/
def hdr : ReqHeader := ⟨0, 1⟩
/-- A request of another node. -/
def hdr5 : ReqHeader := ⟨5, 1⟩
/-- A free frame of silence. -/
def quietFrame : Frame := ⟨false, List.replicate 4 0, List.replicate 48 0, 0⟩
/-- Six silent microphones. -/
def mics0 : List Sample := List.replicate 6 0
/-- The part on the ring, in REDUCED, with bus addresses for both tuners and no background cycle. -/
def up : Part :=
  { rif := { joined := true, joinCount := 48 }
    tst := { radio := { addresses := ⟨some 0x60, some 0x61⟩, background := false } } }
/-- The same in ACTIVE. -/
def act : Part := { up with pwc := { mode := .active, ignition := .on } }
/-- The same in DORMANT. -/
def dorm : Part := { up with pwc := { mode := .dormant, dormantCause := some .powerDown } }
/-- FM 90.0 and FM 95.0. -/
def fm90 : Chan := ⟨.fm, 9000⟩
def fm95 : Chan := ⟨.fm, 9500⟩
/-- A station on both. -/
def station1 : Station :=
  { code := 7, band := .fm, items := [⟨9000, some 20, some 1⟩, ⟨9500, some 80, some 1⟩], favourite := some 12, capable := true }
/-- A tuner that plays FM 90.0 for FRONT, and the zone. -/
def player : Tuner :=
  { state := .playing, chan := some fm90, claims := [⟨.front, false⟩], heard := some 7, acked := true, done := true }
def listener : Zone := { state := .playing, source := .radio, chan := some fm90, station := some 47, att := some .a }
/-- FRONT plays FM 90.0 on tuner A, alone, with the code of `station1` heard. -/
def playing : Part :=
  { act with
    tuc := { tuners := ⟨player, {}⟩ }
    zmx := { zones := PerZone.set (.of fun _ => {}) .front listener } }
/-- The station table with one entry, at the last index. -/
def listed (p : Part) : Part :=
  { p with tst := { p.tst with stations := List.replicate 47 {} ++ [{ entry := some station1 }] } }
/-- A navigation prompt. -/
def nav1 : Prompt :=
  { tag := 9, cls := .nav, source := .navVoice, zones := .of fun _ => true, level := 0, maxDuration := some 10, front := false }
/-- The part that a command leaves, where it answers a next state. -/
def after (c : Instr) (p : Part) : Part :=
  match exec c ⟨p, []⟩ with
  | .next s => s.part
  | _ => p

/-! ### The wires: every check of WellFormed refuses a term that breaks it -/

theorem test_wf_accepts_boundaries :
    (Instr.powerOn 63).wellFormed ∧ (Instr.validFrame quietFrame mics0).wellFormed
      ∧ (Instr.tableWrite ⟨63, 255⟩ 255 255 65535 (List.replicate 52 0)).wellFormed
      ∧ (Instr.zoneOffset hdr 1 (-32768)).wellFormed ∧ (Instr.hpStation .left 0x82).wellFormed
      ∧ (Instr.scrubVisit [⟨⟨6, 31, 4⟩, true, false⟩, ⟨⟨4, 1, 1⟩, false, false⟩, ⟨⟨8, 47, 0⟩, true, true⟩]).wellFormed := by decide +kernel
theorem test_wf_refuses_straps : (Instr.powerOn 64).wellFormed = false := by decide
theorem test_wf_refuses_frames :
    (Instr.validFrame { quietFrame with lane := [] } mics0).wellFormed = false
      ∧ (Instr.badFrame { quietFrame with slots := [] } mics0).wellFormed = false
      ∧ (Instr.validFrame { quietFrame with slots := 8388608 :: List.replicate 47 0 } mics0).wellFormed = false
      ∧ (Instr.validFrame quietFrame (List.replicate 5 0)).wellFormed = false
      ∧ (Instr.badFrame quietFrame (-8388609 :: List.replicate 5 0)).wellFormed = false := by decide +kernel
theorem test_wf_refuses_headers :
    (Instr.identify ⟨64, 0⟩).wellFormed = false ∧ (Instr.reset ⟨0, 256⟩).wellFormed = false := by decide
theorem test_wf_refuses_table_operands :
    (Instr.tableRead hdr 256 0 0 0 0).wellFormed = false ∧ (Instr.tableRead hdr 0 256 0 0 0).wellFormed = false
      ∧ (Instr.tableRead hdr 0 0 256 0 0).wellFormed = false ∧ (Instr.tableRead hdr 0 0 0 65536 0).wellFormed = false
      ∧ (Instr.tableRead hdr 0 0 0 0 256).wellFormed = false ∧ (Instr.tableWrite hdr 256 0 0 []).wellFormed = false
      ∧ (Instr.tableWrite hdr 0 256 0 []).wellFormed = false ∧ (Instr.tableWrite hdr 0 0 65536 []).wellFormed = false
      ∧ (Instr.tableWrite hdr 0 0 0 (List.replicate 53 0)).wellFormed = false := by decide
theorem test_wf_refuses_bytes :
    (Instr.tableClear hdr 256).wellFormed = false ∧ (Instr.zonePower hdr 256 0).wellFormed = false
      ∧ (Instr.zonePower hdr 0 256).wellFormed = false := by decide
theorem test_wf_refuses_words :
    (Instr.zoneOffset hdr 256 0).wellFormed = false ∧ (Instr.zoneOffset hdr 0 (-32769)).wellFormed = false
      ∧ (Instr.zoneOffset hdr 0 32768).wellFormed = false ∧ (Instr.promptEnd hdr 65536).wellFormed = false := by decide
theorem test_wf_refuses_tune :
    (Instr.tune hdr 256 0 0 0).wellFormed = false ∧ (Instr.tune hdr 0 256 0 0).wellFormed = false
      ∧ (Instr.tune hdr 0 0 256 0).wellFormed = false ∧ (Instr.tune hdr 0 0 0 65536).wellFormed = false := by decide
theorem test_wf_refuses_pushes :
    (Instr.promptPush hdr 65536 0 0 1 0 1 0).wellFormed = false
      ∧ (Instr.promptPush hdr 1 256 0 1 0 1 0).wellFormed = false
      ∧ (Instr.promptPush hdr 1 0 256 1 0 1 0).wellFormed = false
      ∧ (Instr.promptPush hdr 1 0 0 256 0 1 0).wellFormed = false
      ∧ (Instr.promptPush hdr 1 0 0 1 65536 1 0).wellFormed = false
      ∧ (Instr.promptPush hdr 1 0 0 1 0 4294967296 0).wellFormed = false
      ∧ (Instr.promptPush hdr 1 0 0 1 0 1 256).wellFormed = false := by decide
theorem test_wf_refuses_broadcasts :
    (Instr.vehicleState 64 0 0 0).wellFormed = false ∧ (Instr.vehicleState 0 256 0 0).wellFormed = false
      ∧ (Instr.vehicleState 0 0 65536 0).wellFormed = false ∧ (Instr.vehicleState 0 0 0 256).wellFormed = false
      ∧ (Instr.ringTime 64 0).wellFormed = false ∧ (Instr.ringTime 0 4294967296).wellFormed = false
      ∧ (Instr.resetBroadcast 64).wellFormed = false := by decide
theorem test_wf_refuses_upsets :
    (Instr.scrubVisit [⟨⟨14, 0, 0⟩, true, false⟩]).wellFormed = false
      ∧ (Instr.scrubVisit [⟨⟨0, 24, 0⟩, true, false⟩]).wellFormed = false
      ∧ (Instr.scrubVisit [⟨⟨4, 0, 2⟩, true, false⟩]).wellFormed = false
      ∧ (Instr.scrubVisit [⟨⟨6, 0, 5⟩, true, false⟩]).wellFormed = false
      ∧ (Instr.scrubVisit [⟨⟨0, 0, 1⟩, true, false⟩]).wellFormed = false
      ∧ (Instr.scrubVisit [⟨⟨7, 0, 0⟩, true, true⟩]).wellFormed = false := by decide
theorem test_wf_refuses_tuner_words :
    (Instr.qualityReport .a 128 0 0 true true).wellFormed = false
      ∧ (Instr.qualityReport .a 0 256 0 true true).wellFormed = false
      ∧ (Instr.qualityReport .a 0 0 256 true true).wellFormed = false
      ∧ (Instr.tunerAudioSample .b 8388608 0).wellFormed = false
      ∧ (Instr.tunerAudioSample .b 0 (-8388609)).wellFormed = false
      ∧ (Instr.servicePacket .a true (.ident 65536 true true)).wellFormed = false
      ∧ (Instr.servicePacket .a true (.label 4 0 0)).wellFormed = false
      ∧ (Instr.servicePacket .a true (.freqs [])).wellFormed = false
      ∧ (Instr.servicePacket .a true (.freqs [1, 2, 3, 4])).wellFormed = false
      ∧ (Instr.servicePacket .a true (.freqs [65536])).wellFormed = false := by decide
theorem test_wf_refuses_rear_arguments :
    (Instr.hpPower .left 0).wellFormed = false ∧ (Instr.hpSource .left 6).wellFormed = false
      ∧ (Instr.hpStation .left 13).wellFormed = false ∧ (Instr.hpStation .left 0).wellFormed = false
      ∧ (Instr.hpVolume .left 256).wellFormed = false ∧ (Instr.cabinOffset .right 3).wellFormed = false := by decide

/-! ### Worked figures of the spec -/

/-- Tables 1.1 and 1.7, section 1.3's figures, Table 1.6. -/
theorem test_linear_factors :
    linearTable.length = 385
      ∧ [0, 4, 12, 24, 40, 80, 160, 240, 320, 383, 384].map linear
        = [8388608, 7476355, 5938680, 4204263, 2652711, 838861, 83886, 8389, 839, 137, 0] := by decide +kernel
theorem test_round_sums :
    roundSum (products [(2000000, 24)]) = 1002374
      ∧ roundSum (products [(6000000, 0), (5000000, 24), (77, 384)]) = 8505936
      ∧ saturate 8505936 = 8388607 ∧ clips 8505936 = true
      ∧ saturate (roundSum (products [(-6000000, 0), (-2400000, 0)])) = -8388608
      ∧ roundSum (products [(2000000, 0), (1000000, 24)]) = 2501187 := by decide +kernel
theorem test_crossfades :
    crossfade (bankWeight 1) 1000000 (-200000) = 925000 ∧ crossfade (bankWeight 12) 1000000 (-200000) = 100000
      ∧ crossfade (bankWeight 16) 1000000 (-200000) = -200000
      ∧ [1, 3, 9].map (fun k => crossfade (bankWeight k) 7 0) = [7, 6, 3] := by decide +kernel
theorem test_mid_samples :
    midOf 5000001 (-2) = 2499999 ∧ midOf (-3) 0 = -2 ∧ midOf (-8388608) (-8388608) = -8388608 := by decide
/-- R2: the total alone is clamped. -/
theorem test_code_sum : codeSum [-16, 20] = 4 ∧ codeSum [-16, 4] = 0 ∧ codeSum [300, 200, -116] = 384 := by decide
/-- Section 6.5, the two-tone chime: frame 12 of a 1000 Hz segment at level 24. -/
theorem test_chime_sample :
    phaseIncrement 1000 = 89478485 ∧ toneSample (12 * 89478485) = 8388607
      ∧ scale (toneSample (12 * 89478485)) 24 = 4204262 ∧ toneSample 0 = 0
      ∧ toneSample 3221225472 = -8388607 := by decide +kernel
/-- R141: a steady 838,861, 20 dB below full scale, reads 40; silence reads 240. -/
theorem test_meter_levels :
    meterLevel (768 * 838861 ^ 2) 16 = 40 ∧ meterLevel 0 16 = 240 ∧ meterLevel (768 * 8388608 ^ 2) 16 = 0 := by
  decide +kernel
theorem test_erle : erleOf 0 5 = 0 ∧ erleOf 100 1 = 40 ∧ erleOf 5 0 = 160 := by decide +kernel
/-- R180: the check of the nine ASCII digits by this polynomial and start is 0x29B1. -/
theorem test_crc : crc16 [0x31, 0x32, 0x33, 0x34, 0x35, 0x36, 0x37, 0x38, 0x39] = 0x29B1#16 := by decide +kernel
/-- Table 4.4 and section 4.4's figures. -/
theorem test_scores :
    rawScore {} 40 80 40 = 48 ∧ smooth 800 48 = 796 ∧ sepOf {} true 49 = 63 ∧ softMuteOf {} 49 = 0
      ∧ sepOf {} true 28 = 0 ∧ softMuteOf {} 28 = 42 := by decide
theorem test_blend : blend 63 (1000000, 200000) = (852000, 348000) := by decide
theorem test_channels :
    nextFreq .fm true 10800 = 8750 ∧ nextFreq .am false 522 = 1710 ∧ validFreq .fm 8755 = false
      ∧ validFreq .am 1710 = true := by decide
theorem test_no_row_has_bits (w : Nat) : decodeTableWord 16 w = none := rfl

/-! ### Steps -/

/-- The block idles on an empty queue, and runs the command at the front. -/
theorem test_step_idles : step State.reset = .next State.reset := rfl
theorem test_step_first : (match step ⟨{}, [.powerOn 3, .ringJoin]⟩ with
    | .next s => decide (s.part.rif.address = 3 ∧ s.pending = [.ringJoin])
    | _ => false) = true := by decide +kernel
theorem test_straps_0_and_63_are_no_address :
    (after (.powerOn 0) {}).rif.addressValid = false ∧ (after (.powerOn 63) {}).rif.addressValid = false
      ∧ (after (.powerOn 62) {}).rif.addressValid = true := by decide +kernel
theorem test_join_needs_48 :
    (after (.validFrame quietFrame mics0) { rif := { joinCount := 46 } }).rif.joined = false
      ∧ (after (.validFrame quietFrame mics0) { rif := { joinCount := 47 } }).rif.joined = true := by decide +kernel
theorem test_offset_is_clamped :
    (after (.zoneOffset hdr 1 (-1)) up).tst.zones.rearCabin.followOffset = 0
      ∧ (after (.zoneOffset hdr 4 97) up).tst.zones.cargo.followOffset = 96
      ∧ (after (.zoneOffset hdr 1 97) up).rif.saved.map Saved.result = some .clamped := by decide +kernel
theorem test_volume_stops_at_the_maximum :
    ((after (.zoneVolume hdr 2 31) { up with rlu := { maxCopy := ⟨30, 40⟩ } }).zone .hpLeft).step = 30
      ∧ ((after (.zoneVolume hdr 0 31) { up with rlu := { maxCopy := ⟨30, 40⟩ } }).zone .front).step = 31 := by
  decide +kernel
theorem test_report_scores_table_4_4 :
    let t := (after (.qualityReport .a 40 80 40 false true) { playing with tuc := { tuners := ⟨{ player with s := 800 }, {}⟩ } }).tuner .a
    (t.q, t.s, t.sep, t.softMute) = (48, 796, 63, 0) := by decide +kernel
theorem test_tune_takes_tuner_a :
    let q := after (.tune hdr 0 1 0 9000) (act.setZone .front { state := .silent })
    (q.tuner .a).state = .tuning ∧ q.tuc.link = some (.a, .tune fm90) ∧ (q.zone .front).state = .pending := by
  decide +kernel
theorem test_second_missing_ack :
    let q := after .linkNoAck { playing with tuc := { tuners := ⟨{ player with missed := 1 }, {}⟩, link := some (.a, .tune fm90) } }
    (q.tuner .a).state = .fault ∧ q.nfu.counts = [0, 0, 0, 0, 0, 1, 0] := by decide +kernel
theorem test_prompt_full_and_duplicate :
    let p := { up with anu := { playing := some { nav1 with tag := 30, cls := .chime }, waiting := (List.range 12).map fun i => { nav1 with tag := 11 + i } } }
    ((after (.promptPush hdr 40 2 16 1 0 1 0) p).rif.saved.map Saved.result = some .full)
      ∧ ((after (.promptPush hdr 12 2 16 1 0 1 0) p).rif.saved.map Saved.result = some .duplicate)
      ∧ ((after (.promptPush hdr 41 2 16 1 0 1 1) p).anu.waiting.map Prompt.tag
          = [41, 11, 12, 13, 14, 15, 16, 17, 18, 19, 20, 21]) := by decide +kernel
/-- Table 6.5, the third push: a SAFETY puts the chime back and drops the record at the back. -/
theorem test_safety_preempts :
    let p := { up with anu := { playing := some { nav1 with tag := 30, cls := .chime, source := .pattern 1 }, waiting := (List.range 12).map fun i => { nav1 with tag := 11 + i } } }
    let q := after (.promptPush hdr 42 0 0 1 0 1 0) p
    q.anu.playing.map Prompt.tag = some 42
      ∧ q.anu.waiting.map Prompt.tag = [30, 11, 12, 13, 14, 15, 16, 17, 18, 19, 20, 21]
      ∧ q.nfu.notices.map (fun n => (n.kind, n.subject)) = [(.promptDropped, 22), (.promptStarted, 42)] := by decide +kernel
theorem test_rear_frame_acts :
    (match runAll (((rearFrame 4 .left [17#8]).map fun b => .rearByteReceived b true) ++ [.hpVolume .left 17]) ⟨act, []⟩ with
      | .next s => ((s.part.zone .hpLeft).step, s.part.rlu.assembler)
      | _ => (0, .handling)) = (17, .hunt) := by decide +kernel
/-- R115: in HANDLING the bytes wait, and a row that is not the taken request's changes nothing. -/
theorem test_rear_handling_holds :
    (match runAll (((rearFrame 4 .left [17#8] ++ [0xA5#8]).map fun b => .rearByteReceived b true) ++ [.hpMute .left 1]) ⟨act, []⟩ with
      | .next s => ((s.part.zone .hpLeft).step, s.part.rlu.fifo, s.part.rlu.assembler)
      | _ => (0, [], .hunt)) = (16, [0xA5#8], .handling) := by decide +kernel
theorem test_ring_message_acts :
    (completeMessage (requestMessage 1 0x22 hdr [0#8, 33#8]) up).zmx.zones.front.step = 33 := by decide +kernel
theorem test_notices_update_in_place :
    (((({} : Nfu).post .tuneDone 0 (some 9000)).post .scanDone 0 none).post .tuneDone 0 (some 9500)).notices
      = [⟨.tuneDone, 0, some 9500, 2⟩, ⟨.scanDone, 0, none, 1⟩] := by decide
theorem test_ring_time_wraps : (after .ringTimeTick { up with rif := { up.rif with ringTime := 4294967295 } }).rif.ringTime = 0 := by
  decide +kernel
theorem test_powerdown_refused_in_active : (after (.powerDown hdr) act).rif.saved.map Saved.result = some .state := by decide +kernel

/-! ### Witnesses: for each statement with hypotheses, states and operands that meet them, at the ends of the clauses -/

theorem test_wit_resets :
    restarts (.powerOn 63) up ∧ restarts (.resetBroadcast 0) up ∧ restarts (.reset hdr) dorm
      ∧ (Instr.powerOn 63).wellFormed ∧ (Instr.validFrame quietFrame mics0).wellFormed ∧ (Instr.reset hdr).wellFormed
      ∧ (Instr.resetBroadcast 0).wellFormed ∧ Instr.replyWindowExpiry.wellFormed
      ∧ restarts (.validFrame { quietFrame with occupied := true, lane := (requestMessage 63 0x71 hdr []).drop 4 } mics0)
          { up with rif := { up.rif with rx := (requestMessage 63 0x71 hdr []).take 4 } }
      ∧ (∀ c ∈ [Instr.validFrame { quietFrame with occupied := true } mics0, .badFrame quietFrame mics0],
          restarts c { up with rif := { up.rif with
            resetPending := true, tx := some { bytes := List.replicate 12 0, sent := 8, windowOver := true } } })
      ∧ up.tst.latent = []
      ∧ restarts .replyWindowExpiry { up with rif := { up.rif with resetPending := true, tx := some { bytes := [0] } } }
      ∧ restarts (.validFrame quietFrame mics0)
          { up with rif := { up.rif with resetPending := true, tx := some { bytes := List.replicate 12 0, sent := 8 } } }
      ∧ restarts (.validFrame quietFrame mics0)
          { dorm with rif := { up.rif with loss := true }, pwc := { mode := .dormant, dormantCause := some .loss } } := by
  decide +kernel
theorem test_wit_reset_keeps :
    up.takes 0x71 hdr ∧ up.hears ∧ dorm.hears ∧ dorm.pwc.mode = .dormant ∧ dorm.pwc.dormantCause ≠ some .loss
      ∧ { dorm with pwc := { dorm.pwc with dormantCause := some .loss } }.hears := by decide +kernel
theorem test_wit_join :
    let p : Part := {}
    p.rif.joined = false ∧ p.rif.addressValid ∧ p.rif.joinCount < 47
      ∧ { p with rif := { joinCount := 46 } }.rif.joinCount < 47
      ∧ 47 ≤ { p with rif := { joinCount := 47 } }.rif.joinCount
      ∧ { p with rif := { addressValid := false } }.rif.addressValid = false := by decide
/-- Output 0 alone in slot 47, and in slot 0: the last and the first slot of a frame. -/
def mapped (slot : Nat) : Part := { up with tst := { up.tst with egress := some slot :: List.replicate 32 none } }
theorem test_wit_frames :
    (∀ p ∈ [mapped 0, mapped 47], p.rif.addressValid = true ∧ p.rif.joined = true ∧ p.pwc.mode ≠ .dormant
      ∧ p.tst.latent = []
      ∧ p.rif.rx = [] ∧ p.rif.tx = none) ∧ quietFrame.occupied = false ∧ (mapped 47).egressSlot 0 = some 47
      ∧ (∀ j, j ≠ 0 → (mapped 47).egressSlot j ≠ some 47) ∧ 47 < quietFrame.slots.length
      ∧ (egressSamples (after (.validFrame quietFrame mics0) (mapped 47)))[0]? = some 0
      ∧ (egressSamples (after (.badFrame quietFrame mics0) (mapped 47)))[0]? = some 0
      ∧ (∀ i, (mapped 47).egressSlot i ≠ some 46) := by
  have e : ∀ j, j ≠ 0 → (mapped 47).egressSlot j = none := by
    intro j hj
    obtain ⟨j, rfl⟩ := Nat.exists_eq_succ_of_ne_zero hj
    show (if (mapped 47).unitPoisoned 1 (j + 1) 0 then none else (mapped 47).tst.egress.getD (j + 1) none) = none
    have : (mapped 47).tst.egress.getD (j + 1) none = (none : Option Nat) := by
      show (some 47 :: List.replicate 32 none).getD (j + 1) none = none
      rw [List.getD_cons_succ]
      by_cases hj : j < 32
      · rw [List.getD_replicate _ hj]
      · rw [List.getD_eq_default _ _ (by simpa using hj)]
    rw [this]; split <;> rfl
  refine ⟨by decide +kernel, by decide, by decide +kernel, fun j hj => by simp [e j hj], by decide, by decide +kernel,
    by decide +kernel, fun i => ?_⟩
  by_cases h : i = 0
  · subst h; decide +kernel
  · simp [e i h]
/-- Entry 0 of both banks is readable with its delay line, in step 16 of a crossfade and in none, and no adapter is
primed; in DORMANT a frame finds the part with no reply. -/
theorem test_wit_render_outputs :
    (∀ x ∈ [none, some 16], let p := { up with rmx := { up.rmx with crossfade := x } }
      (p.bank .a)[0]? = some ({} : RenderEntry) ∧ (p.bank .b)[0]? = some ({} : RenderEntry) ∧ p.rmx.linesA[0]? = some [] ∧ p.rmx.linesB[0]? = some []
        ∧ p.entryPoisoned (bankTable .a) 0 = false ∧ p.entryPoisoned (bankTable .b) 0 = false ∧ p.rmx.clips[0]? = some 0
        ∧ p.rmx.active = .a ∧ p.rmx.crossfade = x)
      ∧ (up.seat .driver).context = .reset ∧ (up.tuner .a).adapter.primed = false ∧ (up.tuner .b).adapter.primed = false
      ∧ dorm.rif.addressValid ∧ dorm.rif.joined ∧ dorm.rif.tx = none := by decide +kernel
/-- Four lane bytes of an arriving message: under 5 bytes, a length byte of 56, one of 57, and a message of an empty
body complete, for another node. -/
def laneFrame (lane : List Byte) : Frame := { quietFrame with occupied := true, lane := lane }
def assembling (rx : List Byte) : Part := { up with rif := { up.rif with rx := rx } }
/-- IDENTIFY to node 2, of source 0 and sequence 1, as its 8 bytes. -/
def toNode2 : List Byte := requestMessage 2 0x01 hdr []
theorem test_wit_lane :
    (assembling []).rif.joined ∧ (assembling []).rif.tx = none ∧ (assembling []).tst.latent = []
      ∧ (laneFrame [2, 0, 1, 1]).occupied ∧ ([2, 0, 1, 1] : List Byte).length < 5
      ∧ (let m : List Byte := [2, 0, 1, 1] ++ [56, 0, 0, 0]
         5 ≤ m.length ∧ valueAt m 4 1 ≤ 56 ∧ m.length < valueAt m 4 1 + 8)
      ∧ (let m : List Byte := [2, 0, 1, 1] ++ [57, 0, 0, 0]
         5 ≤ m.length ∧ 56 < valueAt m 4 1)
      ∧ (let m := toNode2.take 4 ++ toNode2.drop 4
         valueAt m 4 1 ≤ 56 ∧ valueAt m 4 1 + 8 ≤ m.length
          ∧ byte2 (crc16 (m.take (m.length - 2))).toNat = m.drop (m.length - 2) ∧ valueAt m 0 1 % 64 ≠ 1
          ∧ valueAt m 0 1 % 64 ≠ 63)
      ∧ (let m := toNode2.take 7 ++ [0#8, 0#8]
         byte2 (crc16 (m.take (m.length - 2))).toNat ≠ m.drop (m.length - 2)) := by decide +kernel
theorem test_wit_request_bytes :
    requestOf (.tableWrite ⟨63, 255⟩ 255 255 65535 (List.replicate 52 255)) = some (0x11, ⟨63, 255⟩)
      ∧ (Instr.tableWrite ⟨63, 255⟩ 255 255 65535 (List.replicate 52 255)).wellFormed
      ∧ requestOf (.callConnect hdr) = some (0x51, hdr) ∧ (Instr.callConnect hdr).wellFormed
      ∧ up.rif.rx = [] ∧ { up.rif with address := 62 }.address < 63
      ∧ up.rif.addressValid ∧ up.rif.joined ∧ up.pwc.mode ≠ .dormant ∧ up.tst.latent = [] ∧ up.rif.tx = none := by
  decide +kernel
theorem test_wit_rear_bytes :
    rearRequestOf (.hpStation .right 0x82) = some (3, .right, [0x82#8]) ∧ (Instr.hpStation .right 0x82).wellFormed
      ∧ rearRequestOf (.callLeave .left) = some (8, .left, []) ∧ (Instr.callLeave .left).wellFormed
      ∧ up.rif.addressValid ∧ up.rlu.fifo = [] ∧ up.rlu.assembler = .hunt ∧ up.rlu.frame = [] ∧ up.rlu.length = 0
      ∧ up.rlu.taken = none ∧ up.tst.latent = [] := by
  decide
/-- HP_STATION and HP_SOURCE taken and held: with its flag DENY, and with every flag ADMIT and no source allowed. -/
def held (kind : RearKind) (flags : BitVec 8) : Taken := ⟨.left, kind, 1, flags, ⟨false, false, false, false, false⟩⟩
theorem test_wit_rear_held :
    (∀ x ∈ [held .station 0, held .station 255, held .source 255],
      let p := { up with rlu := { assembler := .handling, taken := some x } }
      p.rif.addressValid = true ∧ p.quiet = true ∧ p.rlu.assembler = .handling ∧ p.rlu.fifo = [] ∧ p.rlu.taken = some x)
        ∧ rearRequestOf (.hpStation .left 1) = some (3, .left, [1#8]) ∧ rearKindOf 3 = some .station
        ∧ rearRequestOf (.hpSource .left 1) = some (2, .left, [1#8]) ∧ rearKindOf 2 = some .source
        ∧ sourceOf 1 = some .radio ∧ allowedSource (held .source 255).allowed .radio = false
        ∧ (held .station 0).flags.getLsbD 2 = false ∧ (held .station 255).flags.getLsbD 2 = true
        ∧ (held .source 255).flags.getLsbD 1 = true := by decide +kernel
def replying (sent : Nat) : Part := { up with rif := { up.rif with tx := some { bytes := List.replicate 10 1, sent := sent } } }
theorem test_wit_replies :
    (∀ n ∈ [0, 4, 8], (replying n).rif.tx = some { bytes := List.replicate 10 1, sent := n }
      ∧ (replying n).rif.resetPending = false
      ∧ (replying n).rif.rx = [] ∧ (replying n).rif.joined = true ∧ (replying n).tst.latent = [])
      ∧ quietFrame.occupied = false ∧ up.rif.resetPending = false ∧ up.rif.tx = none
      ∧ (∀ n ∈ [4, 8], let p := { dorm with rif := (replying n).rif }
          p.rif.addressValid = true ∧ p.rif.joined = true ∧ p.pwc.mode = .dormant ∧ p.rif.loss = false
            ∧ p.rif.tx = some { bytes := List.replicate 10 1, sent := n } ∧ 0 < n) := by decide
theorem test_wit_ring_loss :
    up.rif.addressValid ∧ up.rif.joined ∧ up.rif.loss = false ∧ up.rif.resetPending = false
      ∧ (replying 4).rif.tx ≠ none ∧ { (replying 4).rif with resetPending := true }.resetPending
      ∧ { up with pwc := { up.pwc with lossCount := true } }.running ∧ up.quiet ∧ up.pwc.lossCount = false
      ∧ dorm.pwc.mode = .dormant ∧ ({} : Part).rif.joined = false := by decide +kernel
theorem test_wit_unheard :
    requestOf (.reset hdr5) = some (0x71, hdr5) ∧ ({} : Part).hears = false ∧ dorm.pwc.mode = .dormant ∧ hdr5.source ≠ 0
      ∧ up.hears ∧ (replying 0).rif.tx ≠ none ∧ up.rif.tx = none
      ∧ { up.rif with saved := some ⟨1, 0x50, .ok, []⟩ }.saved = some ⟨hdr.seq, 0x50, .ok, []⟩
      ∧ requestOf (.callAlert hdr 1) = some (0x50, hdr) ∧ hdr.source = 0
      ∧ requestOf (.tableRead hdr5 8 0 0 1 2) = some (0x10, hdr5) ∧ Nat.testBit 2 1
      ∧ requestOf (.tableWrite hdr5 0 0 1 (List.replicate 52 0)) = some (0x11, hdr5) := by decide +kernel
theorem test_wit_counters :
    up.hears ∧ up.pwc.mode ≠ .dormant ∧ up.rif.tx = none ∧ up.takes 0x01 hdr ∧ up.takes 0x02 hdr ∧ up.takes 0x15 hdr ∧ hdr5.source ≠ 0 ∧ up.rmx.clips.length = 32
      ∧ up.nfu.counts.length = 7 ∧ groupCounts up 0 = some [0, 0, 0, 0, 0, 0]
      ∧ groupCounts up 7 = some (List.replicate 7 0)
      ∧ groupCounts up 8 = none := by decide +kernel
theorem test_wit_table_read :
    up.takes 0x10 hdr ∧ up.tst.latent = [] ∧ 17 < 18 ∧ 0 < directory.getD 17 0 ∧ 12 < directory.getD 16 0
      ∧ 1 < 2 ^ (fieldSizes 17).length ∧ (selected 1 (fieldSizes 17)).sum ≤ 52
      ∧ (entryBytes up 17 0 1 false).length ≤ 53
      ∧ directory.getD 17 0 ≤ 1 ∧ 2 ^ (fieldSizes 0).length ≤ 2 ∧ (3 % 4 ≠ 0 ∧ 9 ≠ 8)
      ∧ 52 < (selected (2 ^ (fieldSizes 17).length - 1) (fieldSizes 17)).sum
      ∧ 2 ^ (fieldSizes 17).length - 1 < 2 ^ (fieldSizes 17).length := by decide +kernel

theorem test_wit_table_write :
    up.takes 0x11 hdr ∧ up.takes 0x13 hdr ∧ up.quiet ∧ 1 ≤ (List.replicate 52 0#8).length
      ∧ (List.replicate 52 0#8).length ≤ 52
      ∧ directory.getD 13 0 ≤ 2 ∧ 0 < directory.getD 0 0 ∧ 2 ^ (fieldSizes 0).length ≤ 2
      ∧ splitFields 0 1 (fieldSizes 0).zipIdx [0, 0] = none
      ∧ splitFields 2 7 (fieldSizes 2).zipIdx [0, 0, 0] = none
      ∧ { up with tst := { up.tst with poisoned := [⟨2, 0, 0⟩] } }.entryPoisoned 2 0
      ∧ splitFields 2 1 (fieldSizes 2).zipIdx [0] ≠ none ∧ 1 + 1 < 2 ^ (fieldSizes 2).length
      ∧ 6 = bankTable .a ∧ up.entryPoisoned 6 31 = false ∧ splitFields 6 1 (fieldSizes 6).zipIdx [0] ≠ none
      ∧ up.rmx.crossfade = none ∧ up.rmx.active = .a
      ∧ { up.rmx with crossfade := some 0 }.crossfade ≠ none := by
  decide +kernel
theorem test_wit_written :
    up.takes 0x11 hdr ∧ up.tst.sources.length = 6 ∧ up.tst.latent = [] ∧ (∀ r, up.admissionPoisoned r = false)
      ∧ (up.tst.admission.get .left).maxStep ≠ 0
      ∧ (∀ x ∈ [(0, 23, 255, 384), (5, 0, 255, 0)], (x.2.1 < 24 ∨ x.2.1 = 255) ∧ (x.2.2.1 < 24 ∨ x.2.2.1 = 255)
          ∧ x.2.2.2 ≤ 384 ∧ (x.1 < 4 ∨ (x.2.2.1 = 255 ∧ x.2.2.2 = 0))) ∧ (24 ≤ 254 ∧ 254 ≠ 255) :=
  ⟨by decide +kernel, by decide, by decide, fun r => by cases r <;> decide, by decide, by decide, by decide⟩
theorem test_wit_table_clear :
    up.takes 0x12 hdr ∧ up.quiet ∧ { up.rmx with crossfade := some 16 }.crossfade ≠ none ∧ 6 = bankTable .a
      ∧ up.rmx.crossfade = none ∧ up.rmx.active = .a ∧ (∀ bank, 13 = bankTable bank → up.rmx.crossfade = none
      ∧ up.rmx.active ≠ bank)
      ∧ (∀ bank, 7 = bankTable bank → up.rmx.crossfade = none ∧ up.rmx.active ≠ bank)
      ∧ (playing.takes 0x12 hdr ∧ playing.hasAddress .a ∧ (playing.tuner .a).state ≠ .idle)
      ∧ (∀ t, (up.tuner t).state = .idle) :=
  ⟨by decide +kernel, by decide +kernel, by decide, rfl, rfl, rfl, fun x => by cases x <;> decide, fun x => by cases x <;> decide,
    by decide +kernel, fun t => by cases t <;> decide⟩
/-- R164, R169: the EGRESS entry that holds the slot has a double-bit error that no check has met: the DUPLICATE check of
another entry's write meets it, poisons it, and it counts as holding nothing. -/
theorem test_write_checks_the_other_entries :
    let p := mapped 5
    let q := after (.tableWrite hdr 1 1 1 [5]) { p with tst := { p.tst with latent := [⟨⟨1, 0, 0⟩, true, false⟩] } }
    (after (.tableWrite hdr 1 1 1 [5]) p).rif.saved.map Saved.result = some .duplicate
      ∧ q.rif.saved.map Saved.result = some .ok ∧ q.unitPoisoned 1 0 0 ∧ q.tst.latent = [] := by decide +kernel
/-- R28, R78, R83: a written code goes to the zones that reference the entry, and an OFF zone keeps its record's. -/
theorem test_recode_leaves_zones_without_a_claim :
    let off := { listener with state := .off, att := none, code := some 7 }
    let p := listed (playing.setZone .front { listener with code := some 7 } |>.setZone .hpLeft off)
    let q := after (.tableWrite hdr 8 47 2 (byte2 9)) p
    (q.zone .front).code = some 9 ∧ (q.zone .hpLeft).code = some 7 := by decide +kernel
/-- Entry 31 of bank B fails validation: its delay is 481. -/
def badB : Part := { up with tst := { up.tst with renderB := List.replicate 31 {} ++ [{ enabled := true, delay := 481 }] } }
theorem test_wit_bank_swap :
    up.takes 0x14 hdr ∧ badB.takes 0x14 hdr ∧ up.tst.latent = [] ∧ firstFailing badB badB.rmx.active.other = some 31
      ∧ firstFailing up up.rmx.active.other = none ∧ up.clp.sig.bank = up.rmx.active ∧ up.running
      ∧ (let p := { up with tst := { up.tst with
            renderB := { enabled := true, delay := 481 } :: List.replicate 31 {}, latent := [⟨⟨7, 1, 0⟩, true, false⟩] } }
         p.takes 0x14 hdr ∧ firstFailing p p.rmx.active.other = some 0
          ∧ ∀ u ∈ p.tst.latent, u.unit.table = bankTable p.rmx.active.other → 0 < u.unit.entry) := by decide +kernel
theorem test_wit_render_block :
    let p := { up with tst := { up.tst with renderA := { enabled := true, count := 1 } :: List.replicate 31 {} }, rmx := { crossfade := some 16 } }
    p.running ∧ p.tst.latent = [] ∧ p.tst.poisoned = [] ∧ (p.bank .a)[0]?.map RenderEntry.count = some 1
      ∧ ({} : RenderEntry).contribs[0]? = some ({} : Contribution) := by decide +kernel
/-- An entry of the other bank that names zone 6 fails, and so does a poisoned one; the default entry does not. -/
theorem test_wit_swap_fails :
    let fails := fun (p : Part) (i : Nat) => ((p.bank .b)[i]?).any fun e => p.entryPoisoned (bankTable .b) i
      || decide (480 < e.delay) || (e.contribs.take e.count).any fun c => decide (5 < c.zone)
    let zone6 : RenderEntry := { count := 1, contribs := { zone := 6 } :: List.replicate 3 {} }
    let p := { up with tst := { up.tst with renderB := {} :: zone6 :: List.replicate 30 {} } }
    fails p 0 = false ∧ fails p 1 = true ∧ p.takes 0x14 hdr ∧ p.rmx.crossfade = none
      ∧ fails { up with tst := { up.tst with poisoned := [⟨7, 31, 0⟩] } } 31
      ∧ fails badB 31 = true ∧ (∀ j < 31, fails badB j = false) ∧ (∀ i < (up.bank .b).length, fails up i = false) := by
  decide +kernel
/-- The part with zone `z` in a state, with a source. -/
def zoned (z : ZoneId) (st : ZoneState) (src : Source) (p : Part) : Part := p.setZone z { p.zone z with state := st, source := src }
theorem test_wit_zone_power :
    act.takes 0x20 hdr ∧ act.quiet ∧ up.takes 0x20 hdr ∧ up.quiet ∧ needsActive .cargo ∧ up.pwc.mode ≠ .active
      ∧ act.pwc.mode = .active ∧ ((zoned .front .playing (.media 3) act).zone .front).state ≠ .off
      ∧ (zoned .front .playing (.media 3) act).quiet
      ∧ (let p := zoned .hpRight .off (.media 0) act
         (p.zone .hpRight).state = .off ∧ (p.zone .hpRight).source = .media 0 ∧ ZoneId.ownSource .hpRight ∧ p.quiet)
      ∧ ((zoned .front .off .radio act).zone .front).chan = none ∧ ZoneId.follows .cargo
      ∧ (act.zone .front).state ≠ .lost
      ∧ ((zoned .cargo .playing .none act).zone .cargo).state ≠ .off
      ∧ ZoneId.ownSource .cargo = false
      ∧ (let p := zoned .front .lost .radio act
         p.takes 0x20 hdr ∧ p.quiet ∧ (p.zone .rearCabin).state = .off ∧ ZoneId.follows .rearCabin
          ∧ (p.zone .front).state = .lost)
      ∧ (let p := zoned .front .silent (.media 0) act
         p.takes 0x20 hdr ∧ p.quiet ∧ (p.zone .front).state ≠ .off ∧ ZoneId.ownSource .front ∧ p.tunersFree
          ∧ p.clp.zones.get .front = false)
      ∧ (let p : Part := { up with
            tst := { radio := { background := false } }
            zmx := { zones := PerZone.set (.of fun _ => {}) .front { source := .radio, chan := some fm90 } } }
         p.takes 0x20 hdr ∧ p.quiet ∧ (p.zone .front).state = .off ∧ (p.zone .front).source = .radio
          ∧ (p.zone .front).chan = some fm90 ∧ claimantOf .front = some .front
          ∧ p.arbitrate .front fm90 none true = none) := by decide +kernel
/-- ZONE_POWER with a claim granted: FRONT remembers FM 90.0, and either tuner, or B alone, has an address. HP_LEFT in an
ACTIVE call leaves it. -/
theorem test_wit_zone_power_claims :
    (∀ adr ∈ [⟨some 0x60, some 0x61⟩, (⟨none, some 0x61⟩ : PerTuner (Option Nat))],
      let p := act.setZone .front { source := .radio, chan := some fm90 }
      let p : Part := { p with tst := { p.tst with radio := { p.tst.radio with addresses := adr } } }
      p.takes 0x20 hdr = true ∧ p.quiet = true ∧ (p.zone .front).state = .off ∧ (p.zone .front).source = .radio
        ∧ (p.zone .front).chan = some fm90 ∧ claimantOf .front = some .front ∧ p.pwc.mode = .active
        ∧ p.tunersFree = true ∧ p.tst.latent = [] ∧ p.hasAddress .b = true)
      ∧ act.hasAddress .a
      ∧ (let p := zoned .hpLeft .silent .none act
         let p : Part := { p with clp := { state := .active, zones := .of fun z => z == .hpLeft } }
         p.takes 0x20 hdr ∧ p.quiet ∧ ZoneId.rearSeat? .hpLeft = some .left ∧ (p.zone .hpLeft).state ≠ .off
          ∧ p.tunersFree ∧ p.clp.zones.get .hpLeft ∧ p.tst.latent = [] ∧ p.clp.state = .active) := by decide +kernel
theorem test_wit_switching_off :
    playing.takes 0x20 hdr ∧ playing.quiet ∧ playing.tst.latent = [] ∧ claimantOf .front = some .front
      ∧ (playing.zone .front).state ≠ .off ∧ playing.clp.zones.get .front = false ∧ playing.playsOn .a
      ∧ (playing.tuner .a).claims = [⟨.front, false⟩] ∧ (playing.tuner (TunerId.a).other).state = .idle
      ∧ (playing.tuner (TunerId.a).other).claims = [] ∧ playing.hasAddress .a := by decide +kernel
theorem test_wit_zone_source :
    let on := zoned .hpLeft .silent .none act
    on.takes 0x21 hdr ∧ on.quiet ∧ ZoneId.ownSource .driver = false ∧ ZoneId.ownSource .hpLeft
      ∧ (act.zone .front).state = .off
      ∧ ((zoned .front .playing (.media 3) act).zone .front).source = .media 3 ∧ on.tunersFree
      ∧ (on.zone .hpLeft).state ≠ .off
      ∧ on.pwc.mode = .active ∧ up.pwc.mode ≠ .active ∧ ((zoned .front .silent .none up).zone .front).state ≠ .off
      ∧ (playing.zone .front).source = .radio ∧ (playing.zone .front).state ≠ .lost ∧ (on.zone .hpLeft).chan = none
      ∧ playing.takes 0x21 hdr ∧ playing.quiet ∧ playing.tst.latent = [] ∧ claimantOf .front = some .front
      ∧ playing.playsOn .a ∧ (playing.tuner .a).claims = [⟨.front, false⟩] ∧ (playing.tuner .b).state = .idle
      ∧ (playing.tuner .b).claims = [] ∧ playing.hasAddress .a := by decide +kernel
/-- With no bus address a zone on RADIO has no tuner to be had. -/
def noTuner : Part := act.setZone .hpLeft { state := .silent, chan := some fm90 } |> fun p => { p with tst := { radio := { background := false } } }
theorem test_wit_zone_source_busy :
    noTuner.takes 0x21 hdr ∧ noTuner.takes 0x30 hdr ∧ noTuner.quiet ∧ noTuner.pwc.mode = .active
      ∧ (noTuner.zone .hpLeft).chan = some fm90
      ∧ (noTuner.zone .hpLeft).source ≠ .radio ∧ noTuner.arbitrate .hpLeft fm90 none true = none
      ∧ noTuner.holding .hpLeft = none := by
  decide +kernel
theorem test_wit_volume_and_mute :
    up.takes 0x22 hdr ∧ up.takes 0x24 hdr
      ∧ (let p := { up with tst := { up.tst with poisoned := [⟨3, 5, 0⟩] } }
         p.takes 0x23 hdr ∧ p.unitPoisoned 3 (zoneCode .driver) 0) := by decide
theorem test_wit_offset :
    up.takes 0x23 hdr ∧ up.tst.latent = [] ∧ up.unitPoisoned 3 4 0 = false
      ∧ up.unitPoisoned 3 (zoneCode .driver) 0 = false ∧ up.running ∧ up.quiet ∧ up.pwc.ramp = none
      ∧ { up with tst := { up.tst with poisoned := [⟨3, 1, 0⟩] } }.unitPoisoned 3 (zoneCode .rearCabin) 0
      ∧ restarts (.resetBroadcast 0) up ∧ readsStraps (.resetBroadcast 0) = false := by decide +kernel
/-- REAR_CABIN plays a media source with FRONT after the block that follows a ZONE_OFFSET. -/
theorem test_wit_offset_target :
    let p := zoned .rearCabin .playing (.media 0) (zoned .front .playing (.media 0) act)
    let p := { p with tst := { p.tst with ingress := some 3 :: some 4 :: List.replicate 22 none, sources := ⟨some 0, some 1, 0⟩ :: List.replicate 5 {} }
                      anu := { playing := some nav1 } }
    let u := after .zmxRenderBlock p
    p.takes 0x23 hdr ∧ p.quiet ∧ (u.zone .rearCabin).state = .playing ∧ (u.zone .rearCabin).mute = false
      ∧ tunerAway p (u.zone .rearCabin) = false
      ∧ p.curveCode (p.zoneCfg .rearCabin).headphoneCurve (u.zone .rearCabin).step ≠ 384
      ∧ presentRows p = [0] ∧ p.unitPoisoned 5 0 0 = false := by decide +kernel
theorem test_wit_zone_mixer :
    act.running ∧ act.quiet ∧ act.tst.latent = [] ∧ playing.running ∧ playing.quiet := by decide +kernel
/-- R34, Table 2.6: a poisoned row mutes while its prompt plays, and only then; curve 144, the duck term 0. -/
theorem test_poisoned_duck_row_mutes :
    let p := zoned .front .playing (.media 0) act
    let target := fun (x : Option Prompt) (us : List MemUnit) => ((after .zmxRenderBlock { p with
      anu := { playing := x }
      tst := { ingress := some 3 :: some 4 :: List.replicate 22 none
               sources := ⟨some 0, some 1, 0⟩ :: List.replicate 5 {}, poisoned := us } }).zone .front).ent.target
    target (some nav1) [] = 144 ∧ target (some nav1) [⟨5, 0, 0⟩] = 384 ∧ target (some nav1) [⟨5, 1, 0⟩] = 144
      ∧ target none [⟨5, 0, 0⟩] = 144 := by decide +kernel
theorem test_wit_zone_buses :
    let p := zoned .front .playing (.media 3) act
    let ss := List.replicate 3 ({} : SourceCfg) ++ [⟨some 0, some 23, 0⟩, ({} : SourceCfg), ({} : SourceCfg)]
    let p : Part := { p with zmx := { p.zmx with sources := ss } }
    p.rif.addressValid ∧ p.rif.joined ∧ p.pwc.mode ≠ .dormant ∧ p.tst.latent = [] ∧ p.rif.rx = [] ∧ p.rif.tx = none
      ∧ (p.zone .front).source = .media 3 ∧ p.unitPoisoned 2 3 0 = false ∧ p.anu.playing = none
      ∧ (p.zmx.sources.getD 3 ({} : SourceCfg)).left = some 0
      ∧ (p.zmx.sources.getD 3 ({} : SourceCfg)).right = some 23 := by decide +kernel
/-- FRONT on RADIO, attached to one tuner and in a switch to two, its adapter primed, with each kind of prompt. -/
theorem test_wit_radio_buses :
    ∀ x ∈ [(none, PromptSource.navVoice), (some TunerId.b, .pattern 0), (some .b, .tuner .a)],
      let p := playing.setZone .front { listener with att2 := x.1 }
      let p : Part := { p with anu := { p.anu with playing := some { nav1 with source := x.2 }
                                                   chime := { p.anu.chime with segment := some {} } } }
      let p := p.setTuner .a { p.tuner .a with adapter := { primed := true, fifo := [(1, 2), (3, 4)] } }
      p.rif.addressValid = true ∧ p.rif.joined = true ∧ p.pwc.mode ≠ .dormant ∧ p.tst.latent = [] ∧ p.rif.rx = []
        ∧ p.rif.tx = none ∧ quietFrame.occupied = false ∧ (p.zone .front).source = .radio
        ∧ (p.zone .front).att = some .a ∧ (p.zone .front).att2 = x.1 ∧ p.anu.playing.map Prompt.source = some x.2
        ∧ (p.tuner .a).adapter.primed = true ∧ 2 ≤ (p.tuner .a).adapter.fifo.length
        ∧ (p.tuner .b).adapter.primed = false := by decide +kernel

theorem test_wit_tune_off :
    (listed act).takes 0x30 hdr ∧ (listed act).quiet ∧ (listed act).tst.latent = [] ∧ ZoneId.ownSource .cargo = false
      ∧ validFreq .fm 8750 ∧ validFreq .am 1710 ∧ (act.zone .front).state = .off ∧ validFreq .am 523 = false
      ∧ ((zoned .front .silent .none up).zone .front).state ≠ .off ∧ up.pwc.mode ≠ .active ∧ (act.station 47) = none
      ∧ (listed act).station 47 = some station1
      ∧ bestItem station1.items = some ⟨9500, some 80, some 1⟩ := by decide +kernel
theorem test_wit_tune_free :
    let p := zoned .front .silent .none act
    let q := act.setZone .hpLeft { state := .lost, source := .radio, chan := some fm95 }
    p.takes 0x30 hdr ∧ p.quiet ∧ p.tst.latent = [] ∧ claimantOf .front = some .front ∧ (p.zone .front).state ≠ .off
      ∧ p.pwc.mode = .active ∧ p.tunersFree ∧ p.tuc.link = none ∧ p.tuc.queue = [] ∧ p.hasAddress .a
      ∧ q.takes 0x21 hdr ∧ q.quiet ∧ (q.zone .hpLeft).chan = some fm95 ∧ (q.zone .hpLeft).state = .lost ∧ q.tunersFree
      ∧ { act with tst := { radio := { addresses := ⟨none, some 1⟩ } } }.hasAddress .a = false
      ∧ { act with tst := { radio := { addresses := ⟨none, some 1⟩ } } }.hasAddress .b := by decide +kernel
theorem test_wit_tune_shares :
    let p := zoned .hpRight .silent .none playing
    p.takes 0x30 hdr ∧ p.quiet ∧ p.tst.latent = [] ∧ (p.zone .hpRight).state ≠ .off ∧ p.pwc.mode = .active
      ∧ p.playsOn .a
      ∧ (p.tuner .b).state = .idle ∧ (p.tuner .b).claims = [] ∧ (p.tuner .b).note = none ∧ (p.tuner .b).seek = none
      ∧ p.holding .hpRight = none ∧ (p.tuner .a).chan = some fm90 ∧ (p.tuner .a).listened
      ∧ (∀ k ∈ (p.tuner .a).claims, k.who ≠ .hpRight) ∧ (p.tuner .a).claims = [⟨.front, false⟩]
      ∧ (p.tuner .a).chan ≠ some fm95 ∧ p.hasAddress .a := by decide +kernel
def seeking (k : Seek) : Part :=
  { playing with tuc := { tuners := ⟨{ player with state := .tuning, seek := some k }, {}⟩ } }
theorem test_wit_seek :
    playing.takes 0x31 hdr ∧ playing.quiet ∧ ZoneId.ownSource .rearCabin = false ∧ (act.zone .hpLeft).chan = none
      ∧ (playing.zone .front).chan = some fm90 ∧ (playing.zone .front).state ≠ .off
      ∧ (playing.zone .front).source = .radio
      ∧ playing.pwc.mode = .active ∧ playing.playsOn .a ∧ (playing.tuner .a).claims = [⟨.front, false⟩]
      ∧ (∀ k ∈ (playing.tuner .b).claims, k.who ≠ .front) ∧ playing.hasAddress .a
      ∧ (let k : Seek := { zone := .front, up := true, start := 8750 }
         let p := seeking k
         p.running ∧ p.quiet ∧ (p.tuner .a).seek = some k ∧ (p.tuner .a).chan = some fm90 ∧ k.returning = false
          ∧ (p.tuner .a).done ∧ (p.tuner .a).state = .tuning ∧ (p.tuner .a).retry = none)
      ∧ (let p := { seeking { zone := .front, up := true, start := 8750 } with
            tuc := { tuners := ⟨{ player with done := false, seek := some { zone := .front, up := true, start := 8750 } }, {}⟩ } }
         (p.tuner .a).done = false ∧ p.quiet)
      ∧ (let p := noTuner.setZone .hpLeft { state := .lost, source := .radio, chan := some fm90 }
         p.takes 0x31 hdr ∧ p.quiet ∧ claimantOf .hpLeft = some .hpLeft ∧ (p.zone .hpLeft).chan = some fm90
          ∧ (p.zone .hpLeft).state ≠ .off ∧ (p.zone .hpLeft).source = .radio ∧ p.pwc.mode = .active
          ∧ p.holding .hpLeft = none ∧ p.arbitrate .hpLeft fm90 none false = none) := by decide +kernel
/-- A scan on tuner A at a channel, its step judged or its dwell running. -/
def scanning (f : Nat) (s : Scan) : Part :=
  { act with
    tuc := { tuners := ⟨{ player with chan := some ⟨s.band, f⟩, claims := [⟨.scan, false⟩] }, {}⟩ }
    stm := { scan := some s } }
theorem test_wit_scan :
    act.takes 0x32 hdr ∧ act.quiet ∧ up.takes 0x32 hdr ∧ up.pwc.mode ≠ .active ∧ act.stm.scan = none ∧ act.tunersFree
      ∧ act.hasAddress .a ∧ act.takes 0x33 hdr
      ∧ (∀ f ∈ [522, 1701, 1710], let s : Scan := { band := .am, tuner := .a, dwelling := true }
          (scanning f s).takes 0x33 hdr = true ∧ (scanning f s).quiet = true ∧ (scanning f s).running = true
            ∧ (scanning f s).stm.scan = some s ∧ ((scanning f s).tuner .a).chan = some ⟨.am, f⟩
            ∧ ((scanning f s).tuner .a).claims = [⟨.scan, false⟩] ∧ ((scanning f s).tuner .a).state = .playing
            ∧ (scanning f s).switching .a = false ∧ (scanning f s).switching .b = false
            ∧ ((scanning f s).tuner .b).claims = [] ∧ ((scanning f s).tuner .b).state = .idle
            ∧ ((scanning f s).tuner .a).retry = none ∧ (scanning f s).stm.scan ≠ none)
      ∧ 1701 + bandStep .am ≤ bandTop .am ∧ bandTop .am < 1710 + bandStep .am
      ∧ ((scanning 522 { band := .am, tuner := .a }).tuner .a).done
      ∧ ({ band := .am, tuner := .a } : Scan).dwelling = false ∧ act.tst.latent = []
      ∧ noTuner.takes 0x32 hdr ∧ noTuner.quiet ∧ noTuner.pwc.mode = .active ∧ noTuner.stm.scan = none
      ∧ noTuner.arbitrate .scan ⟨.fm, bandBottom .fm⟩ none false = none := by
  decide +kernel
theorem test_wit_quality :
    playing.calm ∧ playing.tst.latent = [] ∧ playing.playsOn .a
      ∧ (playing.follow (TunerId.a).other).lowTimer = false ∧ playing.quiet
      ∧ (playing.tuner .b).state = .idle ∧ playing.running
      ∧ (let p := { playing with tuc := { tuners := ⟨{ player with state := .tuning, done := false, settle := true, note := some .front }, {}⟩ } }
         p.calm ∧ (p.tuner .a).settle ∧ (p.tuner .a).acked ∧ (p.tuner .a).state = .tuning)
      ∧ (let k : Seek := { zone := .front, up := true, start := 8750, reports := 1 }
         (seeking k).calm ∧ ((seeking k).tuner .a).acked ∧ ((seeking k).tuner .a).seek = some k ∧ k.reports < 2
          ∧ (seeking k).stm.scan = none ∧ ((seeking k).follow .a).reports < 4) := by decide +kernel
theorem test_wit_tune_completes :
    let p := { playing with
      tst := { playing.tst with radio := { playing.tst.radio with afEnable := false } }
      tuc := { tuners := ⟨{ player with state := .tuning, done := false, settle := true, note := some .front }, {}⟩ } }
    p.quiet ∧ p.tst.latent = [] ∧ p.running ∧ (p.tuner .a).state = .tuning ∧ (p.tuner .a).done = false
      ∧ (p.tuner .a).seek = none
      ∧ (p.tuner .a).note = some .front ∧ (p.tuner .a).chan = some fm90 ∧ p.radioCfg.afEnable = false
      ∧ (p.tuner .a).acked
      ∧ (p.tuner .a).settle ∧ (p.tuner .b).settle = false := by decide +kernel
/-- R57, R63: a written mute_max of 0 leaves the soft mute of a settle timeout, min 120 ((35 − 8) · 6), and is in force
from the next report, of quality 8 again. -/
theorem test_written_fields_wait_for_a_report :
    let p := { playing with tuc := { tuners :=
      ⟨{ player with state := .tuning, done := false, settle := true, note := some .front, s := 160 }, {}⟩ } }
    let w := after (.tableWrite hdr 9 0 4 ([35, 6] ++ byte2 0)) p
    let u := after (.settleTimeout .a) w
    w.radioCfg.muteMax = 0 ∧ (u.tuner .a).softMute = 120
      ∧ ((after (.qualityReport .a 10 0 0 false false) u).tuner .a).softMute = 0 := by decide +kernel
/-- A TUNE of tuner A under way on the link, with a count of missing acknowledges and pending commands. -/
def linked (missed : Nat) (queue : List (TunerId × LinkCmd)) : Part :=
  { act with tuc := { tuners := ⟨{ player with state := .tuning, missed := missed, acked := false, done := false }, {}⟩
                      link := some (.a, .tune fm90), queue := queue } }
theorem test_wit_link :
    (linked 0 []).tuc.link = some (.a, .tune fm90) ∧ (linked 0 []).tuc.queue = [] ∧ ((linked 0 []).tuner .a).working
      ∧ ((linked 0 []).tuner .a).chan = some fm90 ∧ ((linked 0 []).tuner .a).done = false ∧ (linked 0 []).quiet
      ∧ ((linked 0 []).tuner .a).missed = 0 ∧ (linked 0 [(.a, .standby)]).tuc.queue = [(.a, .standby)]
      ∧ (linked 0 [(.a, .standby)]).quiet ∧ ((linked 0 []).tuner .a).retry = none ∧ act.tuc.link = none
      ∧ (let p := { act with tuc := { tuners := ⟨{ player with retry := some (.tune fm90) }, {}⟩ } }
         (p.tuner .a).retry = some (.tune fm90) ∧ p.running ∧ p.hasAddress .a ∧ (p.tuner .a).state ≠ .fault
           ∧ p.tuc.link = none
          ∧ p.tuc.queue = [])
      ∧ (linked 1 [(.a, .standby)]).quiet ∧ ((linked 1 []).tuner .a).missed = 1 ∧ (linked 1 []).switching .a = false
      ∧ (linked 1 []).switching .b = false := by decide +kernel
theorem test_wit_adapter :
    (playing.tuner .a).state = .playing ∧ (playing.tuner .a).done ∧ (playing.tuner .a).adapter.fifo.length < 256
      ∧ 256 ≤ ({ fifo := List.replicate 256 (0, 0) } : Adapter).fifo.length
      ∧ ({ fifo := List.replicate 255 (0, 0) } : Adapter).fifo.length < 256 ∧ (playing.tuner .b).state = .idle
      ∧ playing.running
      ∧ (playing.tuner .a).adapter.primed = false ∧ ({ primed := true } : Adapter).primed := by decide +kernel
theorem test_wit_quality_store :
    (listed playing).tst.latent = [] ∧ (listed playing).running ∧ ((listed playing).tuner .a).chan = some fm90
      ∧ ((listed playing).tuner .a).state = .playing
      ∧ ((listed playing).tuner .a).done ∧ (∃ k ∈ ((listed playing).tuner .a).claims, k.who.listens = true)
      ∧ (listed playing).holderOf fm90 = some 47 ∧ (listed playing).station 47 = some station1
      ∧ playing.holderOf fm90 = none ∧ (∃ k ∈ ((listed playing).tuner .a).claims, k.prov = false ∧ k.who.listens = true)
      ∧ (∀ k ∈ [(⟨.front, true⟩ : Claim)], k.prov = true) := by
  decide +kernel
theorem test_wit_background :
    let p := listed { act with
      tst := { act.tst with radio := { act.tst.radio with background := true } }
      tuc := { tuners := ⟨{ player with claims := [⟨.background, false⟩] }, {}⟩ }
      stm := { bgIndex := 47 } }
    p.running ∧ p.tst.latent = [] ∧ p.pwc.mode = .active ∧ p.radioCfg.background ∧ p.stm.watch = none ∧ p.stm.watchState = .inactive
      ∧ p.stm.bulletin.latch = .none ∧ p.holding .watch = none ∧ (p.follow .a).lowTimer = false
      ∧ (p.follow .b).lowTimer = false
      ∧ (p.tuner .a).claims = [⟨.background, false⟩] ∧ (∀ k ∈ (p.tuner .b).claims, k.who ≠ .background)
      ∧ (p.tuner .a).state = .playing ∧ (p.tuner .a).done ∧ (p.tuner .a).retry = none ∧ (p.tuner .a).chan = some fm90
      ∧ p.hasAddress .a
      ∧ nextVisit .b { p with stm := { p.stm with bgItem := p.stm.bgItem + 1 } } = some (47, 1, fm95) := by
  decide +kernel
/-- The part with bulletins enabled. -/
def bulletins (p : Part) : Part := { p with tst := { p.tst with radio := { p.tst.radio with bulletins := true } } }
theorem test_wit_watch :
    let p := bulletins (listed act)
    let u := { p with stm := { watch := some 47, watchState := .uncovered } }
    p.takes 0x34 hdr ∧ p.quiet ∧ p.tst.latent = [] ∧ p.tunersFree ∧ p.station 0 = none ∧ p.station 47 = some station1
      ∧ station1.capable ∧ (listed act).radioCfg.bulletins = false ∧ p.radioCfg.bulletins ∧ p.pwc.mode = .active
      ∧ (p.zone .front).state ≠ .playing ∧ bestItem station1.items = some ⟨9500, some 80, some 1⟩ ∧ p.hasAddress .a
      ∧ u.running ∧ u.stm.watch = some 47 ∧ u.stm.watchState = .uncovered ∧ u.stm.bulletin.latch = .none
      ∧ u.radioCfg.background = false
      ∧ u.tunersFree ∧ (u.follow .a).lowTimer = false ∧ (u.follow .b).lowTimer = false
      ∧ ({ station1 with capable := false } : Station).capable = false := by decide +kernel
/-- The watch station is 47, and its claim stands alone on tuner A, whose command has missed an acknowledge once. -/
def watching (other : Tuner) : Part :=
  { bulletins (listed act) with
    stm := { watch := some 47, watchState := .covered }
    tuc := { tuners := ⟨{ player with claims := [⟨.watch, false⟩], missed := 1 }, other⟩, link := some (.a, .standby) } }
theorem test_wit_watch_cleared_and_lost :
    (let p := watching { player with claims := [⟨.front, false⟩] }
     p.takes 0x34 hdr ∧ p.tst.latent = [] ∧ p.stm.bulletin.latch = .none ∧ p.radioCfg.background = false
      ∧ p.holding .background = none ∧ (p.follow .a).lowTimer = false ∧ (p.follow .b).lowTimer = false
      ∧ (p.tuner .a).claims = [⟨.watch, false⟩] ∧ (∀ k ∈ (p.tuner .b).claims, k.who ≠ .watch)
      ∧ (p.tuner .b).claims ≠ [] ∧ p.hasAddress .a ∧ (p.tuner .a).state ≠ .fault ∧ (p.tuner .a).retry = none)
    ∧ (let p := { bulletins (listed playing) with stm := { watch := some 47, watchState := .covered } }
       p.takes 0x34 hdr ∧ (∀ k ∈ (p.tuner .a).claims, k.who ≠ .watch) ∧ (p.tuner .b).claims = []
        ∧ (p.tuner .b).state = .idle ∧ (p.tuner .a).claims ≠ [])
    ∧ (let p := watching {}
       p.running ∧ p.tst.latent = [] ∧ p.stm.watch = some 47 ∧ p.stm.watchState = .covered
        ∧ p.stm.bulletin.latch = .none ∧ p.station 47 = some station1 ∧ p.radioCfg.bulletins
        ∧ p.radioCfg.background = false ∧ p.pwc.mode = .active ∧ (p.zone .front).state ≠ .playing
        ∧ (p.tuner .a).claims = [⟨.watch, false⟩] ∧ (p.tuner .b).claims = [] ∧ (p.tuner .a).missed = 1
        ∧ p.tuc.link = some (.a, .standby) ∧ p.switching .a = false ∧ p.switching .b = false ∧ p.stm.scan = none
        ∧ p.nfu.notices.length ≤ 29) := by decide +kernel
theorem test_wit_queues :
    up.takes 0x35 hdr ∧ up.takes 0x36 hdr ∧ up.takes 0x60 hdr ∧ up.takes 0x61 hdr ∧ up.takes 0x62 hdr ∧ 4 ≤ 255
      ∧ ({} : Nfu).counts.length = 7
      ∧ (({} : Nfu).post .scanDone 0 none).notices.any (fun m => m.kind == .scanDone && m.subject == 0)
      ∧ recordedAt .corrected .standard = false ∧ recordedAt .slip .standard
      ∧ ({} : Nfu).record = none := by decide +kernel

theorem test_wit_service :
    let p := { playing with tst := { playing.tst with radio := { playing.tst.radio with afEnable := false } } }
    p.quiet ∧ p.tst.latent = [] ∧ p.playsOn .a ∧ (p.tuner .a).chan = some fm90 ∧ p.stm.capTuner = none
      ∧ p.stm.bulletin.latch = .none
      ∧ p.radioCfg.bulletins = false ∧ p.radioCfg.afEnable = false ∧ p.indexOfCode 65535 = none ∧ p.holderOf fm90 = none
      ∧ p.freeIndex = some 0 ∧ (p.tst.stations.getD 0 {}).mark = false ∧ p.unitPoisoned 8 0 0 = false
      ∧ (p.tuner .a).heard.bind p.indexOfCode = none ∧ (p.tuner .a).heard = some 7 ∧ p.indexOfCode 7 = none
      ∧ claimantOf .front = some .front ∧ ⟨.front, false⟩ ∈ (p.tuner .a).claims ∧ (p.zone .front).att = some .a
      ∧ (p.tuner .b).state = .idle := by decide +kernel
theorem test_wit_bulletin :
    let p := bulletins (listed playing)
    p.running ∧ p.quiet ∧ p.tst.latent = [] ∧ p.pwc.mode = .active ∧ p.playsOn .a ∧ (p.tuner .a).chan = some fm90
      ∧ p.radioCfg.bulletinZones.isEmpty = false ∧ p.serves .a fm90 ∧ p.stm.capTuner = none ∧ p.radioCfg.bulletins ∧ p.stm.bulletin.latch = .none
      ∧ (p.zone .front).state = .playing ∧ (p.zone .front).source = .radio ∧ (p.zone .front).station = some 47
      ∧ p.station 47 = some station1 ∧ station1.holds fm90 ∧ 1 ≤ station1.code ∧ p.indexOfCode station1.code = some 47
      ∧ p.holderOf fm90 = some 47 ∧ p.anu.waiting.length < 12
      ∧ p.anu.tagHeld p.anu.tagCounter = false := by decide +kernel
/-- Tuner A on FM 90.0, weak for long enough, with FM 95.0 a candidate; tuner B free, or in FAULT. -/
def weak (other : Tuner) (low : Bool) : Part :=
  { listed playing with
    rif := { up.rif with ringTime := 1 }
    tuc := { tuners := ⟨{ player with s := 320 }, other⟩ }
    stm := { follow := ⟨{ lowTimer := low }, {}⟩ } }
theorem test_wit_following :
    (∀ p ∈ [weak {} true, weak {} false, weak { state := .fault } true],
        p.running = true ∧ p.calm = true ∧ p.tst.latent = [] ∧ p.playsOn .a = true ∧ p.eligible .a = true
          ∧ (p.follow (TunerId.a).other).lowTimer = false ∧ (p.tuner .a).chan = some fm90 ∧ p.candidate .a = some fm95
          ∧ (p.tuner (TunerId.a).other).retry = none ∧ p.mayCheck .a = true ∧ p.hasAddress .a = true)
      ∧ ((weak {} true).follow .a).lowTimer ∧ ((weak {} false).follow .a).lowTimer = false
      ∧ ((weak {} true).tuner .b).state = .idle ∧ ((weak {} true).tuner .b).claims = [] ∧ (weak {} true).hasAddress .b
      ∧ (weak { state := .fault } true).borrowable .b = false := by decide +kernel
/-- A switch of FRONT from tuner A to tuner B. -/
def switching (f : Follow) : Part :=
  { playing with
    tst := { playing.tst with radio := { playing.tst.radio with afEnable := false } }
    tuc := { tuners := ⟨player, { player with chan := some fm95, claims := [⟨.front, true⟩], adapter := { primed := true } }⟩ }
    stm := { follow := ⟨f, {}⟩ } }
theorem test_wit_switches :
    (∀ f ∈ [{ state := .switchVerify }, { state := .switchVerify, verified := true }, { state := .switchFade, step := 31 },
            ({ state := .switchFade, step := 32 } : Follow)],
        (switching f).running = true ∧ (switching f).quiet = true ∧ (switching f).tst.latent = []
          ∧ claimantOf .front = some .front ∧ ((switching f).zone .front).att = some .a
          ∧ ((switching f).tuner .a).claims = [⟨.front, false⟩] ∧ ((switching f).tuner .b).claims = [⟨.front, true⟩]
          ∧ ((switching f).tuner .a).state = .playing ∧ ((switching f).tuner .b).state = .playing
          ∧ ((switching f).tuner .a).chan = some fm90 ∧ ((switching f).tuner .b).chan = some fm95
          ∧ (switching f).switching .b = false ∧ (switching f).hasAddress .a = true ∧ (switching f).hasAddress .b = true
          ∧ ((switching f).tuner .a).retry = none ∧ ((switching f).tuner .b).retry = none
          ∧ (switching f).radioCfg.afEnable = false ∧ (switching f).follow .a = f)
      ∧ ((switching {}).tuner .b).adapter.primed
      ∧ (∀ x, x ≠ ZoneId.front → x.ownSource = true → ((switching {}).zone x).att ≠ some .a)
      ∧ ZoneId.follows .rearCabin ∧ ((switching {}).zone .rearCabin).state = .off
      ∧ (let p := (switching {}).setZone .rearCabin { state := .playing, source := .radio, att := some .a }
         (p.zone .rearCabin).state ≠ .off ∧ (p.zone .rearCabin).att = some .a) :=
  ⟨by decide +kernel, by decide, fun x => by cases x <;> decide, by decide, by decide, by decide⟩
/-- The verification window expires with frequency following enabled; the weak tuner is eligible again, or not. -/
theorem test_wit_switch_verify :
    (∀ heard ∈ [some 7, none],
      let p := switching { state := .switchVerify }
      let p := (listed p).setTuner .a { player with heard := heard }
      let p : Part := { p with tst := { p.tst with radio := { p.tst.radio with afEnable := true } } }
      p.running = true ∧ p.quiet = true ∧ p.tst.latent = [] ∧ p.radioCfg.afEnable = true
        ∧ (p.follow .a).state = .switchVerify ∧ p.eligible .a = heard.isSome) := by decide +kernel
/-- A RESET while FRONT's switch from tuner A verifies; entry 47 holds the candidate's channel. -/
theorem test_wit_reset_abandons :
    let p := { listed (switching { state := .switchVerify }) with pwc := up.pwc }
    p.hears ∧ p.switching .a ∧ p.switching .b = false ∧ (p.tuner .b).chan = some fm95 ∧ p.tst.latent = []
      ∧ p.holderOf fm95 = some 47 ∧ up.switching .a = false ∧ up.switching .b = false := by decide +kernel
/-- A blind check of tuner A, which measures FM 95.0 for FM 90.0. -/
def checking (f : Follow) : Part :=
  { playing with
    tuc := { tuners := ⟨{ player with state := .checking, chan := some fm95 }, {}⟩ }
    stm := { follow := ⟨f, {}⟩ } }
theorem test_wit_checks :
    (∀ f ∈ [{ state := .checkMeasure, home := 9000, preScore := 20, sum := 149 },
            { state := .checkMeasure, home := 9000, preScore := 20, sum := 150 }, { state := .checkVerify, home := 9000 },
            ({} : Follow)],
        (checking f).running = true ∧ (checking f).quiet = true ∧ (checking f).tst.latent = [] ∧ ((checking f).tuner .a).chan = some fm95
          ∧ ((checking f).tuner .a).state ≠ .fault ∧ ((checking f).tuner .a).retry = none
          ∧ (checking f).hasAddress .a = true
          ∧ ((checking f).tuner .a).done = true ∧ (checking f).follow .a = f)
      ∧ 149 / 5 < 20 + (checking {}).radioCfg.afMargin ∧ 20 + (checking {}).radioCfg.afMargin ≤ 150 / 5
      ∧ ((checking {}).zone .front).att = some .a ∧ (checking {}).listening .front
      ∧ ZoneId.ownSource .front := by decide +kernel
/-- The part with a prompt playing and prompts waiting. -/
def prompting (x : Option Prompt) (ws : List Prompt) : Part := { act with anu := { playing := x, waiting := ws } }
theorem test_wit_pushes :
    act.takes 0x40 hdr ∧ act.quiet ∧ act.tst.latent = [] ∧ 32767 < 32768 ∧ 384 < 385 ∧ 600000 < 600001
      ∧ (prompting none [nav1]).anu.tagHeld 9 ∧ (prompting none [nav1]).takes 0x40 hdr
      ∧ 12 ≤ (prompting none (List.replicate 12 nav1)).anu.waiting.length ∧ act.anu.tagHeld 32767 = false
      ∧ (prompting none (List.replicate 11 nav1)).anu.waiting.length < 12 ∧ act.anu.tagHeld 32768 = false
      ∧ act.anu.tagCounter = 32768
      ∧ (prompting (some nav1) []).anu.playing = some nav1 ∧ nav1.cls = .nav ∧ act.unitPoisoned 10 15 0 = false
      ∧ (prompting (some nav1) []).takes 0x40 hdr ∧ (prompting (some nav1) []).quiet := by decide +kernel
theorem test_wit_prompt_ends :
    let ring := { nav1 with tag := 32768, cls := .ring }
    let p := prompting (some nav1) [ring, { nav1 with tag := 10, cls := .chime }]
    p.takes 0x41 hdr ∧ p.takes 0x42 hdr ∧ p.quiet ∧ p.anu.tagHeld 8 = false ∧ p.anu.find 9 = some nav1
      ∧ p.anu.find 32768 = some ring ∧ ring.cls ≠ .nav
      ∧ p.anu.find 10 = some { nav1 with tag := 10, cls := .chime } := by decide +kernel
theorem test_wit_prompt_blocks :
    (prompting none [nav1]).running ∧ (prompting none [nav1]).quiet ∧ (prompting none [nav1]).tst.latent = []
      ∧ (prompting (some { nav1 with elapsed := 8 }) []).quiet ∧ 8 + 1 < 10 ∧ 10 ≤ 9 + 1
      ∧ (prompting (some { nav1 with elapsed := 9 }) []).anu.waiting = [] := by decide +kernel
/-- A BULLETIN at the head is passed over in a call, and one with no call starts. -/
def bulletin1 : Prompt := { nav1 with tag := 32768, cls := .bulletin, source := .tuner .a }
theorem test_wit_passed_bulletins :
    (let p := { prompting none [bulletin1, nav1] with clp := { state := .alerting } }
     p.running ∧ p.quiet ∧ p.tst.latent = [] ∧ p.anu.playing = none ∧ p.anu.waiting = [bulletin1] ++ nav1 :: []
      ∧ (∀ x ∈ [bulletin1] ++ [], x.tag ≠ nav1.tag) ∧ bulletin1.cls = .bulletin ∧ p.clp.state = .alerting)
      ∧ (let p := { prompting none [bulletin1] with clp := { state := .active } }
         p.running ∧ p.quiet ∧ p.anu.playing = none ∧ (∀ x ∈ p.anu.waiting, x.cls = .bulletin) ∧ p.clp.state = .active)
      ∧ (let p := prompting none [bulletin1]
         p.running ∧ p.quiet ∧ p.clp.state = .idle ∧ bulletin1.source = .tuner .a) := by decide +kernel
/-- A chime of the default pattern, one segment of 1 ms once, playing. -/
theorem test_wit_chimes :
    let r := { nav1 with cls := .chime, source := .pattern 15 }
    let p := { prompting (some r) [] with anu := { playing := some r, chime := { segment := some ({} : Segment), played := 1 } } }
    let two : Pattern := { count := 2, repeats := 2 }
    p.running ∧ p.quiet ∧ p.tst.latent = [] ∧ p.anu.chime.segment = some ({} : Segment) ∧ p.unitPoisoned 10 15 0 = false
      ∧ p.tst.chimes.getD 15 ({} : Pattern) = {} ∧ ({} : Segment).duration ≤ p.anu.chime.played
      ∧ 0 < ({} : Segment).duration
      ∧ ({} : Pattern).count ≤ r.segment + 1 ∧ ({} : Pattern).repeats ≤ r.pass
      ∧ r.segment + 1 < two.count ∧ two.count ≤ 1 + 1 ∧ r.pass < two.repeats := by decide +kernel
/-- A call in a state, in FRONT. -/
def calling (st : CallState) (priv : Bool) : Part :=
  { act with clp := { state := st, isPrivate := priv, zones := .of fun z => z == .front, admitted := ⟨true, true, false, false⟩ } }
theorem test_wit_alert_and_connect :
    act.takes 0x50 hdr ∧ act.quiet ∧ act.tst.latent = [] ∧ (calling .held false).clp.state ≠ .idle
      ∧ act.clp.state = .idle
      ∧ { act with pwc := { act.pwc with ramp := some 0 } }.pwc.ramp ≠ none ∧ act.pwc.ramp = none
      ∧ (∀ r, act.anu.playing = some r → r.cls ≠ .bulletin) ∧ act.anu.waiting.length < 12
      ∧ act.anu.tagHeld act.anu.tagCounter = false ∧ act.takes 0x51 hdr ∧ (calling .active false).clp.state = .active
      ∧ act.anu.playing = none ∧ (act.anu.waiting.map Prompt.tag).Nodup ∧ act.clp.admitted = .of (fun _ => false) :=
  ⟨by decide +kernel, by decide +kernel, rfl, by decide, rfl, by decide, rfl, fun _ h => by simp [act, up] at h, by decide, by decide,
    by decide +kernel, rfl, rfl, by decide, rfl⟩
theorem test_wit_hold_resume_end :
    (calling .active false).takes 0x52 hdr ∧ (calling .held false).takes 0x53 hdr ∧ (calling .held false).quiet
      ∧ (calling .held false).anu.playing = none ∧ (calling .alerting false).takes 0x54 hdr ∧ act.takes 0x54 hdr
      ∧ act.takes 0x52 hdr
      ∧ act.takes 0x53 hdr ∧ (calling .held false).tst.latent = [] := by decide +kernel
theorem test_wit_call_zones :
    (calling .active true).takes 0x55 hdr ∧ (calling .held false).takes 0x56 hdr
      ∧ (calling .active false).tst.latent = []
      ∧ Nat.testBit 63 4 ∧ Nat.testBit 47 4 = false ∧ Nat.testBit 12 2
      ∧ ((calling .active false).zone .hpLeft).state = .off
      ∧ Nat.testBit 35 2 = false ∧ Nat.testBit 35 3 = false
      ∧ (let p := zoned .hpRight .silent .none (calling .held false)
         p.rif.addressValid ∧ p.tst.latent = [] ∧ p.rlu.assembler ≠ .handling ∧ p.admissionPoisoned .right = false ∧ p.pwc.mode = .active ∧ p.clp.isPrivate = false
          ∧ (p.zone (RearSeat.right).zone).state ≠ .off ∧ (p.tst.admission.get .right).flags.getLsbD 6
          ∧ (p.tst.admission.get .right).flags.getLsbD 7
          ∧ { p.clp with zones := .of fun z => z == ZoneId.hpRight }.zones.get (RearSeat.right).zone) := by decide +kernel
theorem test_wit_meters :
    act.tst.latent = [] ∧ act.running ∧ (act.seat .driver).meterOpen ∧ (dorm.running = false)
      ∧ (calling .active false).clp.state = .active ∧ (calling .active false).clp.admitted.get .passenger
      ∧ (calling .active false).clp.talker = none := by decide +kernel
/-- An ACTIVE call in FRONT with the levels of the two admitted seats, the talker and its above-gate time; the gate is
at 100, the margin 12, the hold 300 blocks. -/
def talking (driver passenger : Nat) (t : Option Seat) (above : Option Nat) : Part :=
  let p := calling .active false
  let p := (p.setSeat .driver { v := driver }).setSeat .passenger { v := passenger, meterSum := 0 }
  { p with clp := { p.clp with talker := t, aboveGate := above } }
/-- Each clause of the judgement at an update of PASSENGER, whose level becomes 240, or of DRIVER: the best seat exactly
at the gate and one of two equals; none; replacement by the margin exactly and by the hold exactly; loss; neither. -/
theorem test_wit_talkers :
    (after (.meterUpdate .passenger) (talking 100 0 none none)).bestSeat .driver
      ∧ (talking 70 70 none none).bestSeat .driver
      ∧ (∀ j, (talking 101 240 none none).clp.admitted.get j = true → 100 < ((talking 101 240 none none).seat j).v)
      ∧ (let q := after (.meterUpdate .passenger) (talking 100 0 (some .passenger) none)
         q.bestSeat .driver ∧ (q.seat .driver).v + 12 ≤ (q.seat .passenger).v)
      ∧ ((talking 90 95 (some .passenger) (some 300)).bestSeat .driver ∧ 300 ≤ 300)
      ∧ (talking 95 90 (some .passenger) none).bestSeat .passenger
      ∧ (let q := talking 85 96 (some .passenger) (some 299)
         q.bestSeat .driver ∧ (q.seat .passenger).v < (q.seat .driver).v + 12 ∧ ¬ 300 ≤ 299)
      ∧ (talking 85 96 none none).callCfg.gateLevel = 100 ∧ (talking 85 96 none none).callCfg.switchMargin = 12
      ∧ (talking 85 96 none none).callCfg.talkerHold = 300 := by
  refine ⟨⟨by decide +kernel, by decide +kernel, fun j => ?_⟩, ⟨by decide, by decide, fun j => ?_⟩, fun j => ?_,
    ⟨⟨by decide +kernel, by decide +kernel, fun j => ?_⟩, by decide +kernel⟩, ⟨⟨by decide, by decide, fun j => ?_⟩, by decide⟩,
    ⟨by decide, by decide, fun j => ?_⟩, ⟨⟨by decide, by decide, fun j => ?_⟩, by decide, by decide⟩, by decide,
    by decide, by decide⟩ <;> cases j <;> decide +kernel
/-- A full-scale tone in the zone and a microphone 40 dB below it, so that the window counts; and silence. -/
def window (c : ContextState) (conv div : Nat) : SeatRt :=
  { context := c, convTimer := conv, divTimer := div, windowOpen := true, micSum := 768 * 83886 ^ 2, refSum := 768 * 8388608 ^ 2 }
theorem test_wit_windows :
    let p := (calling .active false).setSeat .driver (window .training 240 0)
    p.tst.latent = [] ∧ p.running ∧ (p.seat .driver).windowOpen ∧ p.clp.state = .active
      ∧ (p.seat .driver).context ≠ .reset
      ∧ windowCounts (window .training 240 0) ∧ windowCounts { window .training 240 0 with micSum := 0 } = false
      ∧ 256 ≤ 240 + 16 ∧ 239 + 16 < 256 ∧ 128 ≤ 112 + 16 ∧ 111 + 16 < 128
      ∧ p.callCfg.convErle ≤ erleOf (768 * 83886 ^ 2) 0
      ∧ erleOf (768 * 83886 ^ 2) (768 * 83886 ^ 2) < p.callCfg.divErle := by decide +kernel
theorem test_wit_scrub :
    (∀ n ∈ [0, 71, 77, 213], let p := { up with tst := { up.tst with scrubbing := true, scrubPos := n } }
        p.running = true ∧ p.quiet = true ∧ p.tst.latent = [] ∧ p.tst.scrubPos < 214 ∧ p.unitPoisoned 5 6 0 = false)
      ∧ up.tst.scrubbing = false ∧ dorm.running = false := by decide +kernel
theorem test_wit_power_down :
    up.takes 0x70 hdr ∧ act.takes 0x70 hdr
      ∧ (∀ n ∈ [0, 1, 99, 100], let p := { up with pwc := { ramp := some n } }
          p.running = true ∧ p.quiet = true ∧ p.pwc.ramp = some n
            ∧ (p.setZone .driver { call := ⟨384, 0⟩ }).quiet = true
            ∧ ((p.setZone .driver { call := ⟨384, 0⟩ }).zone .driver).call.applied ≠ 384)
      ∧ ∀ z, (up.zone z).ent.applied = 384 ∧ (up.zone z).prm.applied = 384 ∧ (up.zone z).call.applied = 384 :=
  ⟨by decide +kernel, by decide +kernel, by decide +kernel, fun z => by cases z <;> decide⟩
theorem test_wit_vehicle :
    act.takesBroadcasts ∧ up.takesBroadcasts ∧ dorm.takesBroadcasts = false ∧ act.quiet ∧ up.quiet ∧ act.tst.latent = []
      ∧ up.pwc.mode = .reduced ∧ act.pwc.mode = .active ∧ act.nfu.notices.length < 32 ∧ (act.zone .cargo).autoOn = false
      ∧ (let p := { act with zmx := { act.zmx with cargoAuto := false } }
         p.takesBroadcasts ∧ p.quiet ∧ p.tst.latent = [] ∧ p.cargoAuto = false)
      ∧ (∀ x ∈ [(false, ({} : Zone)), (true, { state := .silent, autoOn := true })],
          let p := act.setZone .cargo x.2
          let p : Part := { p with zmx := { p.zmx with cargoAuto := true }, rmx := { p.rmx with tailgateOpen := x.1 } }
          p.takesBroadcasts = true ∧ p.quiet = true ∧ p.tst.latent = [] ∧ p.cargoAuto = true ∧ p.pwc.mode = .active
            ∧ p.rmx.tailgateOpen = x.1 ∧ (p.zone .cargo) = x.2) := by decide +kernel
theorem test_wit_ring_time : act.takesBroadcasts ∧ act.running ∧ act.rif.ringTime < 4294967296
  ∧ dorm.running = false := by decide
theorem test_wit_rear_admission :
    let deny := { act with tst := { act.tst with admission := ⟨{ flags := 0#8, allowed := { radio := false } }, {}⟩ } }
    let noRadio := { act with tst := { act.tst with admission := ⟨{ allowed := { radio := false } }, {}⟩ } }
    rearRequestOf (.hpStation .left 12) = some (3, .left, [12#8]) ∧ (Instr.hpStation .left 12).wellFormed
      ∧ rearRequestOf (.hpSource .left 1) = some (2, .left, [1#8]) ∧ (Instr.hpSource .left 1).wellFormed
      ∧ rearRequestOf (.callLeave .left) = some (8, .left, []) ∧ deny.rif.addressValid ∧ deny.tst.latent = []
      ∧ deny.quiet
      ∧ (deny.tst.admission.get .left).flags.getLsbD (8 - 1) = false ∧ noRadio.quiet
      ∧ noRadio.admissionPoisoned .left = false
      ∧ (noRadio.tst.admission.get .left).flags.getLsbD (3 - 1)
      ∧ (noRadio.tst.admission.get .left).allowed.radio = false
      ∧ up.pwc.mode ≠ .active ∧ up.quiet ∧ deny.rlu.assembler ≠ .handling
      ∧ { act with tst := { act.tst with poisoned := [⟨13, 1, 0⟩] } }.admissionPoisoned .right := by decide +kernel
theorem test_wit_rear_acts :
    (listed act).rif.addressValid ∧ (listed act).tst.latent = [] ∧ (listed act).quiet
      ∧ (listed act).admissionPoisoned .left = false
      ∧ ((listed act).tst.admission.get .left).flags = 255#8 ∧ (listed act).pwc.mode = .active
      ∧ ((listed act).zone .hpLeft).state = .off ∧ ((listed act).zone .hpLeft).source = .none
      ∧ allowedSource ((listed act).tst.admission.get .left).allowed (.media 3)
      ∧ (listed act).station 47 = some station1
      ∧ station1.favourite = some 12 ∧ bestItem station1.items = some ⟨9500, some 80, some 1⟩
      ∧ (∀ j, j ≠ 47 → ((listed act).station j).bind Station.favourite ≠ some 12)
      ∧ (listed act).unitPoisoned 3 1 0 = false ∧ (listed act).rlu.assembler ≠ .handling
      ∧ (∀ j, (act.station j).bind Station.favourite ≠ some 12)
      ∧ (∀ s ∈ (listed act).tst.stations, ∀ m, s.entry.bind Station.favourite = some m → m = 12)
      ∧ ((zoned .hpLeft .silent .none act).zone .hpLeft).state ≠ .off ∧ (zoned .hpLeft .silent .none act).tunersFree
      ∧ (zoned .hpLeft .silent .none act).clp.zones.get .hpLeft = false := by
  refine ⟨by decide, by decide, by decide +kernel, by decide, by decide, by decide, by decide, by decide, by decide, by decide +kernel,
    by decide, by decide +kernel, fun j hj => ?_, by decide, by decide, fun j => ?_, by decide +kernel, by decide, by decide,
    by decide⟩
  case refine_2 =>
    have : act.station j = none := by
      show (List.getD (List.replicate 48 ({} : StationSlot)) j {}).entry = none
      by_cases h : j < 48
      · rw [List.getD_replicate _ h]
      · rw [List.getD_eq_default _ _ (by simpa using h)]
    simp [this]
  have e : (listed act).station j = none := by
    rcases Nat.lt_or_ge j 48 with h | h
    · have : ∀ i < 48, i ≠ 47 → (listed act).station i = none := by decide +kernel
      exact this j h hj
    · show ((listed act).tst.stations.getD j {}).entry = none
      have : (listed act).tst.stations.length = 48 := by decide +kernel
      rw [List.getD_eq_default _ _ (by omega)]
  simp [e]
theorem test_wit_rear_line :
    let p := { up with rlu := { fifo := List.replicate 32 0#8, assembler := .handling } }
    up.rif.addressValid ∧ { up.rif with addressValid := false }.addressValid = false ∧ 32 ≤ p.rlu.fifo.length
      ∧ up.rlu.fifo = [] ∧ up.rlu.assembler = .hunt ∧ (0xA4#8 : Byte) ≠ 0xA5#8
      ∧ ({ fifo := [], assembler := .length, frame := [0xA5#8] } : Rlu).assembler = .length ∧ (3#8 : Byte).toNat < 4
      ∧ 16 < (17#8 : Byte).toNat ∧ p.rif.addressValid ∧ p.rlu.assembler = .handling
      ∧ { up with rlu := { fifo := List.replicate 32 0#8 } }.rlu.assembler ≠ .handling := by decide
/-- The ring's ZONE_POWER, ZONE_SOURCE and TUNE of the headphone zone, whose effect the rear request takes. -/
theorem test_wit_rear_as_ring :
    let p := listed act
    ∀ c ∈ [(Instr.zonePower hdr 2 1, 0x20), (.zoneSource hdr 2 1, 0x21), (.tune hdr 2 0 47 0, 0x30)],
      let q := { after c.1 p with rif := p.rif }
      p.takes c.2 hdr = true ∧ after c.1 p = answered c.2 hdr .ok [] q ∧ q.rif = p.rif := by decide +kernel
theorem test_wit_reports :
    up.tst.latent = [] ∧ up.rif.addressValid ∧ up.rlu.pending.get .left = some .none ∧ up.rlu.lastSent = (RearSeat.left).other
      ∧ { up.rlu with pending := ⟨none, some .done⟩ }.pending.get (RearSeat.right).other = none
      ∧ { up.rlu with pending := ⟨none, none⟩ }.pending.left = none
      ∧ ((up.zone .hpLeft).station.bind up.station).bind Station.label = none := by decide +kernel
theorem test_wit_notices :
    State.reset.part.nfu.Sound
      ∧ ({ notices := (List.range 32).map fun i => ⟨.promptEnded, i, none, 255⟩ } : Nfu).Sound := by
  constructor <;> refine ⟨by decide, by decide +kernel, ?_⟩ <;> decide +kernel
theorem test_wit_address : readsStraps .ringJoin = false ∧ exec .ringJoin State.reset = .next State.reset := ⟨rfl, rfl⟩

/-! ### Witnesses of the statements widened for table access -/

/-- A reply half sent, within its window and after it, at an occupied word and at a bad frame. -/
theorem test_wit_reply_cut_off :
    (∀ late ∈ [false, true],
      let t : Tx := { bytes := List.replicate 10 1, sent := 4, windowOver := late }
      let p := { act with rif := { act.rif with tx := some t } }
      p.rif.addressValid ∧ p.rif.joined ∧ p.pwc.mode ≠ .dormant ∧ p.tst.latent = [] ∧ p.rif.resetPending = false
        ∧ p.rif.rx = [] ∧ p.rif.tx = some t ∧ 0 < t.sent)
      ∧ (laneFrame [2#8, 0#8, 0#8, 0#8]).occupied ∧ (laneFrame [2#8, 0#8, 0#8, 0#8]).lane.length = 4 := by
  decide +kernel
/-- STATIONS with indices 46 and 47 marked and 47 in use. -/
def marked : Part :=
  { act with tst := { act.tst with
    stations := List.replicate 46 {} ++ [{ mark := true }, { entry := some station1, mark := true }] } }
/-- The same with every table shared for reading. -/
def shared : Part := { marked with tst := { marked.tst with shares := List.replicate 18 true } }
theorem test_wit_table_ranges :
    (marked.hears ∧ marked.pwc.mode ≠ .dormant ∧ marked.rif.tx = none ∧ repeatOf marked 0x10 hdr = none
      ∧ repeatOf marked 0x10 hdr5 = none ∧ hdr.source = 0 ∧ hdr5.source ≠ 0 ∧ Nat.testBit 1 1 = false
      ∧ marked.tst.shares.getD 8 false = false ∧ marked.tst.latent = [])
      ∧ (shared.hears ∧ repeatOf shared 0x10 hdr5 = none ∧ shared.tst.shares.getD 8 false = true)
      ∧ (47 < directory.getD 8 0 ∧ 1 < 2 ^ (fieldSizes 8).length ∧ (selected 1 (fieldSizes 8)).sum ≤ 52)
      ∧ (∀ options ∈ [0, 1, 2, 3], (List.range' 45 3).filter
            (fun i => !Nat.testBit options 0 || (marked.tst.stations.getD i {}).mark)
          = if options % 2 = 1 then [46, 47] else [45, 46, 47])
      ∧ (5 < directory.getD 3 0 ∧ 2047 < 2 ^ (fieldSizes 3).length ∧ (selected 2047 (fieldSizes 3)).sum ≤ 52
        ∧ ∀ i < 6, (entryFields marked 3 i).map (fun fs => (selected 2047 fs).flatten.length) = some 12) := by
  decide +kernel
/-- MARKED and CLEAR (R163): the free index 46 is returned for its mark, 45 is not, and both marks are cleared. -/
theorem test_marked_read_clears :
    let q := after (.tableRead hdr 8 45 47 1 3) marked
    q.rif.saved.map Saved.body = some [255#8, 110#8, 47#8, 1#8]
      ∧ (q.tst.stations.getD 46 {}).mark = false ∧ (q.tst.stations.getD 47 {}).mark = false := by decide +kernel
/-- Four whole ZONES entries fit in a reply, and the next index is 4 (R163). -/
theorem test_long_read_goes_on :
    (after (.tableRead hdr 3 0 5 2047 0) act).rif.saved.map (fun s => (s.body.length, s.body.head?)) = some (53, some 4#8) := by
  decide +kernel
/-- EGRESS with two outputs named, the second of them poisoned. -/
def routed : Part :=
  { up with tst := { up.tst with egress := some 47 :: some 46 :: List.replicate 31 none, poisoned := [⟨1, 1, 0⟩] } }
theorem test_wit_egress :
    routed.takes 0x11 hdr ∧ routed.tst.latent = [] ∧ routed.tst.egress[0]? = some (some 47)
      ∧ routed.entryPoisoned 1 0 = false ∧ routed.tst.egress[1]? = some (some 46) ∧ routed.unitPoisoned 1 1 0 = true
      ∧ (∀ j : Fin 33, j.val ≠ 1 → routed.tst.egress[j.val]? ≠ some (some 46))
      ∧ (∀ j : Fin 33, routed.tst.egress[j.val]? ≠ some (some 0)) ∧ 48 ≤ 254 ∧ 254 ≠ 255 := by decide +kernel
/-- The values that the statements of full writes take and refuse, at the bounds of their ranges. -/
theorem test_wit_full_writes :
    (up.takes 0x11 hdr ∧ up.tst.latent = [])
      ∧ (∀ n ∈ [0, 47], n < 48) ∧ ¬ 254 < 48
      ∧ (ZoneId.follows .rearCabin ∧ ZoneId.follows .front = false ∧ (ZoneCfg.powerOn .front).compStep ≤ 8)
      ∧ ((up.tst.chimes.getD 15 {}).segments.length = 8 ∧ ({} : Pattern).segments.length = 8
        ∧ ∀ s ∈ ({} : Pattern).segments, s.freq < 65536 ∧ s.duration < 65536 ∧ s.level < 65536)
      ∧ (∀ k : Fin 4, (SeatCfg.powerOn (Seat.all.getD k .driver)).mic1 < 256
        ∧ 4 ≤ (SeatCfg.powerOn (Seat.all.getD k .driver)).window
        ∧ (SeatCfg.powerOn (Seat.all.getD k .driver)).window ≤ 64)
      ∧ (({} : CallCfg).level ≤ 384 ∧ ({} : CallCfg).divErle ≤ ({} : CallCfg).convErle)
      ∧ (up.tst.curves[1]? = some Curve.powerOn ∧ Curve.powerOn.low.length = 21 ∧ Curve.powerOn.high.length = 20
        ∧ (∀ c ∈ Curve.powerOn.low ++ Curve.powerOn.high, c ≤ 384)
        ∧ (Curve.powerOn.low ++ Curve.powerOn.high).Pairwise (fun a b => b ≤ a)
        ∧ ¬ (List.range 21).Pairwise (fun a b => b ≤ a)) := by decide +kernel
/-- RADIO_CFG written with the power-on values, a tuner's address new or as it was; in ACTIVE a playing tuner keeps its
address. -/
theorem test_wit_radio_write :
    (up.takes 0x11 hdr ∧ up.still ∧ up.tst.latent = [] ∧ playing.takes 0x11 hdr ∧ playing.still
      ∧ playing.tst.latent = [])
      ∧ (∀ n ∈ [8, 119],
          let c : RadioCfg := { up.tst.radio with addresses := ⟨some n, some 0x61⟩ }
          (∀ t, c.addresses.get t ≠ up.tst.radio.addresses.get t → (up.tuner t).state = .idle)
            ∧ radioOk c ∧ c.background = false ∧ c.bulletins = false ∧ up.stm.bulletin.latch ≠ .prompted
            ∧ up.stm.watch = none ∧ up.tst.radio.addresses.get .a ≠ some n ∧ (up.tuner .a).retry = none
            ∧ (playing.tuner .a).state ≠ .idle ∧ c.addresses.get .a ≠ playing.tst.radio.addresses.get .a)
      ∧ radioOk { up.tst.radio with addresses := ⟨some 120, none⟩ } = false :=
  ⟨by decide +kernel, fun n hn => by
    fin_cases hn <;> exact ⟨fun t => by cases t <;> decide, by decide, rfl, rfl, by decide, rfl, by decide, rfl, by decide,
      by decide⟩, by decide⟩
theorem test_wit_render_write :
    up.takes 0x11 hdr ∧ up.tst.latent = [] ∧ up.rmx.crossfade = none ∧ up.rmx.active ≠ .b
      ∧ up.entryPoisoned (bankTable .b) 31 = false ∧ (up.bank .b)[31]? = some ({} : RenderEntry)
      ∧ ({} : RenderEntry).contribs.length = 4 ∧ ({} : RenderEntry).delay ≤ 1023 ∧ ({} : RenderEntry).count ≤ 4
      ∧ 1023 < 1024 ∧ (2, Side.mid) ∈ [(0, Side.l), (1, .r), (2, .mid)] := by decide +kernel
/-- A write that changes the applied trim of a counted contribution, by the column in force (R40). -/
theorem test_render_write_sets_the_applied_trim :
    let p := { up with tst := { up.tst with renderB := List.replicate 31 {} ++ [{ count := 1 }] } }
    ((after (.tableWrite hdr 7 31 8 (byte1 0 ++ byte1 2 ++ byte2 384 ++ byte2 1 ++ byte2 9)) p).bank .b)[31]?.map
      (fun e => (e.count, e.contribs.map Contribution.applied)) = some (1, [384, 0, 0, 0]) := by
  decide +kernel

/-- The station table with a second entry, at index 0, and its label. -/
def station2 : Station :=
  { code := 65535, band := .am, items := [⟨531, none, none⟩], favourite := some 1, label := some (List.replicate 8 0x7E#8) }
/-- `listed` with FRONT's tuner on FM 90.0, which entry 47 holds. -/
theorem test_wit_station_write :
    let p := listed playing
    (p.takes 0x11 hdr ∧ p.still ∧ p.tst.latent = [] ∧ p.tst.stations.length = 48)
      ∧ (∀ e ∈ [station1, station2], e.code < 65536 ∧ 1 ≤ e.code ∧ e.items.length ≤ 12 ∧ e.items ≠ []
          ∧ (∀ it ∈ e.items, it.freq < 65536 ∧ validFreq e.band it.freq = true)
          ∧ (∀ n ∈ e.favourite, 1 ≤ n ∧ n ≤ 12) ∧ (e.items.map Item.freq).Nodup
          ∧ ∀ l ∈ e.label, l.length = 8 ∧ ∀ b ∈ l, 0x20 ≤ b.toNat ∧ b.toNat ≤ 0x7E)
      ∧ (p.station 47 = some station1 ∧ station1.code ≠ station2.code ∧ station1.favourite ≠ station2.favourite
        ∧ station1.holds ⟨.am, 531⟩ = false ∧ station1.holds fm90 ∧ station2.holds fm90 = false)
      ∧ (p.refersTo .front 47 ∧ p.zoneTuner .front = some .a ∧ (p.tuner .a).chan = some fm90)
      ∧ ((listed up).station 47 = some station1 ∧ (listed up).entryPoisoned 8 47 = false ∧ (listed up).still
        ∧ (listed up).takes 0x11 hdr) := by decide +kernel
theorem test_wit_station_removed : ∀ z, (listed up).refersTo z 47 = false := fun z => by cases z <;> decide
/-- A write of the station's own code and list, without the capable flag: the watch, bulletins being off, is cleared. -/
theorem test_capable_cleared_ends_the_watch :
    let p := { listed up with stm := { watch := some 47 } }
    p.still ∧ (after (.tableWrite hdr 8 47 128 (byte1 0)) p).stm.watch = none := by decide +kernel
/-- A write of the label alone, where an IDENT has cleared the capable flag, leaves the watch (R83). -/
theorem test_label_write_keeps_the_watch :
    let p := { up with
      tst := { up.tst with stations := List.replicate 47 {} ++ [{ entry := some { station1 with capable := false } }] }
      stm := { watch := some 47 } }
    (after (.tableWrite hdr 8 47 8 (List.replicate 8 0x41#8)) p).stm.watch = some 47
      ∧ ((after (.tableWrite hdr 8 47 8 (List.replicate 8 0x41#8)) p).station 47).bind Station.label
        = some (List.replicate 8 0x41#8) := by decide +kernel
/-- WATCH_RETRY reads RADIO_CFG as it judges the watch: a double error in it is found, and the power-on values, with
no bulletins, make the watch INACTIVE (R92, R169). -/
theorem test_watch_checks_radio_cfg :
    let p := bulletins (listed act)
    let p := { p with
      stm := { watch := some 47, watchState := .uncovered }
      tst := { p.tst with latent := [⟨⟨9, 0, 0⟩, true, false⟩] } }
    let q := after .watchRetry p
    q.unitPoisoned 9 0 0 = true ∧ q.holding .watch = none ∧ q.stm.watchState = .inactive := by
  decide +kernel
/-- A write of RADIO_CFG that disables the cycle leaves the cycle's tuner IDLE, and the UNCOVERED watch asks for it and
takes it (R70, R86, R92). -/
theorem test_disabled_cycle_lets_the_watch_ask :
    let p := bulletins (listed act)
    let p := { p with
      tst := { p.tst with radio := { p.tst.radio with background := true } }
      stm := { watch := some 47, watchState := .uncovered }
      tuc := { tuners := ⟨{ player with chan := some ⟨.fm, 8800⟩ },
        { player with claims := [⟨.background, false⟩], chan := some fm90 }⟩ } }
    let q := after (.tableWrite hdr 9 0 64 [0x00#8, 0x00#8, 0x01#8]) p
    q.radioCfg.background = false ∧ q.holding .watch = some .b ∧ q.stm.watchState = .covered
      ∧ (q.tuner .b).claims = [⟨.watch, false⟩] ∧ (q.tuner .b).chan = some fm95 := by decide +kernel
/-- A part in which one memory error stands. -/
def upsetIn (p : Part) (u : Upset) : Part := { p with tst := { p.tst with latent := [u] } }
/-- TUNE reads the in-use field of a free index: a single-bit error is corrected and reported, and with an uncorrectable
one the index is unreadable, BAD_ENTRY, and left free with its mark set (R84, R169, R170). -/
theorem test_tune_checks_a_free_index :
    let tuned (double : Bool) := after (.tune hdr 0 0 5 0) (upsetIn (listed act) ⟨⟨8, 5, 0⟩, double, true⟩)
    ((tuned false).rif.saved.map Saved.result = some .notFound ∧ (tuned false).nfu.counts = [0, 1, 0, 0, 0, 0, 0])
      ∧ ((tuned true).rif.saved.map Saved.result = some .badEntry ∧ (tuned true).nfu.counts = [1, 0, 0, 0, 0, 0, 0]
        ∧ (tuned true).tst.stations[5]? = some ⟨none, true⟩) := by decide +kernel
theorem test_wit_tune_of_a_free_index : ∀ i ∈ [0, 47], ∀ d,
    let p := upsetIn act ⟨⟨8, i, 0⟩, d, true⟩
    p.takes 0x30 hdr ∧ p.quiet ∧ ZoneId.hpRight.ownSource ∧ i ≤ 47 ∧ p.tst.stations.length = 48 ∧ p.station i = none
      ∧ p.entryPoisoned 8 i = false ∧ p.tst.latent = [⟨⟨8, i, 0⟩, d, true⟩] ∧ p.referenced i none = false
      ∧ (act.tst.stations[i]?).any StationSlot.mark = false := by decide +kernel
/-- An IDENT takes the one frequency of an unreferenced entry, which goes: its single-bit error is reported all the same
(R80, R169). With an uncorrectable one in the in-use field of index 0, the entry of the new code lies at index 1. -/
theorem test_filing_reports_what_it_removes :
    let p := { playing with tst := { playing.tst with stations :=
      { entry := some { code := 5, band := .fm, items := [{ freq := 9000 }] } } :: List.replicate 47 {} } }
    let q := after (.servicePacket .a true (.ident 7 false false)) (upsetIn p ⟨⟨8, 0, 0⟩, false, false⟩)
    let r := after (.servicePacket .a true (.ident 7 false false)) (upsetIn playing ⟨⟨8, 0, 0⟩, true, true⟩)
    ((q.station 0).map Station.code = some 7 ∧ q.nfu.counts = [0, 1, 0, 0, 0, 0, 0])
      ∧ ((r.station 1).map Station.code = some 7 ∧ r.station 0 = none ∧ r.nfu.counts = [1, 0, 0, 0, 0, 0, 0]) := by
  decide +kernel
/-- A full write of STATIONS reads the qualities that it keeps: with a single-bit error it keeps them and reports it,
with an uncorrectable one the entry goes first and every quality is UNKNOWN (R83, R84, R169). -/
theorem test_full_write_checks_the_old_entry :
    let written (double : Bool) := after (.tableWrite hdr 8 47 255 (stationFields station1 false).flatten)
      (upsetIn (listed up) ⟨⟨8, 47, 0⟩, double, false⟩)
    let quality (q : Part) := (q.station 47).map fun e => e.items.map Item.quality
    (quality (written false) = some (station1.items.map Item.quality)
        ∧ (written false).nfu.counts = [0, 1, 0, 0, 0, 0, 0])
      ∧ (quality (written true) = some (station1.items.map fun _ => none)
        ∧ (written true).nfu.counts = [1, 0, 0, 0, 0, 0, 0]) := by decide +kernel
/-- A clear of ADMISSION reads what it compares: an uncorrectable error is reported, its start and end queue the seat's
report, and the clear ends the poisoning (R120, R165, R169). -/
theorem test_admission_clear_checks_the_old_entries :
    let q := after (.tableClear hdr 13)
      { upsetIn up ⟨⟨13, 1, 0⟩, true, false⟩ with rlu := { pending := ⟨none, none⟩ } }
    q.nfu.counts = [1, 0, 0, 0, 0, 0, 0] ∧ q.rlu.pending = ⟨none, some .none⟩ ∧ q.tst.poisoned = [] := by decide +kernel
/-- A refused write of CALL_CFG leaves the part as it is, but for the reply (R164). -/
theorem test_refused_call_write :
    (after (.tableWrite hdr 12 0 1 (byte2 385)) act).clp = act.clp := by decide +kernel
/-- A readiness held after a check stays held as the crossfade begins (log entry 70). -/
theorem test_fade_keeps_a_held_readiness :
    let p := (switching { state := .switchVerify, verified := true }).setZone .front { listener with held := some true }
    let q := after (.afFadeStep .a) p
    (q.zone .front).held = some true ∧ (q.zone .front).att2 = some .b ∧ (q.zone .front).att = some .a := by
  decide +kernel
/-- A seek's third report, one before it, a step back at its start, and each end's conditions. -/
theorem test_wit_seek_ends :
    (∀ n ∈ [0, 1, 2],
      let k : Seek := { zone := .front, up := true, start := 8750, reports := n }
      let p := seeking k
      p.still ∧ p.tst.latent = [] ∧ (p.tuner .a).seek = some k ∧ (p.tuner .a).chan = some fm90
        ∧ (p.tuner .a).state = .tuning ∧ (p.tuner .a).acked ∧ (p.tuner .a).done ∧ k.returning = false
        ∧ p.hasAddress .a ∧ (p.tuner .a).retry = none)
      ∧ ({ player with heard := none } : Tuner).heard = none
      ∧ (let k : Seek := { zone := .front, up := true, start := 9000, returning := true }
         let p := (seeking k).setTuner .a
          { player with state := .tuning, seek := some k, heard := none, done := false, settle := true }
         p.still ∧ p.tst.latent = [] ∧ (p.tuner .a).heard = none ∧ (p.tuner .a).done = false ∧ (p.tuner .a).acked
          ∧ p.running ∧ (p.tuner .a).settle ∧ (p.tuner .a).chan = some fm90) := by decide +kernel
/-- A cancelled bulletin, playing or waiting; its station bulletin-active, not so, or gone. -/
theorem test_wit_bulletin_cancelled :
    ∀ st ∈ [some 47, none], ∀ x ∈ [(some bulletin1, []), (none, [nav1, bulletin1])],
      let p := { listed (bulletins act) with
        anu := { playing := x.1, waiting := x.2 }
        stm := { bulletin := { latch := .prompted, station := st } } }
      p.takes 0x41 hdr ∧ p.still ∧ p.tst.latent = [] ∧ p.switching .a = false ∧ p.switching .b = false
        ∧ p.anu.find 32768 = some bulletin1 ∧ bulletin1.cls = .bulletin ∧ p.stm.bulletin.latch = .prompted := by
  decide +kernel
/-- A call rings over a playing bulletin, with the queue empty, with ten waiting, and with twelve. -/
theorem test_wit_ring_sets_back :
    (∀ n ∈ [(0, 0), (10, 0), (10, 1), (10, 2)],
      let p := prompting (some bulletin1) (List.replicate n.1 nav1 ++ List.replicate n.2 nav1)
      p.takes 0x50 hdr ∧ p.still ∧ p.tst.latent = [] ∧ p.clp.state = .idle ∧ p.pwc.ramp = none
        ∧ p.anu.playing = some bulletin1
        ∧ p.anu.waiting = List.replicate n.1 nav1 ++ List.replicate n.2 nav1
        ∧ (List.replicate n.1 nav1).length ≤ 10 ∧ (List.replicate n.2 nav1).length ≤ 2
        ∧ (List.replicate n.2 nav1 = [] ∨ (List.replicate n.1 nav1).length = 10)
        ∧ p.anu.tagCounter = 32768)
      ∧ bulletin1.cls = .bulletin ∧ nav1.cls ≠ .ring ∧ nav1.cls ≠ .bulletin
      ∧ (prompting (some { bulletin1 with tag := 40000 }) []).anu.tagHeld 32768 = false := by decide +kernel
/-- A call connects with its ring playing or waiting, with none, and over a playing bulletin. -/
theorem test_wit_connect_ends_the_ring :
    let ring : Prompt := { nav1 with tag := 32768, cls := .ring, maxDuration := none }
    (∀ x ∈ [(some ring, []), (some nav1, [ring]), (none, [ring])],
      let p := { prompting x.1 x.2 with clp := { state := .alerting } }
      p.takes 0x51 hdr ∧ p.still ∧ p.tst.latent = [] ∧ p.pwc.ramp = none
        ∧ p.clp.admitted = .of (fun _ => false)
        ∧ p.anu.find ring.tag = some ring ∧ ring.cls = .ring ∧ (∀ y ∈ p.anu.playing, y.cls = .ring → y = ring)
        ∧ (∀ y ∈ p.anu.waiting, y.cls = .ring → y = ring) ∧ (∀ y ∈ p.anu.playing, y.cls ≠ .bulletin))
      ∧ (let p := prompting (some nav1) [bulletin1]
         p.takes 0x51 hdr ∧ p.still ∧ p.clp.state = .idle ∧ (∀ y ∈ p.anu.waiting, y.cls ≠ .ring)
          ∧ ∀ y ∈ p.anu.playing, y.cls ≠ .ring ∧ y.cls ≠ .bulletin)
      ∧ (let p := prompting (some bulletin1) (List.replicate 11 nav1)
         p.takes 0x51 hdr ∧ p.still ∧ p.clp.state = .idle ∧ (∀ y ∈ p.anu.waiting, y.cls ≠ .ring)
          ∧ p.anu.waiting.length < 12) := by decide +kernel

end Sys2Proof.Tests
end

section
/-! PROOFS. R26's statement on a reset (O26) does not hold as written: its last clause takes every command, also one
that cannot arise on the wires. A frame whose lane is longer than four bytes carries a whole ZONE_OFFSET behind the
reset that the frame itself brings about. -/

namespace Sys2Proof.Machine

/-- A valid frame that does not wake a part in DORMANT is forwarded, and its lane enters assembly (R158, R175). -/
theorem exec_validFrame_dormant {p : Part} (f : Frame) (mics : List Sample) (w : List Instr)
    (ha : p.rif.addressValid = true) (hj : p.rif.joined = true) (hm : p.pwc.mode = .dormant)
    (hw : wakesOn p = false) : exec (.validFrame f mics) ⟨p, w⟩ = .next ⟨dormantFrame f p, w⟩ := by
  have hv : validFrame f mics p = dormantFrame f p := by
    simp [validFrame, joinedFrame, ha, hj, hm, hw]
  show run (validFrame f mics) ⟨p, w⟩ = _
  rw [run_eq, hv]

/-- What an occupied frame leaves of the tables in DORMANT is what its lane leaves of them, behind the reset that the
cut reply may bring about (R158, R166). -/
theorem dormantFrame_tst_of_occupied {f : Frame} (h : f.occupied = true) (p : Part) :
    (dormantFrame f p).tst = (assembleWord f.lane (cutReply (endLoss p))).tst := by
  simp [dormantFrame, h, forward]

/-! ### The refuting state and frame -/

/-- The part in DORMANT with a begun reply, whose window is over and for which a RESET waits (R158, R166). -/
def resetWaitingInDormant : Part :=
  { rif := { joined := true, resetPending := true
             tx := some { bytes := List.replicate 8 0, sent := 4, windowOver := true } }
    pwc := { mode := .dormant } }

/-- An occupied frame with a whole message in its lane: a ZONE_OFFSET that gives REAR_CABIN the follow offset 5. All
else of it is as in a well-formed frame. -/
def overlongOffsetFrame : Frame :=
  { occupied := true
    lane := requestMessage 1 0x23 ⟨0, 0⟩ (requestBody (.zoneOffset ⟨0, 0⟩ (zoneCode .rearCabin) 5))
    slots := List.replicate 48 0 }

/-- The frame cuts off the reply that the RESET waits for. -/
theorem overlongOffsetFrame_restarts (mics : List Sample) :
    restarts (.validFrame overlongOffsetFrame mics) resetWaitingInDormant = true := by
  have hc : resetWaitingInDormant.cutEndsReset = true := rfl
  simp only [restarts, hc, Bool.true_or, Bool.and_true]
  rfl

/-- The follow offset is 0 before the frame, and the message that is taken after the reset writes 5. -/
theorem overlongOffsetFrame_changes_zones :
    (dormantFrame overlongOffsetFrame resetWaitingInDormant).tst.zones ≠ resetWaitingInDormant.tst.zones := by
  intro h
  have before : (resetWaitingInDormant.tst.zones.get .rearCabin).followOffset = 0 := rfl
  have written : ((assembleWord overlongOffsetFrame.lane
      (cutReply (endLoss resetWaitingInDormant))).tst.zones.get .rearCabin).followOffset = 5 := by decide +kernel
  rw [← dormantFrame_tst_of_occupied rfl, h, before] at written
  exact absurd written (by decide)

/-- Refutes O26: a valid frame at which a reset takes effect leaves the ZONES entries as they were only where its lane
has four bytes, and the last clause asks no `Instr.wellFormed` of the command. The occupied frame cuts off the reply
that a RESET waits for; the reset empties the message assembly and ends DORMANT; then the frame's lane, a whole
ZONE_OFFSET, is taken and writes REAR_CABIN's follow offset. -/
theorem not_zoneOffsetWritesTheFollowOffset : ¬ Obligations.ZoneOffsetWritesTheFollowOffset := by
  unfold Obligations.ZoneOffsetWritesTheFollowOffset
  rintro ⟨-, keeps⟩
  exact overlongOffsetFrame_changes_zones
    (keeps _ _ _ [] (overlongOffsetFrame_restarts (List.replicate 6 0)) rfl
      (exec_validFrame_dormant _ _ [] rfl rfl rfl rfl))

end Sys2Proof.Machine
end

section
/-! PROOFS. R61's statement (O34) holds. A quality report and a settle timeout write a tuner's scores once; what they
then complete, count, watch and settle changes no score, so the smoothing step stands in the state that they leave. -/

namespace Sys2Proof.Machine

/-! ### What a report computes -/

/-- The raw score, as R60 gives it. -/
theorem rawScore_eq (cfg : RadioCfg) (fs mp adj : Nat) : rawScore cfg fs mp adj
    = (max 0 (min 100 (2 * ((fs : Int) - cfg.fsFloor) - (mp : Int) / 8 - (adj : Int) / 16))).toNat := by
  simp [rawScore, clampInt]

/-- The separation by RADIO_CFG's fields (R62). -/
theorem sepOf_scoring (cfg : RadioCfg) (pilot : Bool) (qs : Nat) : sepOf cfg.scoring pilot qs
    = if pilot = false ∨ qs ≤ cfg.blendLo then 0 else if cfg.blendHi ≤ qs then 100
      else (qs - cfg.blendLo) * 100 / (cfg.blendHi - cfg.blendLo) := by
  simp only [sepOf, Bool.or_eq_true, Bool.not_eq_true', decide_eq_true_eq]
  rfl

/-- The smoothed quality keeps its range (R61). -/
theorem smooth_le {s q : Nat} (hs : s ≤ 1607) (hq : q ≤ 100) : smooth s q ≤ 1607 := by
  unfold smooth; omega

/-- A smoothing step leaves about seven eighths of the distance to the steady value (R61). -/
theorem smooth_distance (s q : Nat) :
    8 * ((smooth s q : Int) - 16 * q) - 7 * ((s : Int) - 16 * q) = ((s % 8 : Nat) : Int) := by
  unfold smooth; omega

/-! ### What leaves the scores -/

/-- From `p` to `q` the tables, every tuner's claims and what the Station Manager keeps up stand as they were. -/
structure Steady (p q : Part) : Prop where
  tst : q.tst = p.tst
  claims : ∀ u, (q.tuner u).claims = (p.tuner u).claims
  bulletin : q.stm.bulletin = p.stm.bulletin
  watch : q.stm.watch = p.stm.watch
  watchState : q.stm.watchState = p.stm.watchState

/-- What is steady stays calm. -/
theorem Steady.calm {p q : Part} (h : Steady p q) (hc : p.calm = true) : q.calm = true := by
  have hold : ∀ w, q.holding w = p.holding w := fun w => by simp only [Part.holding, h.claims]
  have hcfg : q.radioCfg = p.radioCfg := by unfold Part.radioCfg Part.unitPoisoned; rw [h.tst]
  unfold Part.calm at hc ⊢
  rw [hold, hold, hcfg, h.bulletin, h.watch, h.watchState]; exact hc

/-- From `p` to `p'` nothing steady has changed, nor a tuner's raw score or smoothed quality. -/
structure KeepsScores (p p' : Part) : Prop extends Steady p p' where
  q : ∀ u, (p'.tuner u).q = (p.tuner u).q
  s : ∀ u, (p'.tuner u).s = (p.tuner u).s

theorem KeepsScores.refl (p : Part) : KeepsScores p p := ⟨⟨rfl, fun _ => rfl, rfl, rfl, rfl⟩, fun _ => rfl, fun _ => rfl⟩

theorem Steady.trans {p q r : Part} (h : Steady p q) (g : Steady q r) : Steady p r where
  tst := g.tst.trans h.tst
  claims u := (g.claims u).trans (h.claims u)
  bulletin := g.bulletin.trans h.bulletin
  watch := g.watch.trans h.watch
  watchState := g.watchState.trans h.watchState

theorem KeepsScores.trans {p q r : Part} (h : KeepsScores p q) (g : KeepsScores q r) : KeepsScores p r where
  toSteady := h.toSteady.trans g.toSteady
  q u := (g.q u).trans (h.q u)
  s u := (g.s u).trans (h.s u)

/-- A tuner's record with its claims as they were. -/
theorem Steady.setTuner {p : Part} {t : TunerId} {r : Tuner} (hc : r.claims = (p.tuner t).claims) :
    Steady p (p.setTuner t r) where
  tst := rfl
  claims u := by
    by_cases h : u = t
    · subst h; simp [hc]
    · simp [h]
  bulletin := rfl
  watch := rfl
  watchState := rfl

/-- A tuner's record with its claims and its scores as they were. -/
theorem KeepsScores.setTuner {p : Part} {t : TunerId} {r : Tuner} (hc : r.claims = (p.tuner t).claims)
    (hq : r.q = (p.tuner t).q) (hs : r.s = (p.tuner t).s) : KeepsScores p (p.setTuner t r) where
  toSteady := .setTuner hc
  q u := by
    by_cases h : u = t
    · subst h; simp [hq]
    · simp [h]
  s u := by
    by_cases h : u = t
    · subst h; simp [hs]
    · simp [h]

/-- A change of the blocks other than the Table Store, the Tuner Controller and the Station Manager. -/
theorem KeepsScores.ofBlocks {p q : Part} (ht : q.tst = p.tst) (hu : q.tuc = p.tuc) (hs : q.stm = p.stm) :
    KeepsScores p q := by
  have htuner : ∀ u, q.tuner u = p.tuner u := fun u => by unfold Part.tuner; rw [hu]
  exact ⟨⟨ht, fun u => by rw [htuner], by rw [hs], by rw [hs], by rw [hs]⟩, fun u => by rw [htuner],
    fun u => by rw [htuner]⟩

theorem KeepsScores.setFollow (p : Part) (t : TunerId) (f : Follow) : KeepsScores p (p.setFollow t f) :=
  ⟨⟨rfl, fun _ => rfl, rfl, rfl, rfl⟩, fun _ => rfl, fun _ => rfl⟩

theorem KeepsScores.setScan (p : Part) (x : Option Scan) :
    KeepsScores p { p with stm := { p.stm with scan := x } } :=
  ⟨⟨rfl, fun _ => rfl, rfl, rfl, rfl⟩, fun _ => rfl, fun _ => rfl⟩

/-! ### What a tune's completion and a counted report leave -/

/-- The end of a seek leaves the scores (R74). -/
theorem endSeek_keepsScores {t : TunerId} {k : Seek} {found : Bool} {p : Part} (hl : p.tst.latent = []) :
    KeepsScores p (endSeek t k found p) := by
  have hstop : KeepsScores p (p.setTuner t { p.tuner t with state := .playing, seek := none }) := .setTuner rfl rfl rfl
  cases hc : (p.tuner t).chan with
  | none => simpa [endSeek, hc] using hstop
  | some c =>
    obtain ⟨zm, h, -⟩ := endSeek_only (k := k) (b := found) hl hc
    rw [h]
    exact hstop.trans (.ofBlocks rfl rfl rfl)

/-- What a completed tune brings about leaves the scores (R59, R74, R91). -/
theorem completed_keepsScores {t : TunerId} {p : Part} (hl : p.tst.latent = []) : KeepsScores p (completed t p) := by
  unfold completed
  dsimp only
  split
  case h_1 =>
    split
    · exact endSeek_keepsScores hl
    · exact .refl p
  case h_2 =>
    have hplay : KeepsScores p (p.setTuner t { p.tuner t with state := .playing, note := none }) :=
      .setTuner rfl rfl rfl
    split
    · exact hplay.trans (.ofBlocks rfl rfl rfl)
    · exact hplay
  case h_3 =>
    split
    · have hplay : KeepsScores p (p.setTuner t { p.tuner t with state := .playing }) := .setTuner rfl rfl rfl
      exact hplay.trans (.setFollow _ _ _)
    · exact .refl p
  case h_4 => exact .refl p

/-- The completion of a tune leaves the scores (R59). -/
theorem completeTune_keepsScores {t : TunerId} {p : Part} (hl : p.tst.latent = []) :
    KeepsScores p (completeTune t p) := by
  have hdone : KeepsScores p (p.setTuner t { p.tuner t with settle := false, done := true }) := .setTuner rfl rfl rfl
  exact hdone.trans (completed_keepsScores hl)

/-- A report that is counted and not yet judged by leaves the scores (R74, R87, R91). -/
theorem countReport_keepsScores {t : TunerId} {p : Part} (hk : ∀ k, (p.tuner t).seek = some k → k.reports < 2)
    (hx : ∀ x, p.stm.scan = some x → x.reports < 2) (hf : (p.follow t).reports < 4) :
    KeepsScores p (countReport t p) := by
  unfold countReport
  dsimp only
  split
  case h_1 k hseek =>
    have hlt := hk k hseek
    rw [if_neg (by simp; omega)]
    exact .setTuner rfl rfl rfl
  case h_2 =>
    split
    case h_1 x hscan =>
      have hstands : p.stm.scan = some x := by
        cases h : p.stm.scan <;> simp_all
      have hlt := hx x hstands
      rw [if_neg (by simp; omega)]
      exact .setScan p _
    case h_2 =>
      split
      · rw [if_neg (by simp; omega)]
        exact .setFollow _ _ _
      · exact .refl p

/-- With no seek, no scan and no check to count it, a report is not counted. -/
theorem countReport_uncounted {t : TunerId} {p : Part} (hk : (p.tuner t).seek = none) (hx : p.stm.scan = none)
    (hf : (p.follow t).state ≠ .checkMeasure) : countReport t p = p := by
  simp [countReport, hk, hx, hf]

/-- The watch over the quality leaves the scores (R88). -/
theorem watchQuality_keepsScores {t : TunerId} {p : Part} (hl : p.tst.latent = []) :
    KeepsScores p (watchQuality t p) := by
  unfold watchQuality
  rw [readFollowed_clean t hl]
  dsimp only
  repeat' split
  · exact .setFollow _ _ _
  · exact .refl p
  · exact .setFollow _ _ _

/-- So does the stop of a low-quality timer (R88). -/
theorem stopTimer_keepsScores (t : TunerId) (p : Part) : KeepsScores p (stopTimer t p) := by
  unfold stopTimer
  split
  · exact .refl p
  · exact .setFollow _ _ _

/-- The settling of a calm part without errors stops timers and queues reports, and no more. -/
theorem settle_of_calm {f : Part → Part} {p : Part} (hc : (f p).calm = true) (hl : (f p).tst.latent = []) :
    settle f p = noteReports p (stopTimer .b (stopTimer .a (f p))) := by
  rw [settle, stmSettle_calm hc (readKept_clean hl)]

/-- The settling of a calm part without errors leaves the scores. -/
theorem settle_keepsScores {f : Part → Part} {p : Part} (hc : (f p).calm = true) (hl : (f p).tst.latent = []) :
    KeepsScores (f p) (settle f p) := by
  have hstop : KeepsScores (f p) (stopTimer .b (stopTimer .a (f p))) :=
    (stopTimer_keepsScores .a _).trans (stopTimer_keepsScores .b _)
  rw [settle_of_calm hc hl]
  obtain ⟨rl, h⟩ := noteReports_eq p (stopTimer .b (stopTimer .a (f p)))
  rw [h]
  exact hstop.trans (.ofBlocks rfl rfl rfl)

/-! ### The report and the timeout -/

/-- The tuner's record with an applied report's scores (R60 to R63). -/
abbrev reported (t : TunerId) (fs mp adj : Nat) (pilot : Bool) (p : Part) : Tuner :=
  (p.tuner t).scored p.radioCfg.scoring (rawScore p.radioCfg fs mp adj) pilot

/-- A report is disregarded in IDLE, in FAULT and before the acknowledge (R60, R61). -/
theorem qualityReport_disregarded {t : TunerId} {p : Part} (fs mp adj : Nat) (settled pilot : Bool)
    (h : (p.tuner t).state = .idle ∨ (p.tuner t).state = .fault ∨ (p.tuner t).acked = false) :
    qualityReport t fs mp adj settled pilot p = p := by
  have : (!(p.tuner t).working || !(p.tuner t).acked) = true := by
    rcases h with h | h | h <;> simp [Tuner.working, h]
  simp [qualityReport, this]

/-- What a report brings about behind its scores: it is counted, or completes the tune (R59, R74, R87, R91). -/
def takeScores (t : TunerId) (settled : Bool) (p : Part) : Part :=
  if (p.tuner t).done then countReport t p else if settled then completeTune t p else p

/-- An applied report writes the scores, is counted or completes the tune, and the quality is watched. -/
theorem qualityReport_applied {t : TunerId} {p : Part} (fs mp adj : Nat) (settled pilot : Bool)
    (hl : p.tst.latent = []) (hw : (p.tuner t).working = true) (ha : (p.tuner t).acked = true) :
    qualityReport t fs mp adj settled pilot p
      = watchQuality t (takeScores t settled (p.setTuner t (reported t fs mp adj pilot p))) := by
  simp [qualityReport, takeScores, hw, ha, hl, Tuner.scored]

/-- A report that is not judged by leaves the scores, counted or with its tune completed. -/
theorem takeScores_keepsScores {t : TunerId} {settled : Bool} {p : Part} (hl : p.tst.latent = [])
    (hk : ∀ k, (p.tuner t).seek = some k → k.reports < 2) (hx : ∀ x, p.stm.scan = some x → x.reports < 2)
    (hf : (p.follow t).reports < 4) : KeepsScores p (takeScores t settled p) := by
  unfold takeScores
  split
  · exact countReport_keepsScores hk hx hf
  · split
    · exact completeTune_keepsScores hl
    · exact .refl p

/-- Behind its scores an applied report changes none, up to the report at which a seek, a scan or a check judges. -/
theorem qualityReport_keepsScores {t : TunerId} {p : Part} (fs mp adj : Nat) (settled pilot : Bool)
    (hl : p.tst.latent = []) (hw : (p.tuner t).working = true) (ha : (p.tuner t).acked = true)
    (hk : ∀ k, (p.tuner t).seek = some k → k.reports < 2) (hx : ∀ x, p.stm.scan = some x → x.reports < 2)
    (hf : (p.follow t).reports < 4) :
    KeepsScores (p.setTuner t (reported t fs mp adj pilot p)) (qualityReport t fs mp adj settled pilot p) := by
  have hseek : ∀ k, ((p.setTuner t (reported t fs mp adj pilot p)).tuner t).seek = some k → k.reports < 2 := by
    simpa [Tuner.scored] using hk
  have htake : KeepsScores (p.setTuner t (reported t fs mp adj pilot p)) (takeScores t settled _) :=
    takeScores_keepsScores hl hseek hx hf
  rw [qualityReport_applied fs mp adj settled pilot hl hw ha]
  exact htake.trans (watchQuality_keepsScores (by rw [htake.tst]; exact hl))

/-- The tuner's record with a settle timeout's scores and count (R59). -/
abbrev timedOut (t : TunerId) (p : Part) : Tuner :=
  { (p.tuner t).scored (p.scoring t) 0 false with settleTimeouts := count16 (p.tuner t).settleTimeouts 1 }

/-- Behind its forced step a settle timeout changes no score. -/
theorem settleTimeout_keepsScores {t : TunerId} {p : Part} (hl : p.tst.latent = []) (hr : p.running = true)
    (hs : (p.tuner t).settle = true) : KeepsScores (p.setTuner t (timedOut t p)) (settleTimeout t p) := by
  have h : settleTimeout t p = completeTune t (p.setTuner t (timedOut t p)) := by
    simp only [settleTimeout, hr, hs, Bool.and_self, if_true, ownerReads_clean _ hl]
    rfl
  rw [h]
  exact completeTune_keepsScores hl

/-- Where an event writes tuner `t`'s record and then changes no score, its settling leaves the record's scores. -/
theorem settle_scores {f : Part → Part} {p : Part} {t : TunerId} {r : Tuner} (hc : p.calm = true)
    (hl : p.tst.latent = []) (hf : KeepsScores (p.setTuner t r) (f p)) (hr : r.claims = (p.tuner t).claims) :
    ((settle f p).tuner t).q = r.q ∧ ((settle f p).tuner t).s = r.s := by
  have hcalm : (f p).calm = true := ((Steady.setTuner hr).trans hf.toSteady).calm hc
  have hclean : (f p).tst.latent = [] := by rw [hf.tst]; exact hl
  have hall := hf.trans (settle_keepsScores hcalm hclean)
  exact ⟨by simpa using hall.q t, by simpa using hall.s t⟩

/-! ### A report of a tuner that plays -/

/-- Eligibility does not rest on a tuner's scores (R88). -/
theorem eligible_reported (t : TunerId) (fs mp adj : Nat) (pilot : Bool) (p : Part) :
    (p.setTuner t (reported t fs mp adj pilot p)).eligible t = p.eligible t := by
  simp only [Part.eligible, Part.tuner_setTuner_self]
  rfl

/-- The part after a report of a tuner that plays: its scores, and its low-quality timer (R61, R88). -/
abbrev afterReport (t : TunerId) (fs mp adj : Nat) (pilot : Bool) (p : Part) : Part :=
  (p.setTuner t (reported t fs mp adj pilot p)).setFollow t { p.follow t with
    lowTimer := p.eligible t && decide ((reported t fs mp adj pilot p).s / 16 < p.radioCfg.afThreshold) }

/-- A tuner that plays takes reports and is in MONITOR, and neither a seek nor a scan counts them. -/
theorem reports_of_playsOn {t : TunerId} {p : Part} (h : p.playsOn t = true) :
    (p.tuner t).working = true ∧ (p.tuner t).acked = true ∧ (p.tuner t).done = true ∧ (p.tuner t).seek = none
      ∧ p.stm.scan = none ∧ (p.follow t).state = .monitor ∧ p.monitoring t = true := by
  simp only [Part.playsOn, Bool.and_eq_true, beq_iff_eq, Option.isNone_iff_eq_none, Bool.not_eq_true'] at h
  obtain ⟨⟨⟨⟨⟨⟨⟨⟨⟨hstate, hacked⟩, hdone⟩, hseek⟩, -⟩, -⟩, -⟩, hmon⟩, hsw⟩, hscan⟩ := h
  exact ⟨by simp [Tuner.working, hstate], hacked, hdone, hseek, hscan, hmon, by simp [Part.monitoring, hmon, hsw]⟩

/-- A report of a tuner that plays gives its scores and sets or stops its low-quality timer, and no more. -/
theorem qualityReport_of_playsOn {t : TunerId} {p : Part} (fs mp adj : Nat) (settled pilot : Bool)
    (hl : p.tst.latent = []) (h : p.playsOn t = true) :
    qualityReport t fs mp adj settled pilot p = afterReport t fs mp adj pilot p := by
  obtain ⟨hwork, hacked, hdone, hseek, hscan, hmon, hmonitoring⟩ := reports_of_playsOn h
  have hcount : countReport t (p.setTuner t (reported t fs mp adj pilot p))
      = p.setTuner t (reported t fs mp adj pilot p) :=
    countReport_uncounted (by simpa [Tuner.scored] using hseek) hscan (by simp [hmon])
  have hm : (p.setTuner t (reported t fs mp adj pilot p)).monitoring t = true := hmonitoring
  have htake : takeScores t settled (p.setTuner t (reported t fs mp adj pilot p))
      = p.setTuner t (reported t fs mp adj pilot p) := by
    rw [takeScores, if_pos (by simpa [Tuner.scored] using hdone), hcount]
  rw [qualityReport_applied fs mp adj settled pilot hl hwork hacked, htake]
  unfold watchQuality
  rw [readFollowed_clean t (by exact hl)]
  dsimp only
  rw [eligible_reported]
  cases he : p.eligible t with
  | true => simp [hm, afterReport, he, Tuner.qs]; rfl
  | false => simp [afterReport, he]

theorem afterReport_tuner (t : TunerId) (fs mp adj : Nat) (pilot : Bool) (p : Part) :
    (afterReport t fs mp adj pilot p).tuner t = reported t fs mp adj pilot p := by simp [afterReport]

/-- The timer as the report leaves it is the one that settling leaves (R88). -/
theorem stopTimer_afterReport (t : TunerId) (fs mp adj : Nat) (pilot : Bool) (p : Part) :
    stopTimer t (afterReport t fs mp adj pilot p) = afterReport t fs mp adj pilot p := by
  cases he : p.eligible t with
  | true =>
    have : (afterReport t fs mp adj pilot p).eligible t = true := (eligible_reported t fs mp adj pilot p).trans he
    simp [stopTimer, this]
  | false => exact stopTimer_idle (by simp [afterReport, he])

/-- The settling leaves what a report of a tuner that plays has written, where the other tuner's timer does not run. -/
theorem settle_qualityReport_of_playsOn {t : TunerId} {p : Part} (fs mp adj : Nat) (settled pilot : Bool)
    (hc : p.calm = true) (hl : p.tst.latent = []) (h : p.playsOn t = true)
    (ho : (p.follow t.other).lowTimer = false) :
    settle (qualityReport t fs mp adj settled pilot) p = afterReport t fs mp adj pilot p := by
  have hreport := qualityReport_of_playsOn fs mp adj settled pilot hl h
  have hscored : Steady p (p.setTuner t (reported t fs mp adj pilot p)) := .setTuner rfl
  have hsteady : Steady p (afterReport t fs mp adj pilot p) := hscored.trans (KeepsScores.setFollow _ t _).toSteady
  have hself := stopTimer_afterReport t fs mp adj pilot p
  have hne : t.other ≠ t := by cases t <;> decide
  have hother : stopTimer t.other (afterReport t fs mp adj pilot p) = afterReport t fs mp adj pilot p :=
    stopTimer_idle (by simpa [afterReport, hne] using ho)
  have hboth : stopTimer .b (stopTimer .a (afterReport t fs mp adj pilot p)) = afterReport t fs mp adj pilot p := by
    cases t with
    | a => rw [hself]; exact hother
    | b => rw [show stopTimer .a _ = _ from hother]; exact hself
  rw [settle_of_calm (by rw [hreport]; exact hsteady.calm hc) (by rw [hreport]; exact hl), hreport, hboth]
  exact noteReports_same fun _ => rfl

/-! ### The start of a tune -/

/-- A link command leaves every tuner's smoothed quality. -/
theorem issue_s (t u : TunerId) (cmd : LinkCmd) (p : Part) : ((issue t cmd p).tuner u).s = (p.tuner u).s := by
  unfold issue
  split
  · rfl
  · split
    · by_cases h : u = t
      · subst h; simp
      · simp [h]
    · dsimp only [Part.tuner, startLink]
      split <;> rfl

/-- A tune start sets S to 800 (R58, R61). -/
theorem tuneStart_s (t : TunerId) (c : Chan) (note : Option ZoneId) (checking : Bool) (p : Part) :
    ((tuneStart t c note checking p).tuner t).s = 800 := by
  unfold tuneStart
  rw [issue_s]
  exact congrArg Tuner.s (Part.tuner_setTuner_self p t (tunedRecord c note checking (p.tuner t)))

/-! ### The events -/

theorem exec_qualityReport (t : TunerId) (fs mp adj : Nat) (settled pilot : Bool) (p : Part) (w : List Instr) :
    exec (.qualityReport t fs mp adj settled pilot) ⟨p, w⟩
      = .next ⟨settle (qualityReport t fs mp adj settled pilot) p, w⟩ := rfl

theorem exec_settleTimeout (t : TunerId) (p : Part) (w : List Instr) :
    exec (.settleTimeout t) ⟨p, w⟩ = .next ⟨settle (settleTimeout t) p, w⟩ := rfl

/-- A disregarded report changes nothing of a quiet part. -/
theorem exec_qualityReport_disregarded {t : TunerId} {p : Part} (fs mp adj : Nat) (settled pilot : Bool)
    (w : List Instr) (hq : p.quiet = true)
    (h : (p.tuner t).state = .idle ∨ (p.tuner t).state = .fault ∨ (p.tuner t).acked = false) :
    exec (.qualityReport t fs mp adj settled pilot) ⟨p, w⟩ = .next ⟨p, w⟩ := by
  rw [exec_qualityReport, settle, qualityReport_disregarded fs mp adj settled pilot h, stmSettle_quiet hq,
    noteReports_same fun _ => rfl]

/-- A tuner in a tune, playing or in a check is working. -/
theorem working_of_state {r : Tuner} (h : r.state = .tuning ∨ r.state = .playing ∨ r.state = .checking) :
    r.working = true := by
  rcases h with h | h | h <;> simp [Tuner.working, h]

/-- Settles O34: what an event does behind the one write of its scores leaves them (`settle_scores`), for a report that
nothing judges by and for a settle timeout; a report of a tuner that plays writes the scores and its timer alone. -/
theorem qualityReportsAreScoredAndSmoothed : Obligations.QualityReportsAreScoredAndSmoothed := by
  unfold Obligations.QualityReportsAreScoredAndSmoothed
  refine ⟨?playing, ?smoothed, ?disregarded, ?timeout, ?range, rfl, ?distance, ?start, ?read⟩
  case playing =>
    intro t fs mp adj settled pilot p w hc hl hp ho
    refine ⟨afterReport t fs mp adj pilot p, ?_, ?_, by rw [afterReport_tuner]; rfl⟩
    · rw [exec_qualityReport, settle_qualityReport_of_playsOn fs mp adj settled pilot hc hl hp ho]
    · dsimp only
      rw [← rawScore_eq, ← sepOf_scoring]
      exact ⟨by rw [afterReport_tuner]; rfl, by simp [afterReport, Tuner.scored, smooth]⟩
  case smoothed =>
    intro t fs mp adj settled pilot p w hc hl _ hst ha hk hx hf
    obtain ⟨hq, hs⟩ := settle_scores hc hl
      (qualityReport_keepsScores fs mp adj settled pilot hl (working_of_state hst) ha hk hx hf) rfl
    refine ⟨_, exec_qualityReport t fs mp adj settled pilot p w, ?_, ?_⟩
    · rw [hq, ← rawScore_eq]; rfl
    · rw [hq, hs]; rfl
  case disregarded =>
    intro t fs mp adj settled pilot p w hq h
    exact exec_qualityReport_disregarded fs mp adj settled pilot w hq h
  case timeout =>
    intro t p w hc hl hr hset
    obtain ⟨hq, hs⟩ := settle_scores hc hl (settleTimeout_keepsScores hl hr hset) rfl
    exact ⟨_, exec_settleTimeout t p w, hq, hs⟩
  case range =>
    intro s q hs hq
    have := smooth_le hs hq
    exact ⟨this, by omega⟩
  case distance =>
    intro s q
    rw [smooth_distance]
    omega
  case start =>
    intro t c note checking p
    exact ⟨tuneStart_s t c note checking p, by rw [Tuner.qs, tuneStart_s]⟩
  case read =>
    intro t p
    cases t <;> rfl

end Sys2Proof.Machine
end

section
/-! PROOFS. What every command keeps: the notice queue stays sound (O59), the node address stands (O60), and every
command answers a next state (O1, O2). All rest on one step lemma, `exec_keeps`: each command but POWER_ON leaves the
address and a sound queue. -/

namespace Sys2Proof.Machine

/-! ### The notice queue -/

/-- Two notices have the same kind and subject where the later one updates the earlier (R167). -/
theorem Notice.is_iff (n : Notice) (k : NoticeKind) (i : Nat) : n.is k i = true ↔ (n.kind, n.subject) = (k, i) := by
  simp [Notice.is]

/-- An update in place leaves kind and subject. -/
theorem updateNotice_key (k : NoticeKind) (i : Nat) (v : Option Nat) (n : Notice) :
    ((updateNotice k i v n).kind, (updateNotice k i v n).subject) = (n.kind, n.subject) := by
  unfold updateNotice; split <;> rfl

theorem updateNotice_count {k : NoticeKind} {i : Nat} {v : Option Nat} {n : Notice} (h : 1 ≤ n.count ∧ n.count ≤ 255) :
    1 ≤ (updateNotice k i v n).count ∧ (updateNotice k i v n).count ≤ 255 := by
  unfold updateNotice
  split
  · show 1 ≤ count8 n.count ∧ count8 n.count ≤ 255
    unfold count8; omega
  · exact h

/-- Soundness is of the queue alone. -/
theorem Nfu.Sound.of_notices {n m : Nfu} (h : n.Sound) (hm : m.notices = n.notices) : m.Sound := by
  unfold Nfu.Sound; rw [hm]; exact h

/-- Posting keeps the queue sound: it updates in place, appends what no notice stands for, or discards (R167). -/
theorem Nfu.Sound.post {n : Nfu} (h : n.Sound) (k : NoticeKind) (i : Nat) (v : Option Nat) : (n.post k i v).Sound := by
  obtain ⟨hlen, hnodup, hcount⟩ := h
  obtain ⟨e, -⟩ | ⟨e, hnew, hroom⟩ | ⟨e, -, -⟩ := n.post_cases k i v <;> rw [e]
  · refine ⟨by simpa using hlen, ?_, ?_⟩
    · simpa [List.map_map, Function.comp_def, updateNotice_key] using hnodup
    · intro m hm
      obtain ⟨m', hm', rfl⟩ := List.mem_map.mp hm
      exact updateNotice_count (hcount m' hm')
  · have hfresh : (k, i) ∉ n.notices.map fun m => (m.kind, m.subject) := by
      intro hmem
      obtain ⟨m, hm, hkey⟩ := List.mem_map.mp hmem
      have : n.notices.any (fun m => m.is k i) = true := List.any_eq_true.mpr ⟨m, hm, (m.is_iff k i).mpr hkey⟩
      rw [hnew] at this
      exact Bool.false_ne_true this
    refine ⟨by simp; omega, ?_, ?_⟩
    · rw [List.map_append]
      exact List.nodup_append.mpr ⟨hnodup, by simp, fun a ha b hb e => by
        obtain rfl : b = (k, i) := by simpa using hb
        exact hfresh (e ▸ ha)⟩
    · intro m hm
      rcases List.mem_append.mp hm with hm | hm
      · exact hcount m hm
      · obtain rfl := List.mem_singleton.mp hm
        exact ⟨Nat.le_refl 1, (by decide : 1 ≤ 255)⟩
  · exact ⟨hlen, hnodup, hcount⟩

/-- A fault report posts FAULT at most (R172). -/
theorem Nfu.Sound.fault {n : Nfu} (h : n.Sound) (k : FaultKind) (i e : Option Nat) (time : Nat) :
    (n.fault k i e time).Sound := by
  unfold Nfu.fault
  dsimp only
  split
  · split
    · refine Nfu.Sound.post ?_ _ _ _
      exact h.of_notices rfl
    · exact h.of_notices rfl
  · exact h.of_notices rfl

/-- So does whatever comes of posts and fault reports. -/
theorem Posts.sound {n m : Nfu} (hm : Posts n m) (h : n.Sound) : m.Sound := by
  induction hm with
  | refl => exact h
  | post k i v _ ih => exact ih.post k i v
  | fault k i e time _ ih => exact ih.fault k i e time

/-- The queue with its front fetched is sound (R168). -/
theorem Nfu.Sound.drop {n : Nfu} (h : n.Sound) (i : Nat) (b : Bool) :
    Nfu.Sound { n with notices := n.notices.drop i, overflow := b } := by
  obtain ⟨hlen, hnodup, hcount⟩ := h
  refine ⟨?_, ?_, fun m hm => hcount m (List.mem_of_mem_drop hm)⟩
  · rw [List.length_drop]; omega
  · rw [List.map_drop]; exact hnodup.sublist (List.drop_sublist _ _)

theorem Nfu.sound_of_empty {n : Nfu} (h : n.notices = []) : n.Sound := by
  unfold Nfu.Sound; rw [h]; simp

/-! ### What is kept -/

/-- From `p` to `q` the node address and its validity stand, a part that has joined the ring stays joined, and a sound
notice queue stays sound. -/
structure Keeps (p q : Part) : Prop where
  address : q.rif.address = p.rif.address
  addressValid : q.rif.addressValid = p.rif.addressValid
  joined : p.rif.joined = true → q.rif.joined = true
  sound : p.nfu.Sound → q.nfu.Sound

theorem Keeps.refl (p : Part) : Keeps p p := ⟨rfl, rfl, id, id⟩

theorem Keeps.trans {p q r : Part} (h : Keeps p q) (g : Keeps q r) : Keeps p r :=
  ⟨g.address.trans h.address, g.addressValid.trans h.addressValid, g.joined ∘ h.joined, g.sound ∘ h.sound⟩

/-- What leaves the Ring Interface and does no more to the notices than to post and to report keeps both. -/
theorem Keeps.of_posts {p q : Part} (hr : q.rif = p.rif) (hn : Posts p.nfu q.nfu) : Keeps p q :=
  ⟨by rw [hr], by rw [hr], by rw [hr]; exact id, hn.sound⟩

theorem Keeps.ite {c : Prop} [Decidable c] {p a b : Part} (ha : Keeps p a) (hb : Keeps p b) :
    Keeps p (if c then a else b) := by split <;> assumption

/-! ### Owners -/

@[simp] theorem settling_keeps {f : Part → Result × Part} {p : Part} (hr : (f p).2.rif = p.rif)
    (hn : Posts p.nfu (f p).2.nfu) :
    Keeps p (settling f p).part :=
  .of_posts (by simp [settling, settled, answer, hr]) (by simp [settling, settled, answer, hn])

@[simp] theorem reporting_keeps {f : Part → Result × Part} {p : Part} (hr : (f p).2.rif = p.rif)
    (hn : Posts p.nfu (f p).2.nfu) : Keeps p (reporting f p).part :=
  .of_posts (by simp [reporting, answer, hr]) (by simp [reporting, answer, hn])

@[simp] theorem writing_keeps {f : Part → Result × Part} {p : Part} (table : Nat) (hr : (f p).2.rif = p.rif)
    (hn : Posts p.nfu (f p).2.nfu) : Keeps p (writing table f p).part := by
  unfold writing
  split
  · exact settling_keeps hr hn
  · exact reporting_keeps hr hn

@[simp] theorem settled_keeps {a : Answer} {p : Part} (hr : a.part.rif = p.rif) (hn : Posts p.nfu a.part.nfu) :
    Keeps p (settled p a).part :=
  .of_posts (by simp [settled, hr]) (by simp [settled, hn])

/-- A request on a zone by its id is the request on the zone, or is refused. -/
theorem onZone_cases (zone : Nat) (f : ZoneId → Part → Result × Part) (p : Part) :
    onZone zone f p = (.badValue, p) ∨ ∃ z, zoneOf zone = some z ∧ onZone zone f p = f z p := by
  unfold onZone
  split
  · exact .inr ⟨_, ‹_›, rfl⟩
  · exact .inl rfl

@[simp] theorem onZone_rif {zone : Nat} {f : ZoneId → Part → Result × Part} {p : Part}
    (h : ∀ z, (f z p).2.rif = p.rif) :
    (onZone zone f p).2.rif = p.rif := by
  obtain e | ⟨z, -, e⟩ := onZone_cases zone f p <;> rw [e]
  exact h z

@[simp] theorem onZone_posts {zone : Nat} {f : ZoneId → Part → Result × Part} {p : Part}
    (h : ∀ z, Posts p.nfu (f z p).2.nfu) : Posts p.nfu (onZone zone f p).2.nfu := by
  obtain e | ⟨z, -, e⟩ := onZone_cases zone f p <;> rw [e]
  · exact .refl
  · exact h z

@[simp] theorem noticeFetch_keeps (p : Part) : Keeps p (noticeFetch p).part := ⟨rfl, rfl, id, fun h => h.drop 8 false⟩

@[simp] theorem faultRead_keeps (p : Part) : Keeps p (faultRead p).part := ⟨rfl, rfl, id, fun h => h.of_notices rfl⟩

@[simp] theorem faultLevel_keeps (level : Nat) (p : Part) : Keeps p (faultLevel level p).2 := by
  unfold faultLevel
  split
  · exact .refl p
  · exact ⟨rfl, rfl, id, fun h => h.of_notices rfl⟩

/-- A group of counters cleared: no notice goes (R50). -/
theorem clearGroup_keeps (group : Nat) (p : Part) : Keeps p (clearGroup group p) := by
  unfold clearGroup
  split <;> exact ⟨rfl, rfl, id, fun h => h.of_notices rfl⟩

@[simp] theorem countersRead_keeps (group : Nat) (p : Part) : Keeps p (countersRead group p).part := by
  unfold countersRead
  split
  · exact .refl p
  · exact clearGroup_keeps group p

/-! ### Replies and resets -/

theorem holdReply_keeps (kind : Nat) (h : ReqHeader) (res : Result) (body : List Byte) (p : Part) :
    Keeps p (holdReply kind h res body p) := ⟨rfl, rfl, id, id⟩

theorem saveReply_keeps (kind : Nat) (h : ReqHeader) (a : Answer) : Keeps a.part (saveReply kind h a) := by
  unfold saveReply
  split
  · exact ⟨rfl, rfl, id, id⟩
  · exact .refl _

/-- A request keeps what its owner keeps. -/
theorem ringRequest_keeps {kind len : Nat} {h : ReqHeader} {clear : Bool} {owner : Part → Answer} {p : Part}
    (ho : Keeps p (owner p).part) : Keeps p (ringRequest kind len h clear owner p) := by
  have answered (a : Answer) (ha : Keeps p a.part) :
      Keeps p (holdReply kind h a.result a.body (saveReply kind h a)) :=
    (ha.trans (saveReply_keeps kind h a)).trans (holdReply_keeps ..)
  unfold ringRequest
  split
  · exact .refl p
  · obtain ⟨-, e⟩ | ⟨-, x, -, e⟩ | ⟨-, -, r, -, e⟩ | ⟨-, -, -, e⟩ :=
      takeRequest_cases kind h (ringChecks kind len h.source clear) owner p <;> rw [e]
    · exact ⟨rfl, rfl, id, id⟩
    · exact holdReply_keeps ..
    · exact answered { result := r, part := p } (.refl p)
    · exact answered (owner p) ho

/-- A reset keeps the address and empties the notice queue (R177). -/
theorem applyReset_keeps (cause : StartCause) (p : Part) : Keeps p (applyReset cause p) := by
  have hn : Posts { level := (abandonSwitch .b (abandonSwitch .a p)).nfu.level } (applyReset cause p).nfu := by
    simp [applyReset, resetPart]
  exact ⟨by simp [applyReset, resetPart], by simp [applyReset, resetPart], by simp [applyReset, resetPart],
    fun _ => hn.sound (Nfu.sound_of_empty rfl)⟩

theorem takeReset_keeps (p : Part) : Keeps p (takeReset p) := by
  unfold takeReset
  split <;> exact applyReset_keeps _ p

theorem resetArrives_keeps (len : Nat) (h : ReqHeader) (p : Part) : Keeps p (resetArrives len h p) := by
  unfold resetArrives
  split
  · exact applyReset_keeps _ p
  · exact ringRequest_keeps ⟨rfl, rfl, id, id⟩

theorem emptyTx_keeps (p : Part) : Keeps p (emptyTx p) := by
  have hfree : Keeps p { p with rif := { p.rif with tx := none } } := ⟨rfl, rfl, id, id⟩
  exact .ite (hfree.trans (applyReset_keeps _ _)) hfree

theorem discardReply_keeps (p : Part) : Keeps p (discardReply p) := by
  have hcount : Keeps p { p with rif := { p.rif with replyTimeouts := count16 p.rif.replyTimeouts 1 } } :=
    ⟨rfl, rfl, id, id⟩
  exact hcount.trans (emptyTx_keeps _)

theorem cutReply_keeps (p : Part) : Keeps p (cutReply p) := by
  unfold cutReply
  repeat' split
  · exact .refl p
  · exact discardReply_keeps p
  · exact ⟨rfl, rfl, id, id⟩
  · exact .refl p

theorem sendWord_keeps (t : Tx) (p : Part) : Keeps p (sendWord t p) := by
  unfold sendWord
  split
  · exact emptyTx_keeps p
  · exact ⟨rfl, rfl, id, id⟩

theorem replyWindowExpiry_keeps (p : Part) : Keeps p (replyWindowExpiry p) := by
  unfold replyWindowExpiry
  repeat' split
  · exact discardReply_keeps p
  · exact ⟨rfl, rfl, id, id⟩
  · exact .refl p

/-! ### Broadcasts and messages -/

theorem ignoreBroadcast_keeps (p : Part) : Keeps p (ignoreBroadcast p) := ⟨rfl, rfl, id, id⟩

theorem vehicleState_keeps (source ignition speed tailgate : Nat) (p : Part) :
    Keeps p (vehicleState source ignition speed tailgate p) := by
  unfold vehicleState
  repeat' split
  · exact .refl p
  · exact ignoreBroadcast_keeps p
  · exact .of_posts (by simp) (by simp)
  · exact ignoreBroadcast_keeps p

theorem ringTimeBroadcast_keeps (source time : Nat) (p : Part) : Keeps p (ringTimeBroadcast source time p) := by
  unfold ringTimeBroadcast
  repeat' split
  · exact .refl p
  · exact ignoreBroadcast_keeps p
  · exact ⟨rfl, rfl, id, id⟩

theorem resetBroadcast_keeps (source : Nat) (p : Part) : Keeps p (resetBroadcast source p) := by
  unfold resetBroadcast
  repeat' split
  · exact .refl p
  · exact takeReset_keeps p
  · exact .refl p
  · exact ignoreBroadcast_keeps p

theorem laneError_keeps (p : Part) : Keeps p (laneError p) := ⟨rfl, rfl, id, fun h => h.fault _ _ _ _⟩

theorem abandonMessage_keeps (p : Part) : Keeps p (abandonMessage p) := by
  unfold abandonMessage
  split
  · exact .refl p
  · exact laneError_keeps p

@[simp] theorem onZone_keeps {zone : Nat} {f : ZoneId → Part → Result × Part} {p : Part} (h : ∀ z, Keeps p (f z p).2) :
    Keeps p (onZone zone f p).2 := by
  obtain e | ⟨z, -, e⟩ := onZone_cases zone f p <;> rw [e]
  · exact .refl p
  · exact h z

/-- An owner's answer without further effects. -/
@[simp] theorem answer_keeps {a : Result × Part} {p : Part} (h : Keeps p a.2) : Keeps p (answer a).part := h

/-- ZONE_SOURCE by the zone's id. -/
@[simp] theorem zoneSource_keeps (zone : Nat) (s : Option Source) (p : Part) :
    Keeps p (settling (onZone zone fun z => zoneSource z s) p).part :=
  settling_keeps (onZone_rif fun z => by simp) (onZone_posts fun z => by simp)

/-- ZONE_OFFSET by the zone's id. -/
@[simp] theorem zoneOffset_keeps (zone : Nat) (offset : Int) (p : Part) :
    Keeps p (onZone zone (fun z => zoneOffset z offset) p).2 :=
  onZone_keeps fun z => .of_posts (by simp) (by simp)

@[simp] theorem promptEnd_keeps (tag : Nat) (p : Part) : Keeps p (promptEnd tag p).2 := .of_posts (by simp) (by simp)

@[simp] theorem resetRequest_keeps (p : Part) : Keeps p (resetRequest p).part := ⟨rfl, rfl, id, id⟩

/-- The owner of each kind keeps both: by the frame of its request, the Ring Interface stands, and notices are posted.
-/
theorem ownerOf_keeps (kind source : Nat) (b : List Byte) (p : Part) : Keeps p (ownerOf kind source b p).part := by
  unfold ownerOf
  dsimp only
  split <;> simp [Keeps.of_posts]

theorem dispatchMessage_keeps (m : List Byte) (p : Part) : Keeps p (dispatchMessage m p) := by
  have hother : Keeps p (if p.takesBroadcasts then ignoreBroadcast p else p) := .ite (ignoreBroadcast_keeps p) (.refl p)
  exact .ite (.ite (resetArrives_keeps ..) (ringRequest_keeps (ownerOf_keeps ..)))
    (.ite (.ite (vehicleState_keeps ..) (.ite (ringTimeBroadcast_keeps ..) (.ite (resetBroadcast_keeps ..) hother)))
      (.refl p))

theorem completeMessage_keeps (m : List Byte) (p : Part) : Keeps p (completeMessage m p) := by
  have hempty : Keeps p { p with rif := { p.rif with rx := [] } } := ⟨rfl, rfl, id, id⟩
  exact .ite (hempty.trans (dispatchMessage_keeps m _)) (laneError_keeps p)

theorem assembleWord_keeps (lane : List Byte) (p : Part) : Keeps p (assembleWord lane p) := by
  unfold assembleWord
  dsimp only
  repeat' split
  · exact laneError_keeps p
  · exact completeMessage_keeps _ p
  · exact ⟨rfl, rfl, id, id⟩

/-! ### Frames -/

theorem endLoss_keeps (p : Part) : Keeps p (endLoss p) := ⟨rfl, rfl, id, id⟩

theorem forward_keeps (o : FrameOut) (p : Part) : Keeps p (forward o p) := ⟨rfl, rfl, id, id⟩

theorem joinRing_keeps (p : Part) : Keeps p (joinRing p) := ⟨rfl, rfl, fun _ => rfl, id⟩

theorem readChannels_keeps (f : Frame) (p : Part) : Keeps p (readChannels f p) := ⟨rfl, rfl, id, id⟩

theorem holdChannels_keeps (p : Part) : Keeps p (holdChannels p) := ⟨rfl, rfl, id, id⟩

theorem ownerReads_keeps (tables : List Nat) (p : Part) : Keeps p (ownerReads tables p) := .of_posts (by simp) (by simp)

theorem audioFrame_keeps (mics : List Sample) (p : Part) : Keeps p (audioFrame mics p) := .of_posts (by simp) (by simp)

theorem laneWord_keeps (f : Frame) (p : Part) : Keeps p (laneWord f p).1 := by
  unfold laneWord
  split
  · exact (cutReply_keeps p).trans (assembleWord_keeps f.lane _)
  · have ha := abandonMessage_keeps p
    dsimp only
    split
    · exact ha.trans (sendWord_keeps _ _)
    · exact ha

theorem takeFrame_keeps (f : Frame) (mics : List Sample) (p : Part) : Keeps p (takeFrame f mics p) :=
  (endLoss_keeps p).trans <| (ownerReads_keeps _ _).trans <| (readChannels_keeps f _).trans <|
    (audioFrame_keeps mics _).trans <| (ownerReads_keeps _ _).trans <| (laneWord_keeps f _).trans (forward_keeps _ _)

theorem dormantFrame_keeps (f : Frame) (p : Part) : Keeps p (dormantFrame f p) := by
  have hcut : Keeps p (cutReply (endLoss p)) := (endLoss_keeps p).trans (cutReply_keeps _)
  have hlane := Keeps.ite (c := f.occupied = true) (hcut.trans (assembleWord_keeps f.lane _))
    (hcut.trans (abandonMessage_keeps _))
  exact hlane.trans (forward_keeps _ _)

theorem joinedFrame_keeps (f : Frame) (mics : List Sample) (p : Part) : Keeps p (joinedFrame f mics p) :=
  .ite ((applyReset_keeps _ p).trans (takeFrame_keeps f mics _))
    (.ite (dormantFrame_keeps f p) (takeFrame_keeps f mics p))

theorem validFrame_keeps (f : Frame) (mics : List Sample) (p : Part) : Keeps p (validFrame f mics p) := by
  have hcount : Keeps p { p with rif := { p.rif with joinCount := p.rif.joinCount + 1 } } := ⟨rfl, rfl, id, id⟩
  exact .ite (joinedFrame_keeps f mics p) (.ite ((joinRing_keeps p).trans (joinedFrame_keeps f mics _))
    ((Keeps.ite (c := p.rif.addressValid = true) hcount (.refl p)).trans (forward_keeps _ _)))

theorem joinedBad_keeps (f : Frame) (mics : List Sample) (p : Part) : Keeps p (joinedBad f mics p) := by
  have hcount : Keeps p { p with rif := { p.rif with badFrames := count16 p.rif.badFrames 1 } } := ⟨rfl, rfl, id, id⟩
  have hcut := (hcount.trans (abandonMessage_keeps _)).trans (cutReply_keeps _)
  exact .ite (hcut.trans (forward_keeps _ _)) <| hcut.trans <| (ownerReads_keeps _ _).trans <|
    (holdChannels_keeps _).trans <| (audioFrame_keeps mics _).trans <| (ownerReads_keeps _ _).trans (forward_keeps _ _)

theorem badFrame_keeps (f : Frame) (mics : List Sample) (p : Part) : Keeps p (badFrame f mics p) := by
  have hrestart : Keeps p { p with rif := { p.rif with joinCount := 0 } } := ⟨rfl, rfl, id, id⟩
  exact .ite (joinedBad_keeps f mics p) (hrestart.trans (forward_keeps _ _))

theorem ringJoin_keeps (p : Part) : Keeps p (ringJoin p) := .ite (joinRing_keeps p) (.refl p)

theorem joinGapExpiry_keeps (p : Part) : Keeps p (joinGapExpiry p) := .ite (.refl p) ⟨rfl, rfl, id, id⟩

theorem ringLossDeclared_keeps (p : Part) : Keeps p (ringLossDeclared p) := by
  have hloss : Keeps p (Part.fault { p with
      rif := { p.rif with loss := true, rx := [], ringLosses := count16 p.rif.ringLosses 1 }
      pwc := lossNoted p.pwc } .ringLoss) := ⟨rfl, rfl, id, fun h => h.fault _ _ _ _⟩
  exact .ite (.ite (hloss.trans (discardReply_keeps _)) hloss) (.refl p)

/-! ### Every command -/

/-- An event that settles keeps both where its own effect does. -/
theorem settle_keeps {f : Part → Part} {p : Part} (hr : (f p).rif = p.rif) (hn : Posts p.nfu (f p).nfu) :
    Keeps p (settle f p) :=
  .of_posts (by simp [settle, hr]) (by simp [settle, hn])

/-- The render block of the Call Processor counts the ring time on: the address stands (R155). -/
theorem ringTimeTick_keeps (p : Part) : Keeps p (ringTimeTick p) := by
  unfold ringTimeTick
  split
  · exact ⟨by simp, by simp, by simp, fun h => by simpa using h⟩
  · exact .refl p

/-- Each command but POWER_ON answers a next state, in which the address stands and a sound queue is sound. -/
theorem exec_keeps (c : Instr) (p : Part) (w : List Instr) (hc : readsStraps c = false) :
    ∃ q, exec c ⟨p, w⟩ = .next ⟨q, w⟩ ∧ Keeps p q := by
  cases c with
  | powerOn n => simp [readsStraps] at hc
  | ringJoin => exact ⟨_, rfl, ringJoin_keeps p⟩
  | validFrame f mics => exact ⟨_, rfl, validFrame_keeps f mics p⟩
  | badFrame f mics => exact ⟨_, rfl, badFrame_keeps f mics p⟩
  | replyWindowExpiry => exact ⟨_, rfl, replyWindowExpiry_keeps p⟩
  | ringLossDeclared => exact ⟨_, rfl, ringLossDeclared_keeps p⟩
  | joinGapExpiry => exact ⟨_, rfl, joinGapExpiry_keeps p⟩
  | reset h => exact ⟨_, rfl, resetArrives_keeps 0 h p⟩
  | vehicleState source ignition speed tailgate => exact ⟨_, rfl, vehicleState_keeps ..⟩
  | ringTime source time => exact ⟨_, rfl, ringTimeBroadcast_keeps source time p⟩
  | resetBroadcast source => exact ⟨_, rfl, resetBroadcast_keeps source p⟩
  | ringTimeTick => exact ⟨_, rfl, ringTimeTick_keeps p⟩
  | identify | status | tableRead | tableWrite | tableClear | tableShare | bankSwap | countersRead | zonePower
  | zoneSource | zoneVolume | zoneOffset | zoneMute | tune | seek | scan | scanStop | watch | capture | captureRead
  | promptPush | promptCancel | promptEnd | callAlert | callConnect | callHold | callResume | callEnd | callPrivate
  | callZones | noticeFetch | faultRead | faultLevel | powerDown =>
    exact ⟨_, rfl, ringRequest_keeps (by simp [Keeps.of_posts])⟩
  | ringLossCountExpiry | powerDownRampEnd | zmxRenderBlock | anuRenderBlock | promptDurationExpiry | chimeSegmentEnd
  | qualityReport | settleTimeout | seekJudgeTimeout | scanJudgeTimeout | scanDwellTimeout | backgroundDwellEnd
  | afHoldExpiry | switchVerifyTimeout | afFadeStep | afSwitchComplete | blindCheckMeasureTimeout | checkVerifyTimeout
  | servicePacket | watchRetry | linkNoAck =>
    exact ⟨_, rfl, settle_keeps (by simp) (by simp)⟩
  | rmxRenderBlock | bankCrossfadeEnd | adapterTrimAdjust | scrubPassStart | scrubVisit | qualityStore
  | tunerAudioSample | captureIdleTimeout | linkAck | ackRetryWaitExpiry | rearByteReceived | rearIdleTimeout
  | hpPower | hpSource | hpStation | hpVolume | hpMute | cabinOffset | callJoin | callLeave | stateQuery | reportSend
  | meterUpdate | erleWindowEnd =>
    exact ⟨_, rfl, .of_posts (by simp) (by simp)⟩

/-- Settles O1: the step is a match on the queue. -/
theorem stepRunsTheFrontCommand : Obligations.StepRunsTheFrontCommand :=
  ⟨fun _ _ _ => rfl, fun _ => rfl⟩

/-- Settles O2: POWER_ON answers by its definition, and every other command by `exec_keeps`. -/
theorem everyCommandCompletes : Obligations.EveryCommandCompletes := by
  intro c p w
  cases hc : readsStraps c with
  | true =>
    cases c with
    | powerOn n => exact ⟨_, rfl⟩
    | _ => simp [readsStraps] at hc
  | false =>
    obtain ⟨q, hq, -⟩ := exec_keeps c p w hc
    exact ⟨q, hq⟩

/-- Settles O60 by the step lemma `exec_keeps`. -/
theorem addressChangesOnlyAtPowerOn : Obligations.AddressChangesOnlyAtPowerOn := by
  intro c s t hc ht
  obtain ⟨q, hq, hk⟩ := exec_keeps c s.part s.pending hc
  obtain rfl : t = ⟨q, s.pending⟩ := Host.Outcome.next.inj (ht.symm.trans hq)
  exact ⟨hk.address, hk.addressValid⟩

/-- Settles O59: a step idles, or runs a command that is POWER_ON, which empties the queue, or keeps it sound by
`exec_keeps`. -/
theorem noticeQueueStaysSound : Obligations.NoticeQueueStaysSound := by
  rintro ⟨p, _ | ⟨c, w⟩⟩ t hs ht
  · obtain rfl : t = ⟨p, []⟩ := (Host.Outcome.next.inj ht).symm
    exact hs
  · cases hc : readsStraps c with
    | true =>
      cases c with
      | powerOn n =>
        obtain rfl : t = ⟨powerOnPart n p.draws, w⟩ := (Host.Outcome.next.inj ht).symm
        exact Nfu.sound_of_empty rfl
      | _ => simp [readsStraps] at hc
    | false =>
      obtain ⟨q, hq, hk⟩ := exec_keeps c p w hc
      obtain rfl : t = ⟨q, w⟩ := Host.Outcome.next.inj (ht.symm.trans hq)
      exact hk.sound hs

end Sys2Proof.Machine
end

section
/-! PROOFS. POWER_ON (O3): the part that it leaves is written out in `powerOnPart`, so each value is read off; the
curves are the one table that is computed. -/

namespace Sys2Proof.Machine

/-- The power-on curve (R30). -/
theorem powerOn_curveCode (n d : Nat) (headphone : Bool) {s : Nat} (hs : s ≤ 40) :
    (powerOnPart n d).curveCode headphone s = if s = 0 then 384 else (40 - s) * 6 := by
  have hcurve : (powerOnPart n d).curveCode headphone s = (Curve.powerOn.low ++ Curve.powerOn.high).getD s mute := by
    cases headphone <;> rfl
  have hvalues : ∀ s ≤ 40, (Curve.powerOn.low ++ Curve.powerOn.high).getD s mute
      = if s = 0 then 384 else (40 - s) * 6 := by
    decide
  rw [hcurve, hvalues s hs]

/-- The power-on banks: 32 entries each, disabled and empty (R41). -/
theorem powerOn_bank (n d : Nat) (k : BankId) : (powerOnPart n d).bank k = List.replicate 32 {} := by
  cases k <;> rfl

/-- Settles O3: the values are those of `powerOnPart`. -/
theorem powerOnGivesPowerOnValues : Obligations.PowerOnGivesPowerOnValues := by
  refine ⟨fun n p w => ⟨powerOnPart n p.draws, rfl, ?_⟩, rfl, rfl, Nfu.sound_of_empty rfl⟩
  refine ⟨?rif, rfl, rfl, rfl, rfl, ?curves, rfl, ?banks, rfl, rfl, rfl, rfl, rfl, ?admission, rfl, rfl, rfl, rfl,
    ?zones, rfl, rfl, ?tuners, rfl, rfl, rfl, ?labels, rfl, rfl, rfl, rfl, rfl, rfl, rfl, rfl, rfl, rfl, rfl, rfl, rfl,
    rfl, rfl, rfl, rfl, rfl, rfl, rfl, rfl, rfl, rfl, rfl, ?seats, rfl, rfl, rfl, rfl, rfl, rfl, rfl, ?pending,
    ?maxima, rfl, rfl, rfl⟩
  case rif => simp [powerOnPart, strapped]
  case curves => exact fun i _ s hs => powerOn_curveCode n p.draws (i == 1) hs
  case banks =>
    intro k
    rw [powerOn_bank]
    refine ⟨rfl, fun e he => ?_⟩
    obtain rfl := List.eq_of_mem_replicate he
    exact ⟨rfl, rfl, rfl⟩
  case admission => rintro (_ | _) <;> rfl
  case zones => rintro (_ | _ | _ | _ | _ | _) <;> and_intros <;> rfl
  case tuners => rintro (_ | _) <;> and_intros <;> rfl
  case labels => rintro (_ | _) <;> and_intros <;> rfl
  case seats => rintro (_ | _ | _ | _) <;> and_intros <;> rfl
  case pending => rintro (_ | _) <;> rfl
  case maxima => rintro (_ | _) <;> rfl

end Sys2Proof.Machine
end

section
/-! PROOFS. The statement on what resets leave (O4) does not hold as written: it takes every state, also one whose node
address no message can name. A message's destination is read modulo 64 (R180), so that an addressed RESET written to
address 100 goes by the part, while `Part.resetCompletes` counts it as the part's. -/

namespace Sys2Proof.Machine

/-- A RESET of source 0 whose destination byte is 100. -/
def resetTo100 : List Byte := requestMessage 100 0x71 ⟨0, 0⟩ []

/-- A DORMANT part with the address 100, the first word of that RESET in assembly and a tag counter that is not at its
value after a reset. -/
def dormantAt100 : Part :=
  { rif := { address := 100, joined := true, rx := resetTo100.take 4 }
    pwc := { mode := .dormant }
    anu := { tagCounter := 40000 } }

/-- The frame with the second word of the RESET. -/
def secondResetWord : Frame := { occupied := true, lane := resetTo100.drop 4, slots := List.replicate 48 0 }

/-- By `restarts` the frame is one at which a reset takes effect. -/
theorem secondResetWord_restarts (mics : List Sample) :
    restarts (.validFrame secondResetWord mics) dormantAt100 = true := by
  have hcompletes : dormantAt100.resetCompletes secondResetWord.lane = true := by decide +kernel
  simp only [restarts, hcompletes, Bool.or_true, Bool.and_true]
  rfl

/-- The message is for another node, and the tag counter stays. -/
theorem secondResetWord_tagCounter : (dormantFrame secondResetWord dormantAt100).anu.tagCounter = 40000 := by
  decide +kernel

theorem secondResetWord_wellFormed : (Instr.validFrame secondResetWord (List.replicate 6 0)).wellFormed = true := by
  decide +kernel

/-- Refutes O4: the frame with the last word of an addressed RESET, to a part in DORMANT whose address is 100. No reset
takes effect, as the message's destination 100 is read as 36, and the tag counter is not 32768 behind it. -/
theorem not_resetsLeaveRampsAndPromptsAtRest : ¬ Obligations.ResetsLeaveRampsAndPromptsAtRest := by
  unfold Obligations.ResetsLeaveRampsAndPromptsAtRest
  intro h
  obtain ⟨q, hq, -, hprompts, -⟩ :=
    h _ dormantAt100 [] (secondResetWord_restarts (List.replicate 6 0)) secondResetWord_wellFormed
  rw [exec_validFrame_dormant _ _ [] rfl rfl rfl rfl] at hq
  obtain rfl : q = dormantFrame secondResetWord dormantAt100 := (congrArg State.part (Host.Outcome.next.inj hq)).symm
  obtain ⟨-, -, hcounter, -⟩ := hprompts
  rw [secondResetWord_tagCounter] at hcounter
  exact absurd hcounter (by decide)

end Sys2Proof.Machine
end

section
/-! PROOFS. A RESET keeps the tables and the address (O5). A reset writes the part anew from a few of its fields,
`ResetBase`; the switch that it abandons first changes none of them, and of the tables the item of its candidate alone.
-/

namespace Sys2Proof.Machine

/-! ### What a reset reads -/

/-- The fields of the part, beside those that the frame lemmas speak of, from which a reset forms the part after it
(R177). -/
@[ext] structure ResetBase where
  renderA : List RenderEntry
  renderB : List RenderEntry
  radio : RadioCfg
  sources : List SourceCfg
  cargoAuto : Bool
  scoring : PerTuner ScoreCfg
  level : FaultLevel
  zones : PerZone ZoneCfg
  chimes : List Pattern

/-- The part's fields of that kind. -/
def Part.resetBase (p : Part) : ResetBase :=
  { renderA := p.tst.renderA, renderB := p.tst.renderB, radio := p.tst.radio, sources := p.zmx.sources
    cargoAuto := p.zmx.cargoAuto, scoring := .of fun t => (p.tuner t).scoring, level := p.nfu.level
    zones := p.tst.zones, chimes := p.tst.chimes }

@[simp] theorem resetBase_setZone (p : Part) (z : ZoneId) (r : Zone) : (p.setZone z r).resetBase = p.resetBase := rfl

@[simp] theorem resetBase_setFollow (p : Part) (t : TunerId) (f : Follow) :
    (p.setFollow t f).resetBase = p.resetBase := rfl

theorem resetBase_setTuner (p : Part) (t : TunerId) (r : Tuner) (h : r.scoring = (p.tuner t).scoring) :
    (p.setTuner t r).resetBase = p.resetBase := by
  have hs : (PerTuner.of fun u => ((p.setTuner t r).tuner u).scoring) = PerTuner.of fun u => (p.tuner u).scoring := by
    apply PerTuner.ext_get
    intro u
    by_cases hu : u = t
    · subst hu; simp [h]
    · simp [hu]
  simp [Part.resetBase, hs]

@[simp] theorem resetBase_post (p : Part) (k : NoticeKind) (i : Nat) (v : Option Nat) :
    (p.post k i v).resetBase = p.resetBase := by simp [Part.resetBase]

@[simp] theorem resetBase_fault (p : Part) (k : FaultKind) (i e : Option Nat) :
    (p.fault k i e).resetBase = p.resetBase := by simp [Part.resetBase]

@[simp] theorem resetBase_updStation (p : Part) (i : Nat) (f : StationSlot → StationSlot) :
    (p.updStation i f).resetBase = p.resetBase := rfl

@[simp] theorem resetBase_cleanEntry (table entry : Nat) (p : Part) :
    (cleanEntry table entry p).resetBase = p.resetBase := rfl

@[simp] theorem resetBase_setMark (i : Nat) (p : Part) : (setMark i p).resetBase = p.resetBase := by
  unfold setMark; split <;> simp

@[simp] theorem resetBase_unnameStation (i : Nat) (p : Part) : (unnameStation i p).resetBase = p.resetBase :=
  foldl_keeps _ _ _ _ fun q z => by split <;> simp

@[simp] theorem resetBase_removeStation (i : Nat) (p : Part) : (removeStation i p).resetBase = p.resetBase := by
  simp [removeStation]

@[simp] theorem resetBase_rebuildStation (i : Nat) (t : Option TunerId) (code : Option Nat) (p : Part) :
    (rebuildStation i t code p).resetBase = p.resetBase := by
  unfold rebuildStation; split <;> simp

@[simp] theorem resetBase_issue (t : TunerId) (cmd : LinkCmd) (p : Part) : (issue t cmd p).resetBase = p.resetBase := by
  have hlink : ∀ c : Tuc, c.tuners = p.tuc.tuners → ({ p with tuc := startLink c } : Part).resetBase = p.resetBase := by
    intro c hc
    unfold startLink
    split <;> simp [Part.resetBase, Part.tuner, hc]
  unfold issue
  split
  · rfl
  · split
    · exact resetBase_setTuner _ _ _ rfl
    · exact hlink _ rfl

@[simp] theorem resetBase_dropClaim (w : Claimant) (t : TunerId) (p : Part) :
    (dropClaim w t p).resetBase = p.resetBase := resetBase_setTuner _ _ _ rfl

@[simp] theorem resetBase_idleTuner (t : TunerId) (p : Part) : (idleTuner t p).resetBase = p.resetBase := by
  unfold idleTuner
  simp only [resetBase_issue, resetBase_setFollow]
  exact resetBase_setTuner _ _ _ rfl

@[simp] theorem resetBase_idleIfFree (t : TunerId) (p : Part) : (idleIfFree t p).resetBase = p.resetBase := by
  unfold idleIfFree; split <;> simp

@[simp] theorem resetBase_giveUp (w : Claimant) (p : Part) : (giveUp w p).resetBase = p.resetBase := by simp [giveUp]

@[simp] theorem resetBase_clearWatch (p : Part) : (clearWatch p).resetBase = p.resetBase := by
  unfold clearWatch; rw [resetBase_giveUp]; rfl

@[simp] theorem resetBase_stationPoisoned (i : Nat) (p : Part) : (stationPoisoned i p).resetBase = p.resetBase := by
  unfold stationPoisoned
  split
  · simp
  · split
    · simp
    · dsimp only
      repeat' split
      all_goals simp

@[simp] theorem resetBase_checkStation (i : Nat) (p : Part) : (checkStation i p).resetBase = p.resetBase := by
  obtain e | ⟨q, rfl, e | e | e⟩ := checkWith_cases (stationPoisoned i) ⟨tblStations, i, 0⟩ p <;>
    rw [checkStation, e]
  · rfl
  · rw [resetBase_fault, resetBase_stationPoisoned]; rfl
  · rw [resetBase_fault]; rfl

@[simp] theorem resetBase_storeQuality (c : Chan) (k : Nat) (p : Part) :
    (storeQuality c k p).resetBase = p.resetBase := by
  have hread : (readHolder c p).resetBase = p.resetBase := by unfold readHolder; split <;> simp
  unfold storeQuality
  dsimp only
  split <;> simp [hread]

@[simp] theorem resetBase_leaveFade (p : Part) : (leaveFade p).resetBase = p.resetBase :=
  foldl_keeps _ _ _ _ fun q z => by split <;> simp

/-- The abandonment of a switch changes nothing that a reset reads. -/
@[simp] theorem resetBase_abandonSwitch (t : TunerId) (p : Part) : (abandonSwitch t p).resetBase = p.resetBase := by
  unfold abandonSwitch
  split
  · refine (resetBase_idleIfFree _ _).trans <| (resetBase_setTuner _ _ _ (by rfl)).trans <|
      (resetBase_setFollow _ _ _).trans <| (resetBase_leaveFade _).trans ?_
    split <;> simp
  · rfl

/-! ### The abandoned switch -/

theorem abandonSwitch_none {t : TunerId} {p : Part} (h : p.switching t = false) : abandonSwitch t p = p := by
  simp [abandonSwitch, h]

/-- A tuner that does not switch does not by going IDLE. -/
theorem idleIfFree_switching {t u : TunerId} {p : Part} (h : p.switching u = false) :
    (idleIfFree t p).switching u = false := by
  have hend : (idleIfFree t p).follow u = p.follow u ∨ (idleIfFree t p).follow u = (p.follow u).ended := by
    unfold idleIfFree idleTuner
    split
    · by_cases hu : u = t
      · subst hu; right; simp [Part.follow, Part.setFollow]
      · left; simp [Part.follow, Part.setFollow, hu]
    · exact .inl rfl
  unfold Part.switching at h ⊢
  rcases hend with e | e <;> rw [e]
  · exact h
  · rfl

@[simp] theorem leaveFade_stm (p : Part) : (leaveFade p).stm = p.stm := by simp

/-- With the one switch abandoned, the tuners switch no more. -/
theorem abandonSwitch_other {t : TunerId} {p : Part} (h : p.switching t.other = false) (hl : p.tst.latent = []) :
    (abandonSwitch t p).switching t.other = false := by
  unfold abandonSwitch
  split
  · apply idleIfFree_switching
    have hne : t.other ≠ t := by cases t <;> decide
    unfold Part.switching at h ⊢
    have hstm : ∀ c k, (storeQuality c k p).stm = p.stm := by
      intro c k
      simp only [storeQuality, readHolder_clean c hl]
      split <;> rfl
    dsimp only
    split <;> simpa [Part.follow, Part.setFollow, hne, hstm] using h
  · exact h

/-- The tables after the abandonment are those with the candidate's quality stored (R89). -/
theorem abandonSwitch_tst {t : TunerId} {c : Chan} {p : Part} (h : p.switching t = true)
    (hc : (p.tuner t.other).chan = some c) :
    (abandonSwitch t p).tst = (storeQuality c ((p.tuner t.other).s / 16) p).tst := by
  unfold abandonSwitch
  rw [if_pos h]
  simp [hc, Tuner.qs]

/-! ### The reset -/

/-- The bus addresses are held through a poisoning of RADIO_CFG (R57). -/
theorem hasAddress_eq (p : Part) (t : TunerId) : p.hasAddress t = (p.tst.radio.addresses.get t).isSome := by
  unfold Part.hasAddress Part.radioCfg
  split <;> rfl

/-- A STANDBY for a tuner at rest, with or without an address. -/
theorem issue_atRest {t : TunerId} {cmd : LinkCmd} {p : Part} (hs : (p.tuner t).state = .idle)
    (hr : (p.tuner t).retry = none) :
    issue t cmd p = if p.hasAddress t then
        { p with tuc := startLink { p.tuc with queue := p.tuc.queue.filter (fun x => x.1 != t) ++ [(t, cmd)] } }
      else p := by
  unfold issue
  cases p.hasAddress t <;> simp [hs, hr]

/-- With both tuners at rest and the link free, the two STANDBYs are on the link and behind it, A's before B's. -/
theorem issue_standbys {p : Part} (hs : ∀ t, (p.tuner t).state = .idle) (hr : ∀ t, (p.tuner t).retry = none)
    (hl : p.tuc.link = none) (hq : p.tuc.queue = []) :
    ∃ tu, issue .b .standby (issue .a .standby p) = { p with tuc := tu } ∧ tu.tuners = p.tuc.tuners
      ∧ tu.link.toList ++ tu.queue = (TunerId.all.filter p.hasAddress).map fun t => (t, LinkCmd.standby) := by
  have second (tu : Tuc) (h : tu.tuners = p.tuc.tuners) := issue_atRest (p := { p with tuc := tu }) (t := .b)
    (cmd := .standby) (by simpa only [Part.tuner, h] using hs .b) (by simpa only [Part.tuner, h] using hr .b)
  have haddr (tu : Tuc) : ({ p with tuc := tu } : Part).hasAddress .b = p.hasAddress .b := rfl
  have hfirst : startLink { p.tuc with queue := p.tuc.queue.filter (fun x => x.1 != .a) ++ [(.a, .standby)] }
      = { p.tuc with link := some (.a, .standby), queue := [] } := by simp [startLink, hl, hq]
  rw [issue_atRest (hs .a) (hr .a), hfirst]
  simp only [haddr] at second
  cases hA : p.hasAddress .a <;> cases hB : p.hasAddress .b <;> rw [hB] at second
  · exact ⟨_, second p.tuc rfl, rfl, by simp [TunerId.all, hA, hB, hl, hq]⟩
  · exact ⟨_, second p.tuc rfl, by simp [startLink, hl, hq], by simp [TunerId.all, hA, hB, startLink, hl, hq]⟩
  · exact ⟨_, second { p.tuc with link := some (.a, .standby), queue := [] } rfl, rfl, by simp [TunerId.all, hA, hB]⟩
  · exact ⟨_, second { p.tuc with link := some (.a, .standby), queue := [] } rfl, rfl,
      by simp [TunerId.all, hA, hB, startLink]⟩

/-- The part as a reset forms it, before the STANDBYs: from the part with its switch abandoned. -/
abbrev beforeStandby (cause : StartCause) (p : Part) : Part := resetPart cause (abandonSwitch .b (abandonSwitch .a p))

/-- A reset leaves the part as it forms it, and a STANDBY on the link or behind it for each tuner with an address
(R55, R76). -/
theorem applyReset_eq (cause : StartCause) (p : Part) :
    ∃ tu, applyReset cause p = { beforeStandby cause p with tuc := tu }
      ∧ tu.tuners = (beforeStandby cause p).tuc.tuners
      ∧ tu.link.toList ++ tu.queue
          = (TunerId.all.filter (beforeStandby cause p).hasAddress).map fun t => (t, LinkCmd.standby) :=
  issue_standbys (fun t => by cases t <;> rfl) (fun t => by cases t <;> rfl) rfl rfl

/-- A contribution without its applied trim, and an entry without those of its contributions. -/
def RenderEntry.untrimmed (e : RenderEntry) : RenderEntry :=
  { e with contribs := e.contribs.map fun (c : Contribution) => { c with applied := 0 } }

/-- The trims settled: nothing else of an entry changes (R52). -/
theorem untrimmed_settleTrims (isOpen : Bool) (e : RenderEntry) : (settleTrims isOpen e).untrimmed = e.untrimmed := by
  have hmap (l : List Contribution) (f : Contribution × Nat → Nat) (n : Nat) :
      ((l.zipIdx n).map fun x => { x.1 with applied := f x }).map (fun (c : Contribution) => { c with applied := 0 })
        = l.map fun (c : Contribution) => { c with applied := 0 } := by
    induction l generalizing n with
    | nil => rfl
    | cons c l ih => simpa using ih (n + 1)
  simp only [RenderEntry.untrimmed, settleTrims, RenderEntry.mk.injEq, true_and]
  exact hmap e.contribs _ 0

/-- The item of a channel stored into: which entry has changed, and how (R85). -/
theorem storeQuality_station {c : Chan} {k : Nat} {p : Part} (hl : p.tst.latent = []) (i : Nat) :
    (storeQuality c k p).station i = if p.holderOf c = some i then (p.station i).map fun e =>
        { e with items := e.items.map fun it =>
            if it.freq = c.freq then { it with quality := some k, heard := some p.rif.ringTime } else it }
      else p.station i := by
  simp only [storeQuality, readHolder_clean c hl]
  cases h : p.holderOf c with
  | none => rfl
  | some j =>
    have hj : j < p.tst.stations.length := (List.findIdx?_eq_some_iff_getElem.mp h).1
    by_cases hij : j = i
    · subst hij
      simp [Part.station, Part.updStation, updAt, List.getD, hj]
    · simp [Part.station, Part.updStation, updAt, List.getD, hij]

/-- The stations after the abandonment of the one switch there is (R89, R90). -/
theorem abandonBoth_station {t : TunerId} {c : Chan} {p : Part} (ht : p.switching t = true)
    (ho : p.switching t.other = false) (hc : (p.tuner t.other).chan = some c) (hl : p.tst.latent = []) (i : Nat) :
    (abandonSwitch .b (abandonSwitch .a p)).station i = (storeQuality c ((p.tuner t.other).s / 16) p).station i := by
  have htst : (abandonSwitch .b (abandonSwitch .a p)).tst = (storeQuality c ((p.tuner t.other).s / 16) p).tst := by
    cases t with
    | a => rw [abandonSwitch_none (t := .b) (abandonSwitch_other (t := .a) ho hl), abandonSwitch_tst ht hc]
    | b => rw [abandonSwitch_none (t := .a) ho, abandonSwitch_tst ht hc]
  simp only [Part.station, htst]

/-- A RESET that takes effect at once is a reset with the cause of the mode (R177, Table 11.2). -/
theorem takeReset_eq (p : Part) : takeReset p = applyReset (if p.pwc.mode = .dormant then
    (if p.pwc.dormantCause = some .loss then .ringLoss else .wake) else .ringReset) p := by
  unfold takeReset wake wakeCause
  simp only [beq_iff_eq]
  split <;> rfl

/-- The RESET broadcast, and in DORMANT the addressed RESET, take effect at once where they are heard. -/
theorem exec_reset_atOnce {c : Instr} {p : Part} (w : List Instr) (hh : p.hears = true)
    (hc : c = .resetBroadcast 0 ∨ ∃ seq, c = .reset ⟨0, seq⟩ ∧ p.pwc.mode = .dormant) :
    exec c ⟨p, w⟩ = .next ⟨takeReset p, w⟩ := by
  obtain rfl | ⟨seq, rfl, hm⟩ := hc
  · have h : resetBroadcast 0 p = takeReset p := by simp [resetBroadcast, hh]
    exact congrArg (fun q => Host.Outcome.next (⟨q, w⟩ : State)) h
  · have h : resetArrives 0 ⟨0, seq⟩ p = takeReset p := by simp [resetArrives, hh, hm, takeReset]
    exact congrArg (fun q => Host.Outcome.next (⟨q, w⟩ : State)) h

/-- Settles O5: outside DORMANT the request is answered by `ringRequest_taken`; what a reset keeps is read off
`applyReset_eq`, for which the abandonment of a switch keeps the `ResetBase`. -/
theorem resetKeepsTablesAndAddress : Obligations.ResetKeepsTablesAndAddress := by
  refine ⟨fun h p w ht => ?_, fun c p w hh hc => ?_⟩
  · have hm : p.pwc.mode ≠ .dormant := by
      simp only [Part.takes, Bool.and_eq_true, bne_iff_ne, ne_eq] at ht
      exact ht.1.1.1.2
    have hs : h.source = 0 := by
      simp only [Part.takes, Bool.and_eq_true, beq_iff_eq] at ht
      exact ht.1.2
    have harrives : resetArrives 0 h p = ringRequest 0x71 0 h false resetRequest p := by simp [resetArrives, hm]
    show Host.Outcome.next (⟨resetArrives 0 h p, w⟩ : State) = _
    rw [harrives, ringRequest_taken ht (by decide)]
    rfl
  · have hjoined : p.rif.joined = true := by
      simp only [Part.hears, Bool.and_eq_true] at hh
      exact hh.1.1
    have hbase : (abandonSwitch .b (abandonSwitch .a p)).resetBase = p.resetBase := by simp
    obtain ⟨hA, hB, hradio, hsources, hauto, hscoring, hlevel, -⟩ := ResetBase.mk.inj hbase
    obtain ⟨cause, hcause⟩ : ∃ x, x = if p.pwc.mode = .dormant then
      (if p.pwc.dormantCause = some .loss then StartCause.ringLoss else .wake) else .ringReset := ⟨_, rfl⟩
    obtain ⟨tu, e, htuners, hlink⟩ := applyReset_eq cause p
    refine ⟨_, exec_reset_atOnce w hh hc, ?_⟩
    rw [takeReset_eq, ← hcause, e]
    refine ⟨?rif, ?tables, ?banks, ?stations, hsources, hauto, ?level, ?rmx, ?rlu, ?steps, ?tuners, ?link, ?pwc⟩
    case rif => simp [resetPart, hjoined]
    case tables =>
      intro hnone
      have hB : abandonSwitch .b (abandonSwitch .a p) = p := by
        rw [abandonSwitch_none (hnone .a), abandonSwitch_none (hnone .b)]
      simp [resetPart, hB]
    case banks =>
      have hbank : ∀ es, (closedTrims es).map RenderEntry.untrimmed = es.map RenderEntry.untrimmed := by
        intro es
        simp [closedTrims, untrimmed_settleTrims]
      intro untrimmed k
      cases k
      · exact (hbank _).trans (congrArg _ hA)
      · exact (hbank _).trans (congrArg _ hB)
    case stations =>
      intro t c ht ho hcand hl i
      rw [← storeQuality_station hl]
      exact abandonBoth_station ht ho hcand hl i
    case level => simp [resetPart, hlevel]
    case rmx => simp [resetPart]
    case rlu => simp [resetPart]
    case steps =>
      intro z
      have hz : ({ beforeStandby cause p with tuc := tu } : Part).zone z = resetZone p.rlu.maxCopy z := by
        simp [Part.zone, resetPart]
      rw [hz]
      cases z with
      | hpLeft | hpRight | front | rearCabin | cargo | driver => rfl
    case tuners =>
      intro t
      have ht : ({ beforeStandby cause p with tuc := tu } : Part).tuner t = (beforeStandby cause p).tuner t := by
        simp only [Part.tuner, htuners]
      rw [ht]
      exact ⟨by cases t <;> rfl, by simpa [resetPart, Part.tuner] using congrArg (·.get t) hscoring⟩
    case link =>
      have haddress : (beforeStandby cause p).hasAddress = p.hasAddress := by
        funext t
        rw [hasAddress_eq, hasAddress_eq, ← hradio]
        rfl
      rw [haddress] at hlink
      exact hlink
    case pwc => simp [resetPart]

end Sys2Proof.Machine
end

section
/-! PROOFS. The join (O6), the handling of every request whichever its owner (O14), and the requests that report
(O15). -/

namespace Sys2Proof.Machine

/-! ### The join -/

/-- In PASSTHROUGH a valid frame that does not complete the 48 is forwarded as it arrives, and counted where the address
is valid (R150, R178). -/
theorem validFrame_passthrough {p : Part} (f : Frame) (mics : List Sample) (hj : p.rif.joined = false)
    (hc : p.rif.addressValid = true → p.rif.joinCount < 47) :
    validFrame f mics p = { p with rif := { p.rif with
      joinCount := if p.rif.addressValid then p.rif.joinCount + 1 else p.rif.joinCount
      out := some (freshFrame f.occupied f.lane f.slots) } } := by
  unfold validFrame
  cases ha : p.rif.addressValid with
  | true =>
    have := hc ha
    simp [hj, show ¬47 ≤ p.rif.joinCount by omega, forward, ha]
  | false => simp [forward, ha]

/-- Settles O6: before the join a frame is counted and forwarded (`validFrame_passthrough`); the frame behind 47 counted
joins, and what follows in it keeps the join (`joinedFrame_keeps`). -/
theorem joinCountsValidFrames : Obligations.JoinCountsValidFrames := by
  intro f mics p w hj
  refine ⟨fun ha hc => ?_, fun ha => ?_, ?_, ?_, fun ha hc => ⟨?_, ?_⟩⟩
  · show Host.Outcome.next (⟨validFrame f mics p, w⟩ : State) = _
    rw [validFrame_passthrough f mics hj fun _ => hc, ha]
    rfl
  · show Host.Outcome.next (⟨validFrame f mics p, w⟩ : State) = _
    rw [validFrame_passthrough f mics hj (by simp [ha]), ha]
    rfl
  · have h : badFrame f mics p = forward (asArrived f) { p with rif := { p.rif with joinCount := 0 } } := by
      simp [badFrame, hj]
    exact congrArg (fun q => Host.Outcome.next (⟨q, w⟩ : State)) h
  · have h : joinGapExpiry p = { p with rif := { p.rif with joinCount := 0 } } := by simp [joinGapExpiry, hj]
    exact congrArg (fun q => Host.Outcome.next (⟨q, w⟩ : State)) h
  · have h : ringJoin p = joinRing p := by simp [ringJoin, ha, hj, hc]
    exact congrArg (fun q => Host.Outcome.next (⟨q, w⟩ : State)) h
  · have h : validFrame f mics p = joinedFrame f mics (joinRing p) := by simp [validFrame, ha, hj, hc]
    refine ⟨validFrame f mics p, rfl, ?_⟩
    rw [h]
    exact (joinedFrame_keeps f mics (joinRing p)).joined rfl

/-! ### Every request -/

/-- A request of `c` is handled as a request of its kind, by some owner; RESET wakes the part instead where it is of
the head unit and arrives in DORMANT. Its length is the kind's, and it may come from the head unit alone, where it is
neither IDENTIFY nor STATUS nor a TABLE_READ without CLEAR (R157, R175). -/
theorem exec_request {c : Instr} {kind : Nat} {h : ReqHeader} (hc : requestOf c = some (kind, h)) :
    ∃ len clear owner,
      (∀ p w, p.hears = false ∨ p.pwc.mode ≠ .dormant ∨ kind ≠ 0x71 ∨ h.source ≠ 0 →
        exec c ⟨p, w⟩ = .next ⟨ringRequest kind len h clear owner p, w⟩)
      ∧ (h.source ≠ 0 → kind ≠ 0x01 → kind ≠ 0x02 → (∀ t i j m o, c = .tableRead h t i j m o → o.testBit 1 = true) →
          (∀ t i m vs, c = .tableWrite h t i m vs → 1 ≤ vs.length ∧ vs.length ≤ 52) →
          ringChecks kind len h.source clear = some .access) := by
  cases c with
  | reset h' =>
    obtain ⟨rfl, rfl⟩ : 0x71 = kind ∧ h' = h := by simpa [requestOf] using hc
    refine ⟨0, false, resetRequest, fun p w hp => ?_, fun hs _ _ _ _ => by
      simp [ringChecks, requestLengths, sourceMay, hs]⟩
    have harrives : resetArrives 0 h' p = ringRequest 0x71 0 h' false resetRequest p := by
      unfold resetArrives
      rw [if_neg]
      rcases hp with h | h | h | h <;> simp_all
    exact congrArg (fun q => Host.Outcome.next (⟨q, w⟩ : State)) harrives
  | tableRead h' t i j m o =>
    obtain ⟨rfl, rfl⟩ : 0x10 = kind ∧ h' = h := by simpa [requestOf] using hc
    refine ⟨_, _, _, fun p w _ => rfl, fun hs _ _ hclear _ => ?_⟩
    simp [ringChecks, requestLengths, sourceMay, hs, hclear t i j m o rfl]
  | tableWrite h' t i m vs =>
    obtain ⟨rfl, rfl⟩ : 0x11 = kind ∧ h' = h := by simpa [requestOf] using hc
    refine ⟨_, _, _, fun p w _ => rfl, fun hs _ _ _ hlen => ?_⟩
    obtain ⟨h1, h2⟩ := hlen t i m vs rfl
    simp [ringChecks, requestLengths, sourceMay, hs, show ¬4 + vs.length < 5 by omega, show ¬56 < 4 + vs.length by
      omega]
  | identify h' | status h' | tableClear h' | tableShare h' | bankSwap h' | countersRead h' | zonePower h'
  | zoneSource h' | zoneVolume h' | zoneOffset h' | zoneMute h' | tune h' | seek h' | scan h' | scanStop h' | watch h'
  | capture h' | captureRead h' | promptPush h' | promptCancel h' | promptEnd h' | callAlert h' | callConnect h'
  | callHold h' | callResume h' | callEnd h' | callPrivate h' | callZones h' | noticeFetch h' | faultRead h'
  | faultLevel h' | powerDown h' =>
    simp only [requestOf, Option.some.injEq, Prod.mk.injEq] at hc
    obtain ⟨rfl, rfl⟩ := hc
    exact ⟨_, _, _, fun p w _ => rfl, fun hs h1 h2 _ _ => by simp_all [ringChecks, requestLengths, sourceMay]⟩
  | _ => simp [requestOf] at hc

/-- A request that is not heard, or that DORMANT discards, changes nothing. -/
theorem ringRequest_unheard {kind len : Nat} {h : ReqHeader} {clear : Bool} {owner : Part → Answer} {p : Part}
    (hp : p.hears = false ∨ p.pwc.mode = .dormant) : ringRequest kind len h clear owner p = p := by
  rcases hp with hp | hp <;> simp [ringRequest, hp]

/-- A request that is heard is taken (R157). -/
theorem ringRequest_heard {kind len : Nat} {h : ReqHeader} {clear : Bool} {owner : Part → Answer} {p : Part}
    (hh : p.hears = true) (hm : p.pwc.mode ≠ .dormant) :
    ringRequest kind len h clear owner p = takeRequest kind h (ringChecks kind len h.source clear) owner p := by
  simp [ringRequest, hh, hm]

/-- A request of another node's is no repeat, and its reply is not saved (R159). -/
theorem takeRequest_foreign {kind : Nat} {h : ReqHeader} {v : Option Result} {owner : Part → Answer} {p : Part}
    (ht : p.rif.tx = none) (hs : h.source ≠ 0) :
    takeRequest kind h v owner p
      = let a := match v with
          | some r => ({ result := r, part := p } : Answer)
          | none => owner p
        holdReply kind h a.result a.body a.part := by
  cases v <;> simp [takeRequest, ht, repeatOf, saveReply, hs]

/-- Settles O14: the four ways of `ringRequest` in which no owner acts, for the handling that `exec_request` gives. -/
theorem requestsUnheardRepeatedOrRefusedDoNotAct : Obligations.RequestsUnheardRepeatedOrRefusedDoNotAct := by
  refine ⟨?unheard, ?overrun, ?repeated, ?refused⟩
  case unheard =>
    intro c kind h p w hc hp
    obtain ⟨len, clear, owner, hexec, -⟩ := exec_request hc
    rw [hexec p w (by tauto), ringRequest_unheard (by tauto)]
  case overrun =>
    intro c kind h p w hc hh hm htx
    obtain ⟨len, clear, owner, hexec, -⟩ := exec_request hc
    have hsome : p.rif.tx.isSome = true := Option.isSome_iff_ne_none.mpr htx
    rw [hexec p w (by tauto), ringRequest_heard hh hm]
    simp [takeRequest, hsome, count16]
  case repeated =>
    intro c kind h x p w hc hh hm htx hs hsaved hseq hkind
    obtain ⟨len, clear, owner, hexec, -⟩ := exec_request hc
    have hrepeat : repeatOf p kind h = some x := by simp [repeatOf, hs, hsaved, hseq, hkind]
    rw [hexec p w (by tauto), ringRequest_heard hh hm]
    simp [takeRequest, htx, hrepeat, holdReply]
  case refused =>
    intro c kind h p w hc hh hm htx hs h1 h2 hread hwrite
    obtain ⟨len, clear, owner, hexec, haccess⟩ := exec_request hc
    rw [hexec p w (by tauto), ringRequest_heard hh hm, takeRequest_foreign htx hs, haccess hs h1 h2 hread hwrite]
    rfl

/-! ### Reports and counters -/

/-- A request of another node's that passes the checks is answered by its owner, and not saved. -/
theorem ringRequest_foreign {kind len : Nat} {h : ReqHeader} {clear : Bool} {owner : Part → Answer} {p : Part}
    (hh : p.hears = true) (hm : p.pwc.mode ≠ .dormant) (ht : p.rif.tx = none) (hs : h.source ≠ 0)
    (hv : ringChecks kind len h.source clear = none) :
    ringRequest kind len h clear owner p = holdReply kind h (owner p).result (owner p).body (owner p).part := by
  rw [ringRequest_heard hh hm, takeRequest_foreign ht hs, hv]

/-- The groups of counters by their numbers; there is none from 8 on (R50). -/
theorem groupCounts_eq_none (p : Part) {group : Nat} (h : 8 ≤ group) : groupCounts p group = none := by
  unfold groupCounts
  split
  case h_9 => rfl
  all_goals omega

/-- A cleared group reads 0 throughout, in its stated length (R50). -/
theorem groupCounts_clearGroup_self {group : Nat} {cs : List Nat} {p : Part} (hclips : p.rmx.clips.length = 32)
    (hcounts : p.nfu.counts.length = 7) (h : groupCounts p group = some cs) :
    groupCounts (clearGroup group p) group = some (cs.map fun _ => 0) := by
  match group with
  | 0 | 3 | 4 | 5 | 6 =>
    obtain rfl := Option.some.inj h
    rfl
  | 1 =>
    obtain rfl := Option.some.inj h
    simp [groupCounts, clearGroup, hclips]
  | 2 =>
    obtain rfl := Option.some.inj h
    simp [groupCounts, clearGroup, hclips]
  | 7 =>
    obtain rfl := Option.some.inj h
    simp [groupCounts, clearGroup, hcounts]
  | n + 8 => simp [groupCounts_eq_none p] at h

/-- The other groups stay. -/
theorem groupCounts_clearGroup_of_ne {group g : Nat} {p : Part} (hclips : p.rmx.clips.length = 32) (h : g ≠ group) :
    groupCounts (clearGroup group p) g = groupCounts p g := by
  unfold clearGroup
  split
  all_goals
    unfold groupCounts
    split <;> simp_all [Part.tuner, tunerCounts]

/-- Settles O15: the head unit's requests are answered by `ringRequest_taken`, other nodes' by `ringRequest_foreign`,
and the groups of counters are those of `groupCounts`. -/
theorem reportsAndCountersAreRead : Obligations.ReportsAndCountersAreRead := by
  refine ⟨fun h p w => ⟨fun ht => ?_, fun ht => ?_, fun hh hm ht hs => ?_, fun hh hm ht hs => ?_⟩, ?counters, ?groups,
    ?unknown⟩
  · exact congrArg (fun q => Host.Outcome.next (⟨q, w⟩ : State)) (ringRequest_taken ht (by decide))
  · refine congrArg (fun q => Host.Outcome.next (⟨q, w⟩ : State)) ((ringRequest_taken ht (by decide)).trans ?_)
    cases hp : p.anu.playing <;> simp [statusAnswer, statusBody, hp, ZoneId.all, byte1]
  · exact congrArg (fun q => Host.Outcome.next (⟨q, w⟩ : State))
      (ringRequest_foreign hh hm ht hs (by simp [ringChecks, requestLengths, sourceMay]))
  · exact congrArg (fun q => Host.Outcome.next (⟨q, w⟩ : State))
      (ringRequest_foreign hh hm ht hs (by simp [ringChecks, requestLengths, sourceMay]))
  case counters =>
    intro h group cs p w ht hclips hcounts hgroup
    have hanswer : countersRead group p = { result := .ok, body := cs.flatMap byte2, part := clearGroup group p } := by
      simp [countersRead, hgroup]
    refine ⟨clearGroup group p, ?_, groupCounts_clearGroup_self hclips hcounts hgroup,
      fun g hg => groupCounts_clearGroup_of_ne hclips hg, by simp, by simp, by simp, by simp, ?_⟩
    · refine congrArg (fun q => Host.Outcome.next (⟨q, w⟩ : State)) ((ringRequest_taken ht (by decide)).trans ?_)
      rw [hanswer]
    · unfold clearGroup
      split <;> rfl
  case groups => exact fun p => ⟨rfl, rfl, rfl, rfl, rfl, rfl, rfl, rfl⟩
  case unknown =>
    intro h group p w ht hgroup
    have hanswer : countersRead group p = { result := .badValue, part := p } := by
      simp [countersRead, groupCounts_eq_none p hgroup]
    refine congrArg (fun q => Host.Outcome.next (⟨q, w⟩ : State)) ((ringRequest_taken ht (by decide)).trans ?_)
    rw [hanswer]

end Sys2Proof.Machine
end

section
/-! PROOFS. Replies on the lane (O12) and ring loss (O13). -/

namespace Sys2Proof.Machine

/-! ### The transmit buffer -/

/-- With no RESET waiting the buffer is just emptied (R158). -/
theorem emptyTx_of_not_pending {p : Part} (h : p.rif.resetPending = false) :
    emptyTx p = { p with rif := { p.rif with tx := none } } := by simp [emptyTx, h]

theorem discardReply_of_not_pending {p : Part} (h : p.rif.resetPending = false) :
    discardReply p = { p with rif := { p.rif with
      tx := none, replyTimeouts := min 65535 (p.rif.replyTimeouts + 1) } } :=
  emptyTx_of_not_pending h

/-- A begun reply is cut off: to be sent again within its window, discarded after it (R158). -/
theorem cutReply_begun {p : Part} {t : Tx} (ht : p.rif.tx = some t) (hs : 0 < t.sent)
    (hr : p.rif.resetPending = false) :
    cutReply p = { p with rif := { p.rif with
      tx := if t.windowOver = true then none else some { t with sent := 0 }
      replyTimeouts :=
        if t.windowOver = true then min 65535 (p.rif.replyTimeouts + 1) else p.rif.replyTimeouts } } := by
  have hne : t.sent ≠ 0 := by omega
  unfold cutReply
  simp only [ht, hne, if_false]
  cases hw : t.windowOver
  · rfl
  · exact discardReply_of_not_pending hr

theorem cutReply_none {p : Part} (h : p.rif.tx = none) : cutReply p = p := by simp [cutReply, h]

theorem abandonMessage_none {p : Part} (h : p.rif.rx = []) : abandonMessage p = p := by simp [abandonMessage, h]

/-- A message in assembly is abandoned: a lane error, counted and reported (R156). -/
theorem abandonMessage_eq (p : Part) :
    abandonMessage p = { p with
      rif := { p.rif with
        laneErrors := if p.rif.rx = [] then p.rif.laneErrors else min 65535 (p.rif.laneErrors + 1), rx := [] }
      nfu := if p.rif.rx = [] then p.nfu else p.nfu.fault .laneCheck none none p.rif.ringTime } := by
  by_cases h : p.rif.rx = []
  · rw [abandonMessage_none h, if_pos h, if_pos h, ← h]
  · rw [if_neg h, if_neg h]
    simp [abandonMessage, h]
    rfl

/-- A word of fewer than five bytes opens a message (R156). -/
theorem assembleWord_short {p : Part} {lane : List Byte} (h : (p.rif.rx ++ lane).length < 5) :
    assembleWord lane p = { p with rif := { p.rif with rx := p.rif.rx ++ lane } } := by
  have h5 : ¬5 ≤ (p.rif.rx ++ lane).length := by omega
  simp only [assembleWord, h5, decide_false, Bool.false_and, Bool.false_eq_true, if_false]

/-! ### Frames without memory errors -/

/-- The part before the lane of a valid frame: the loss is over, the channels are read, the audio is formed. -/
abbrev framed (f : Frame) (mics : List Sample) (p : Part) : Part := audioFrame mics (readChannels f (endLoss p))

/-- A valid frame where no memory error stands: its audio, then its lane. -/
theorem takeFrame_clean {p : Part} (f : Frame) (mics : List Sample) (hl : p.tst.latent = []) :
    takeFrame f mics p = let x := laneWord f (framed f mics p)
      forward (freshFrame x.2.1 x.2.2 (writeSlots (framed f mics p) f.slots)) x.1 := by
  unfold takeFrame
  rw [ownerReads_clean _ (by simpa using hl)]
  dsimp only
  rw [ownerReads_clean _ (by simpa using hl)]

/-- After the join and outside DORMANT a valid frame is taken. -/
theorem exec_validFrame_joined {p : Part} (f : Frame) (mics : List Sample) (w : List Instr)
    (ha : p.rif.addressValid = true) (hj : p.rif.joined = true) (hm : p.pwc.mode ≠ .dormant) :
    exec (.validFrame f mics) ⟨p, w⟩ = .next ⟨takeFrame f mics p, w⟩ := by
  have hv : validFrame f mics p = takeFrame f mics p := by simp [validFrame, joinedFrame, wakesOn, ha, hj, hm]
  exact congrArg (fun q => Host.Outcome.next (⟨q, w⟩ : State)) hv

/-- The Ring Interface before the lane of a valid frame. -/
theorem framed_rif (f : Frame) (mics : List Sample) (p : Part) :
    (framed f mics p).rif = { p.rif with
      loss := false
      channels := (readChannels f p).rif.channels } := by
  simp [readChannels, endLoss, Part.ingressSlot, Part.unitPoisoned]

/-- The part before the audio of a bad frame: it is counted, abandons a message and cuts off a reply. -/
abbrev spoilt (p : Part) : Part :=
  cutReply (abandonMessage { p with rif := { p.rif with badFrames := min 65535 (p.rif.badFrames + 1) } })

/-- A bad frame outside DORMANT, where no memory error stands behind what the lane brings about. -/
theorem joinedBad_clean {p q : Part} (f : Frame) (mics : List Sample) (hq : spoilt p = q) (hm : q.pwc.mode ≠ .dormant)
    (hl : q.tst.latent = []) :
    joinedBad f mics p = forward (badOut f (writeSlots (audioFrame mics (holdChannels q)) f.slots))
      (audioFrame mics (holdChannels q)) := by
  have hcases : joinedBad f mics p = if q.pwc.mode == .dormant then forward (asArrived f) q
      else forward (badOut f (writeSlots (audioFrame mics (holdChannels (ownerReads frameTables q))) f.slots))
        (ownerReads renderTables (audioFrame mics (holdChannels (ownerReads frameTables q)))) := by
    subst hq
    rfl
  rw [hcases, if_neg (by simpa using hm), ownerReads_clean _ hl, ownerReads_clean _ (by simpa [holdChannels] using hl)]

/-- A bad frame after the join and outside DORMANT, where no memory error stands behind what the lane brings about. -/
theorem exec_badFrame_joined {p : Part} (f : Frame) (mics : List Sample) (w : List Instr)
    (ha : p.rif.addressValid = true) (hj : p.rif.joined = true) (hm : (spoilt p).pwc.mode ≠ .dormant)
    (hl : (spoilt p).tst.latent = []) :
    exec (.badFrame f mics) ⟨p, w⟩ = .next ⟨forward
      (badOut f (writeSlots (audioFrame mics (holdChannels (spoilt p))) f.slots))
      (audioFrame mics (holdChannels (spoilt p))), w⟩ := by
  have hv : badFrame f mics p = joinedBad f mics p := by simp [badFrame, ha, hj]
  have hb := joinedBad_clean (q := spoilt p) f mics rfl hm hl
  exact congrArg (fun q => Host.Outcome.next (⟨q, w⟩ : State)) (hv.trans hb)

/-! ### The words of a reply -/

/-- The lane word of a reply: its next four bytes, 0 for those it does not have (R180). -/
theorem replyWord_getElem? (t : Tx) {i : Nat} (hi : i < 4) :
    (replyWord t)[i]? = some (t.bytes.getD (t.sent + i) 0#8) := by
  unfold replyWord
  rw [List.getElem?_take_of_lt hi, List.getElem?_append]
  simp only [List.length_drop, List.getElem?_drop, List.getElem?_replicate, List.getD]
  split
  · rw [List.getElem?_eq_getElem (by omega)]
    rfl
  · rw [if_pos (by omega), List.getElem?_eq_none (by omega)]
    rfl

theorem replyWord_length (t : Tx) : (replyWord t).length = 4 := by
  simp [replyWord]

/-- A word of a reply sent, with no RESET waiting for it (R158). -/
theorem sendWord_of_not_pending {p : Part} (t : Tx) (hr : p.rif.resetPending = false) :
    sendWord t p = { p with rif := { p.rif with
      tx := if t.bytes.length ≤ t.sent + 4 then none else some { t with sent := t.sent + 4 } } } := by
  unfold sendWord
  split
  · exact emptyTx_of_not_pending hr
  · rfl

/-- Settles O12: the rules of the transmit buffer, at the place of the frame at which each applies. -/
theorem repliesGoOutInFreeLaneWords : Obligations.RepliesGoOutInFreeLaneWords := by
  refine ⟨?sent, ?dormant, ?cut, ?expiry⟩
  case sent =>
    intro f mics t p w ha hj hm hl ho hrx htx hr
    have hrif := framed_rif f mics p
    have hlane : laneWord f (framed f mics p) = (sendWord t (framed f mics p), true, replyWord t) := by
      have hrx' : (framed f mics p).rif.rx = [] := by rw [hrif]; exact hrx
      have htx' : (framed f mics p).rif.tx = some t := by rw [hrif]; exact htx
      simp only [laneWord, ho, Bool.false_eq_true, if_false, abandonMessage_none hrx', htx']
    refine ⟨_, freshFrame true (replyWord t) (writeSlots (framed f mics p) f.slots),
      exec_validFrame_joined f mics w ha hj hm, ?_⟩
    rw [takeFrame_clean f mics hl, hlane, sendWord_of_not_pending t (by rw [hrif]; exact hr)]
    refine ⟨rfl, rfl, replyWord_length t, fun i hi => replyWord_getElem? t hi, rfl, ?_, ?_, ?_⟩
    all_goals simp [forward, readChannels, endLoss, hrx]
  case dormant =>
    intro f mics t p w ha hj hm hloss ho hrx htx hs hr
    have hwake : wakesOn p = false := by simp [wakesOn, hloss]
    rw [exec_validFrame_dormant f mics w ha hj hm hwake]
    have hcut := cutReply_begun (p := endLoss p) htx hs hr
    have hframe : dormantFrame f p = forward (freshFrame f.occupied f.lane f.slots) (cutReply (endLoss p)) := by
      have hrx' : (cutReply (endLoss p)).rif.rx = [] := by rw [hcut]; exact hrx
      simp [dormantFrame, ho, abandonMessage_none hrx']
    rw [hframe, hcut, ho]
    simp [forward, endLoss, freshFrame, hloss]
  case cut =>
    intro f mics t p w ha hj hm hl htx hs hr cut
    refine ⟨fun hrx ho hlen => ?_, ?_⟩
    · have hrif := framed_rif f mics p
      have hcut := cutReply_begun (p := framed f mics p) (by rw [hrif]; exact htx) hs (by rw [hrif]; exact hr)
      have hlane : laneWord f (framed f mics p) = (assembleWord f.lane (cutReply (framed f mics p)), true, f.lane) := by
        simp [laneWord, ho]
      have hword : assembleWord f.lane (cutReply (framed f mics p))
          = { cutReply (framed f mics p) with rif := { (cutReply (framed f mics p)).rif with rx := f.lane } } := by
        have hrx' : (cutReply (framed f mics p)).rif.rx = [] := by rw [hcut, hrif]; exact hrx
        rw [assembleWord_short (by rw [hrx']; simp [hlen]), hrx']
        rfl
      refine ⟨_, exec_validFrame_joined f mics w ha hj hm, ?_⟩
      rw [takeFrame_clean f mics hl, hlane, hword, hcut]
      refine ⟨⟨rfl, ?_, ?_, rfl⟩, rfl⟩
      all_goals simp [forward, readChannels, endLoss]
    · have habandon := abandonMessage_eq { p with rif := { p.rif with badFrames := min 65535 (p.rif.badFrames + 1) } }
      have hcut := cutReply_begun
        (p := abandonMessage { p with rif := { p.rif with badFrames := min 65535 (p.rif.badFrames + 1) } })
        (by rw [habandon]; exact htx) hs (by rw [habandon]; exact hr)
      rw [habandon] at hcut
      have hspoilt : (spoilt p).pwc = p.pwc ∧ (spoilt p).tst = p.tst := by
        rw [spoilt, habandon, hcut]
        exact ⟨rfl, rfl⟩
      refine ⟨_, exec_badFrame_joined f mics w ha hj (by rw [hspoilt.1]; exact hm) (by rw [hspoilt.2]; exact hl), ?_⟩
      rw [spoilt, habandon, hcut]
      refine ⟨⟨?_, ?_, ?_, rfl⟩, ?_⟩
      all_goals simp [forward, holdChannels]
  case expiry =>
    intro p w hr
    show Host.Outcome.next (⟨replyWindowExpiry p, w⟩ : State) = _
    unfold replyWindowExpiry
    cases p.rif.tx with
    | none => rfl
    | some t =>
      dsimp only
      split
      · rw [discardReply_of_not_pending hr]
      · rfl

end Sys2Proof.Machine
end

section
/-! PROOFS. Ring loss (O13): what a reset leaves at rest, and the way to DORMANT. -/

namespace Sys2Proof.Machine

/-! ### The part after a reset -/

/-- Every contribution under the count has its applied trim at its code in the column in force. -/
theorem settleTrims_applied {isOpen : Bool} {e : RenderEntry} {i : Nat} {c : Contribution}
    (h : (settleTrims isOpen e).contribs[i]? = some c) (hi : i < e.count) : c.applied = columnTrim isOpen c := by
  simp only [settleTrims, List.getElem?_map, Option.map_eq_some_iff, List.getElem?_zipIdx] at h
  obtain ⟨x, ⟨y, -, rfl⟩, rfl⟩ := h
  simp [hi, columnTrim]

/-- After a reset no zone sounds and no ramp moves (R10). -/
theorem applyReset_rampsAtRest (cause : StartCause) (p : Part) : (applyReset cause p).RampsAtRest := by
  obtain ⟨tu, e, -, -⟩ := applyReset_eq cause p
  rw [e]
  refine ⟨fun z => ?_, rfl, ?_⟩
  · have hz : ({ beforeStandby cause p with tuc := tu } : Part).zone z = resetZone p.rlu.maxCopy z := by
      simp [Part.zone, resetPart]
    rw [hz]
    unfold resetZone
    split <;> exact ⟨rfl, rfl, rfl, rfl⟩
  · have hclosed : ∀ es : List RenderEntry, ∀ x ∈ closedTrims es, ∀ i c, x.contribs[i]? = some c → i < x.count →
        c.applied = columnTrim false c := by
      intro es x hx i c hc hi
      obtain ⟨y, -, rfl⟩ := List.mem_map.mp hx
      exact settleTrims_applied hc hi
    intro bank
    cases bank <;> exact hclosed _

/-- After a reset nothing plays or waits, and nothing expects a prompt (R113). -/
theorem applyReset_promptsAtRest (cause : StartCause) (p : Part) : (applyReset cause p).PromptsAtRest := by
  obtain ⟨tu, e, -, -⟩ := applyReset_eq cause p
  rw [e]
  exact ⟨rfl, rfl, rfl, rfl, rfl, rfl, rfl, rfl, rfl⟩

/-- A reset keeps the ramp rates and the chimes. -/
theorem applyReset_zones (cause : StartCause) (p : Part) :
    (applyReset cause p).tst.zones = p.tst.zones ∧ (applyReset cause p).tst.chimes = p.tst.chimes := by
  obtain ⟨tu, e, -, -⟩ := applyReset_eq cause p
  have hbase : (abandonSwitch .b (abandonSwitch .a p)).resetBase = p.resetBase := by simp
  have hz := congrArg ResetBase.zones hbase
  have hc := congrArg ResetBase.chimes hbase
  rw [e]
  exact ⟨hz, hc⟩

/-! ### The way to DORMANT -/

/-- Entry to REDUCED changes of the power state the mode alone. -/
theorem enterReduced_pwc (p : Part) : (enterReduced p).pwc = { p.pwc with mode := .reduced } := by
  simp [enterReduced, setMode]

@[simp] theorem checkUnit_callState (u : MemUnit) (p : Part) : (checkUnit u p).clp.state = p.clp.state := by
  have htell : ∀ q, (tellOwner u q).clp.state = q.clp.state := by
    intro q
    unfold tellOwner recodeUplink
    split
    · simp
    · split <;> rfl
  obtain e | ⟨q, rfl, e | e | e⟩ := checkWith_cases (tellOwner u) u p <;> rw [checkUnit, e]
  all_goals simp [htell]

@[simp] theorem setUplink_callState (p : Part) : (setUplink p).clp.state = p.clp.state := by
  have hcheck : (checkEntry tblCall 0 p).clp.state = p.clp.state :=
    foldl_keeps _ _ _ (fun q => q.clp.state) fun q k => checkUnit_callState _ q
  simp only [setUplink, recodeUplink]
  split <;> simp [hcheck]

@[simp] theorem changeContext_callState (k : Seat) (f : SeatRt → SeatRt) (p : Part) :
    (changeContext k f p).clp.state = p.clp.state := by
  unfold changeContext
  dsimp only
  split <;> simp [Part.setSeat]

@[simp] theorem setSignature_callState (sig : Signature) (p : Part) :
    (setSignature sig p).clp.state = p.clp.state := by
  unfold setSignature
  split
  · rfl
  · rw [setUplink_callState]
    exact foldl_keeps _ _ _ (fun q => q.clp.state) fun q k => by split <;> simp

/-- After its end a call is IDLE (R134). -/
theorem endCall_idle (p : Part) : (endCall p).clp.state = .idle := by
  simp [endCall]

/-- What the Station Manager keeps up discards prompts and adds none. -/
theorem stmSettle_noPrompts {p : Part} (before : Part) (hp : p.anu.playing = none) (hw : p.anu.waiting = []) :
    (stmSettle before p).anu.playing = none ∧ (stmSettle before p).anu.waiting = [] := by
  have hend : ∀ q : Part, q.anu.playing = none → q.anu.waiting = [] →
      (endBulletin q).anu.playing = none ∧ (endBulletin q).anu.waiting = [] := by
    intro q hp hw
    unfold endBulletin
    dsimp only
    split <;> simp [removePrompt, hp, hw]
  unfold stmSettle
  dsimp only
  simp only [stopTimer_frame, keepClaims_frame]
  split
  · exact hend _ (by simpa using hp) (by simpa using hw)
  · simp [hp, hw]

/-- The part as the ring-loss count's end leaves it before it enters DORMANT: in REDUCED, its call ended. -/
def lossExpired (p : Part) : Part :=
  let p := if p.isActive then enterReduced p else p
  if p.clp.state == .idle then p else endCall p

theorem lossExpired_frame (p : Part) :
    (lossExpired p).rif = p.rif ∧ (lossExpired p).rmx = p.rmx ∧ (lossExpired p).clp.state = .idle
      ∧ ∃ m, (lossExpired p).pwc = { p.pwc with mode := m } := by
  have hreduced : ∃ q, q = (if p.isActive then enterReduced p else p) ∧ q.rif = p.rif ∧ q.rmx = p.rmx
      ∧ ∃ m, q.pwc = { p.pwc with mode := m } := by
    refine ⟨_, rfl, ?_⟩
    split
    · exact ⟨by simp, by simp, .reduced, enterReduced_pwc p⟩
    · exact ⟨rfl, rfl, p.pwc.mode, rfl⟩
  obtain ⟨q, hq, hrif, hrmx, m, hpwc⟩ := hreduced
  unfold lossExpired
  rw [← hq]
  dsimp only
  split
  · rename_i hidle
    exact ⟨hrif, hrmx, by simpa using hidle, m, hpwc⟩
  · exact ⟨by simpa using hrif, by simpa using hrmx, endCall_idle q, m, by simpa using hpwc⟩

theorem ringLossCountExpiry_counting {p : Part} (hr : p.running = true) (hl : p.pwc.lossCount = true) :
    ringLossCountExpiry p = enterDormant .loss (lossExpired p) := by
  simp only [ringLossCountExpiry, hr, hl, Bool.and_self, if_true]
  rfl

/-- Settles O13: a loss is noted before the buffer is emptied, which lets a waiting RESET take effect; at the count's
end the part enters DORMANT, and what is then kept up adds no prompt. -/
theorem ringLossIsReportedAndLeadsToDormant : Obligations.RingLossIsReportedAndLeadsToDormant := by
  refine ⟨⟨?noted, ?reset, ?again⟩, ?expiry, ?idle⟩
  case noted =>
    intro p w ha hj hl hpend
    have h : ringLossDeclared p = { p with
        rif := { p.rif with
          loss := true, rx := [], ringLosses := min 65535 (p.rif.ringLosses + 1), tx := none
          replyTimeouts := if p.rif.tx = none then p.rif.replyTimeouts else min 65535 (p.rif.replyTimeouts + 1) }
        pwc := if p.pwc.mode = .dormant then { p.pwc with lossInDormant := true } else { p.pwc with lossCount := true }
        nfu := p.nfu.fault .ringLoss none none p.rif.ringTime } := by
      have hnote : lossNoted p.pwc
          = if p.pwc.mode = .dormant then { p.pwc with lossInDormant := true }
            else { p.pwc with lossCount := true } := by
        simp [lossNoted]
      cases htx : p.rif.tx with
      | none => simp [ringLossDeclared, ha, hj, hl, htx, hnote, Part.fault, count16]
      | some t =>
        have hnp : p.rif.resetPending = false := by simpa [htx] using hpend
        simp only [ringLossDeclared, ha, hj, hl, hnote, Part.fault, htx, count16]
        exact discardReply_of_not_pending hnp
    exact congrArg (fun q => Host.Outcome.next (⟨q, w⟩ : State)) h
  case reset =>
    intro p w ha hj hl hpend htx
    obtain ⟨t, ht⟩ := Option.ne_none_iff_exists'.mp htx
    have h : ∃ q : Part, ringLossDeclared p = applyReset .ringReset q ∧ q.tst = p.tst := by
      simp only [ringLossDeclared, ha, hj, hl, Part.fault, ht, discardReply, emptyTx, hpend]
      exact ⟨_, rfl, rfl⟩
    obtain ⟨q, hq, htst⟩ := h
    have hzones := applyReset_zones .ringReset q
    rw [htst] at hzones
    refine ⟨_, congrArg (fun q => Host.Outcome.next (⟨q, w⟩ : State)) hq, applyReset_rampsAtRest _ q,
      applyReset_promptsAtRest _ q, ?_, ?_, ?_, hzones⟩
    all_goals
      obtain ⟨tu, e, -, -⟩ := applyReset_eq .ringReset q
      rw [e]
      rfl
  case again =>
    intro p w h
    have hsame : ringLossDeclared p = p := by
      obtain h | h | h := h <;> simp [ringLossDeclared, h]
    exact congrArg (fun q => Host.Outcome.next (⟨q, w⟩ : State)) hsame
  case expiry =>
    intro p w hr hl
    obtain ⟨hrif, hrmx, hidle, m, hpwc⟩ := lossExpired_frame p
    have hprompts := stmSettle_noPrompts (p := enterDormant .loss (lossExpired p)) p rfl rfl
    refine ⟨settle ringLossCountExpiry p, rfl, ?_⟩
    rw [settle, ringLossCountExpiry_counting hr hl]
    refine ⟨?_, ?_, ?_, ?_, ?_, ?_⟩
    · simp [enterDormant, hpwc]
    · simpa using hidle
    · simpa using hprompts.1
    · simpa using hprompts.2
    · simpa using hrif
    · simpa using hrmx
  case idle =>
    intro p w hq hl
    have h : settle ringLossCountExpiry p = p := by
      have hsame : ringLossCountExpiry p = p := by simp [ringLossCountExpiry, hl]
      rw [settle, hsame, stmSettle_quiet hq, noteReports_same fun _ => rfl]
    exact congrArg (fun q => Host.Outcome.next (⟨q, w⟩ : State)) h

end Sys2Proof.Machine
end

section
/-! PROOFS. The audio of a ring frame, block by block: what each block of it forms, from the part before the frame. -/

namespace Sys2Proof.Machine

/-! ### Rate adapters -/

/-- A tuner's record at a ring frame (R65). -/
def adapterStep (r : Tuner) : Tuner :=
  if r.adapter.primed = true then
    match adapterOutput r.adapter with
    | some out => { r with adapter := advanceAdapter r.adapter out }
    | none => { r with underflows := count16 r.underflows 1 }
  else r

/-- A primed adapter with fewer than two samples slips (R66). -/
def Tuner.slips (r : Tuner) : Bool := r.adapter.primed && r.adapter.fifo.length < 2

/-- The slips of the tuners in a list, reported in its order. -/
def slipFaults (p : Part) (ts : List TunerId) : Nfu :=
  (ts.filter fun t => (p.tuner t).slips).foldl
    (fun n t => n.fault .slip (some (tunerCode t)) none p.rif.ringTime) p.nfu

theorem adapterOutput_eq_none {a : Adapter} : adapterOutput a = none ↔ a.fifo.length < 2 := by
  unfold adapterOutput
  split
  · rename_i h; simp [h]
  · rename_i h
    match hf : a.fifo with
    | [] => simp
    | [_] => simp
    | x :: y :: l => exact absurd hf (h x y l)

theorem adapterStep_unprimed {r : Tuner} (h : r.adapter.primed = false) : adapterStep r = r := by
  simp [adapterStep, h]

theorem adapterStep_slip {r : Tuner} (hp : r.adapter.primed = true) (h : r.adapter.fifo.length < 2) :
    adapterStep r = { r with underflows := count16 r.underflows 1 } := by
  simp [adapterStep, hp, adapterOutput_eq_none.mpr h]

theorem adapterStep_output {r : Tuner} {out : Sample × Sample} (hp : r.adapter.primed = true)
    (h : adapterOutput r.adapter = some out) : adapterStep r = { r with adapter := advanceAdapter r.adapter out } := by
  simp [adapterStep, hp, h]

/-- An adapter's frame sets its tuner's record and reports its slip. -/
theorem adapterFrame_eq (t : TunerId) (p : Part) :
    adapterFrame t p = { p.setTuner t (adapterStep (p.tuner t)) with
      nfu := if (p.tuner t).slips then p.nfu.fault .slip (some (tunerCode t)) none p.rif.ringTime else p.nfu } := by
  unfold adapterFrame adapterStep Tuner.slips
  dsimp only
  by_cases hp : (p.tuner t).adapter.primed = true
  · rw [if_pos hp, if_pos hp]
    cases ho : adapterOutput (p.tuner t).adapter with
    | none =>
      have hlen := adapterOutput_eq_none.mp ho
      simp [hp, hlen, Part.fault]
    | some out =>
      have hlen : ¬(p.tuner t).adapter.fifo.length < 2 := fun h => by simp [adapterOutput_eq_none.mpr h] at ho
      simp [hp, hlen]
      rfl
  · simp [hp]

/-- Both adapters' frames. -/
abbrev adapted (p : Part) : Part := adapterFrame .b (adapterFrame .a p)

theorem adapted_tuner (p : Part) (t : TunerId) : (adapted p).tuner t = adapterStep (p.tuner t) := by
  rw [adapted, adapterFrame_eq, adapterFrame_eq]
  cases t <;> rfl

theorem adapted_tuc (p : Part) : (adapted p).tuc = { p.tuc with tuners := (adapted p).tuc.tuners } := by
  rw [adapted, adapterFrame_eq, adapterFrame_eq]
  rfl

/-- Tuner A's slip is reported before B's (log entry 74). -/
theorem adapted_nfu (p : Part) : (adapted p).nfu = slipFaults p TunerId.all := by
  rw [adapted, adapterFrame_eq, adapterFrame_eq]
  have hb : ({ p.setTuner .a (adapterStep (p.tuner .a)) with
      nfu := if (p.tuner .a).slips then p.nfu.fault .slip (some (tunerCode .a)) none p.rif.ringTime
        else p.nfu } : Part).tuner .b = p.tuner .b := rfl
  rw [hb]
  simp only [slipFaults, TunerId.all, List.filter_cons, List.filter_nil]
  split <;> split <;> rfl

theorem slipFaults_of_none {p : Part} {ts : List TunerId} (h : ∀ t, (p.tuner t).slips = false) :
    slipFaults p ts = p.nfu := by
  simp [slipFaults, h]

/-! ### The frame -/

/-- The part as the zone buses are formed: the adapters and the chime have moved on. -/
def bussed (p : Part) : Part := zoneFrame { adapted p with anu := chimeFrame p.anu }

theorem audioFrame_eq (mics : List Sample) (p : Part) :
    audioFrame mics p = { callFrame mics (renderFrame (bussed p)) with draws := p.draws + 1 } := by
  have h : audioFrame mics p = { callFrame mics (renderFrame (bussed p)) with
      draws := (callFrame mics (renderFrame (bussed p))).draws + 1 } := by
    simp only [audioFrame, bussed, adapterFrame_frame]
  rw [h]
  simp [bussed]

theorem audioFrame_anu (mics : List Sample) (p : Part) : (audioFrame mics p).anu = chimeFrame p.anu := by
  rw [audioFrame_eq]
  simp [bussed]

theorem audioFrame_tuc (mics : List Sample) (p : Part) : (audioFrame mics p).tuc = (adapted p).tuc := by
  rw [audioFrame_eq]
  simp [bussed]

theorem audioFrame_tuner (mics : List Sample) (p : Part) (t : TunerId) :
    (audioFrame mics p).tuner t = adapterStep (p.tuner t) := by
  rw [← adapted_tuner]
  simp [Part.tuner, audioFrame_tuc]

theorem audioFrame_nfu (mics : List Sample) (p : Part) : (audioFrame mics p).nfu = slipFaults p TunerId.all := by
  rw [audioFrame_eq, ← adapted_nfu]
  simp [bussed]

theorem audioFrame_zmx (mics : List Sample) (p : Part) : (audioFrame mics p).zmx = (bussed p).zmx := by
  rw [audioFrame_eq]
  simp

theorem audioFrame_zone (mics : List Sample) (p : Part) (z : ZoneId) :
    (audioFrame mics p).zone z = { p.zone z with clip := ((audioFrame mics p).zone z).clip } := by
  have hz : (audioFrame mics p).zone z = (bussed p).zone z := by simp [Part.zone, audioFrame_zmx]
  have hb : (bussed p).zone z = { p.zone z with clip := ((bussed p).zone z).clip } := by
    simp [bussed, zoneFrame, Part.zone]
  rw [hz]
  exact hb

/-! ### The outputs -/

theorem zoneOf_eq_getElem? : ∀ n, zoneOf n = ZoneId.all[n]?
  | 0 | 1 | 2 | 3 | 4 | 5 => rfl
  | _ + 6 => rfl

theorem unitPoisoned_of_entry {p : Part} {table entry : Nat} (h : p.entryPoisoned table entry = false) (part : Nat) :
    p.unitPoisoned table entry part = false := by
  simp only [Part.entryPoisoned, List.any_eq_false, Bool.and_eq_true, beq_iff_eq, not_and] at h
  simp only [Part.unitPoisoned, List.contains_eq_mem, decide_eq_false_iff_not]
  exact fun hu => h _ hu rfl rfl

/-- The round-sum of an entry that is not poisoned: of all its contributions (R42). -/
theorem rawBankSum_clean {p : Part} {bank : BankId} {i : Nat} (e : RenderEntry)
    (h : p.entryPoisoned (bankTable bank) i = false) :
    rawBankSum p bank i e = if e.enabled = true then
      (((e.contribs.take e.count).map fun c => sideSample p.zmx.bus c * (linear c.applied : Int)).sum + 4194304)
        / 8388608 else 0 := by
  have hterms : renderTerms p bank i e = (e.contribs.take e.count).map fun c =>
    (sideSample p.zmx.bus c, c.applied) := by
    simp only [renderTerms, unitPoisoned_of_entry h, Bool.false_eq_true, if_false]
    conv_rhs => rw [← List.zipIdx_map_fst 0 (e.contribs.take e.count), List.map_map]
    rfl
  unfold rawBankSum
  rw [unitPoisoned_of_entry h, hterms, products, List.map_map, roundSum]
  cases e.enabled <;> rfl

theorem renderFrame_line {p : Part} {bank : BankId} {n : Nat} {e : RenderEntry} {l : List Sample}
    (he : (p.bank bank)[n]? = some e) (hl : (p.rmx.lines bank)[n]? = some l) :
    ((renderFrame p).rmx.lines bank)[n]? = some (pushLine l (saturate (rawBankSum p bank n e))) := by
  cases bank
  all_goals
    simp only [Rmx.lines] at hl
    simp [renderFrame, Rmx.lines, bankSums, List.getElem?_zipWith, hl, he]

theorem renderFrame_clip {p : Part} {n k : Nat} {e : RenderEntry} (he : (p.bank p.rmx.active)[n]? = some e)
    (hk : p.rmx.clips[n]? = some k) :
    (renderFrame p).rmx.clips[n]?
      = some (if clips (rawBankSum p p.rmx.active n e) then count16 k 1 else k) := by
  simp [renderFrame, countClips, List.getElem?_zipWith, hk, he]

theorem bankReads_getElem? {ls : List (List Sample)} {es : List RenderEntry} {n : Nat} {e : RenderEntry}
    {l : List Sample} (hl : ls[n]? = some l) (he : es[n]? = some e) :
    (bankReads ls es)[n]? = some (l.getD e.delay 0) := by
  simp [bankReads, List.getElem?_zipWith, hl, he, readLine]

theorem renderFrame_outputs (p : Part) : (renderFrame p).rmx.outputs = outputsOf (renderFrame p).rmx p.bank := rfl

/-- Outside a crossfade the active bank is read (R44). -/
theorem outputsOf_steady {r : Rmx} {bank : BankId → List RenderEntry} {n : Nat} {e : RenderEntry} {l : List Sample}
    (hx : r.crossfade = none) (hl : (r.lines r.active)[n]? = some l) (he : (bank r.active)[n]? = some e) :
    (outputsOf r bank)[n]? = some (l.getD e.delay 0) := by
  simp only [outputsOf, hx]
  exact bankReads_getElem? hl he

/-- In a crossfade the two banks are mixed (R48). -/
theorem outputsOf_crossfade {r : Rmx} {bank : BankId → List RenderEntry} {n k : Nat} {e e' : RenderEntry}
    {l l' : List Sample} (hx : r.crossfade = some k)
    (hl : (r.lines r.active)[n]? = some l) (he : (bank r.active)[n]? = some e)
    (hl' : (r.lines r.active.other)[n]? = some l') (he' : (bank r.active.other)[n]? = some e') :
    (outputsOf r bank)[n]? = some (crossfade (bankWeight k) (l'.getD e'.delay 0) (l.getD e.delay 0)) := by
  simp only [outputsOf, hx, List.getElem?_zipWith, bankReads_getElem? hl he, bankReads_getElem? hl' he']

/-! ### The slots -/

/-- Samples written to the slots that a map names: a slot named by none of them stays, one that is named by samples of
one value holds that value. -/
theorem foldl_setSlot {slot : Nat → Option Nat} {k : Nat} {v : Sample} (l : List (Sample × Nat)) {ss : List Sample}
    (hv : ∀ x ∈ l, slot x.2 = some k → x.1 = v) (h : ss[k]? = some v ∨ k < ss.length ∧ ∃ x ∈ l, slot x.2 = some k) :
    (l.foldl (fun ss x => match slot x.2 with
      | some s => ss.set s x.1
      | none => ss) ss)[k]? = some v := by
  induction l generalizing ss with
  | nil =>
    obtain h | ⟨-, x, hx, -⟩ := h
    · exact h
    · simp at hx
  | cons x l ih =>
    rw [List.foldl_cons]
    refine ih (fun y hy => hv y (List.mem_cons_of_mem _ hy)) ?_
    have hx := hv x List.mem_cons_self
    cases hs : slot x.2 with
    | none =>
      simp only [List.mem_cons, exists_eq_or_imp, hs, reduceCtorEq, false_or] at h
      exact h
    | some s =>
      by_cases hsk : s = k
      · subst hsk
        left
        have hlen : s < ss.length := by
          obtain h | h := h
          · exact (List.getElem?_eq_some_iff.mp h).1
          · exact h.1
        simp [hlen, hx hs]
      · simp only [List.mem_cons, exists_eq_or_imp, hs, Option.some.injEq, hsk, false_or] at h
        simpa [hsk] using h

theorem writeSlots_length (p : Part) (ss : List Sample) : (writeSlots p ss).length = ss.length := by
  have h : ∀ (l : List (Sample × Nat)) (ss : List Sample), (l.foldl (fun ss x => match p.egressSlot x.2 with
      | some s => ss.set s x.1
      | none => ss) ss).length = ss.length := by
    intro l
    induction l with
    | nil => exact fun _ => rfl
    | cons x l ih =>
      intro ss
      rw [List.foldl_cons, ih]
      split <;> simp
  exact h _ ss

/-- A slot that no egress entry names goes on as it arrives (R153). -/
theorem writeSlots_unnamed {p : Part} {k : Nat} (ss : List Sample) (h : ∀ i, p.egressSlot i ≠ some k) :
    (writeSlots p ss)[k]? = ss[k]? := by
  cases hk : ss[k]? with
  | none =>
    rw [List.getElem?_eq_none_iff] at hk ⊢
    rw [writeSlots_length]
    exact hk
  | some v => exact foldl_setSlot _ (fun x _ hx => absurd hx (h _)) (.inl hk)

/-- A slot that one egress entry names carries its sample (R153). -/
theorem writeSlots_named {p : Part} {i k : Nat} {x : Sample} {ss : List Sample} (hi : p.egressSlot i = some k)
    (hu : ∀ j, j ≠ i → p.egressSlot j ≠ some k) (hk : k < ss.length) (hx : (egressSamples p)[i]? = some x) :
    (writeSlots p ss)[k]? = some x := by
  refine foldl_setSlot _ (fun y hy hs => ?_) (.inr ⟨hk, (x, i), ?_, hi⟩)
  · have hyi : y.2 = i := by
      by_contra hne
      exact hu _ hne hs
    have hy' := List.mem_zipIdx_iff_getElem?.mp hy
    rw [hyi, hx] at hy'
    exact (Option.some.inj hy').symm
  · exact List.mem_zipIdx_iff_getElem?.mpr hx

end Sys2Proof.Machine
end

section
/-! PROOFS. Frames after the join: valid and bad ones (O7, O8), lane words (O9), the zone buses (O28) and the rate
adapters (O36). -/

namespace Sys2Proof.Machine

/-! ### Valid frames -/

/-- A free lane word with no message in assembly and no reply to send goes on as it arrives. -/
theorem exec_validFrame_free {p : Part} (f : Frame) (mics : List Sample) (w : List Instr)
    (ha : p.rif.addressValid = true) (hj : p.rif.joined = true) (hm : p.pwc.mode ≠ .dormant)
    (hl : p.tst.latent = []) (ho : f.occupied = false) (hrx : p.rif.rx = []) (htx : p.rif.tx = none) :
    exec (.validFrame f mics) ⟨p, w⟩ = .next ⟨forward
      (freshFrame false f.lane (writeSlots (framed f mics p) f.slots)) (framed f mics p), w⟩ := by
  have hrif := framed_rif f mics p
  have hlane : laneWord f (framed f mics p) = (framed f mics p, false, f.lane) := by
    have hrx' : (framed f mics p).rif.rx = [] := by rw [hrif]; exact hrx
    have htx' : (framed f mics p).rif.tx = none := by rw [hrif]; exact htx
    simp only [laneWord, ho, Bool.false_eq_true, if_false, abandonMessage_none hrx', htx']
  rw [exec_validFrame_joined f mics w ha hj hm, takeFrame_clean f mics hl, hlane]

/-- The tables do not change with a frame's audio, nor does what is read of the maps. -/
theorem framed_tst (f : Frame) (mics : List Sample) (p : Part) : (framed f mics p).tst = p.tst := by
  simp [readChannels, endLoss]

theorem egressSlot_of_tst {p q : Part} (h : q.tst = p.tst) : q.egressSlot = p.egressSlot := by
  funext i
  simp [Part.egressSlot, Part.unitPoisoned, h]

/-- The part as a frame's outputs are formed. -/
abbrev frameBussed (f : Frame) (p : Part) : Part := bussed (readChannels f (endLoss p))

theorem bussed_frame (p : Part) : (bussed p).tst = p.tst ∧ (bussed p).rmx = p.rmx ∧ (bussed p).clp = p.clp := by
  simp [bussed]

/-- A contribution's side sample, by the buses in the order of the zone codes (R42). -/
theorem sideSample_eq (bus : PerZone (Sample × Sample)) (c : Contribution) :
    sideSample bus c = if 5 < c.zone then 0 else
      match c.side with
      | .l => ((ZoneId.all[c.zone]?.map bus.get).getD (0, 0)).1
      | .r => ((ZoneId.all[c.zone]?.map bus.get).getD (0, 0)).2
      | .mid => (((ZoneId.all[c.zone]?.map bus.get).getD (0, 0)).1
          + ((ZoneId.all[c.zone]?.map bus.get).getD (0, 0)).2) / 2 := by
  unfold sideSample
  rw [zoneOf_eq_getElem?]
  by_cases hz : 5 < c.zone
  · rw [if_pos hz, List.getElem?_eq_none (Nat.succ_le_of_lt hz)]
  · have hlen : c.zone < ZoneId.all.length := by
      simp only [ZoneId.all, List.length_cons, List.length_nil]
      omega
    rw [if_neg hz, List.getElem?_eq_getElem hlen]
    cases c.side <;> rfl

theorem clips_eq (x : Int) : clips x = true ↔ x < -8388608 ∨ 8388607 < x := by
  simp [clips, sampleMin, sampleMax]

theorem bank_of_tst {p q : Part} (h : q.tst = p.tst) : q.bank = p.bank := by
  funext k
  cases k <;> simp [Part.bank, h]

theorem entryPoisoned_of_tst {p q : Part} (h : q.tst = p.tst) : q.entryPoisoned = p.entryPoisoned := by
  funext table entry
  simp [Part.entryPoisoned, h]

/-- The lines, clip counters and outputs of a frame, where the tables and the render state before it are `p`'s. -/
theorem renderFrame_of {p y : Part} (htst : y.tst = p.tst) (hrmx : y.rmx = p.rmx) {sum : RenderEntry → Int}
    (hsum : ∀ bank n e, p.entryPoisoned (bankTable bank) n = false → rawBankSum y bank n e = sum e) :
    (∀ bank n e l, (p.bank bank)[n]? = some e → (p.rmx.lines bank)[n]? = some l →
      p.entryPoisoned (bankTable bank) n = false →
      ((renderFrame y).rmx.lines bank)[n]? = some (pushLine l (saturate (sum e))))
    ∧ ∀ n e, (p.bank p.rmx.active)[n]? = some e → p.entryPoisoned (bankTable p.rmx.active) n = false →
      (∀ k, p.rmx.clips[n]? = some k →
        (renderFrame y).rmx.clips[n]? = some (if clips (sum e) then count16 k 1 else k))
      ∧ ∀ l, (p.rmx.lines p.rmx.active)[n]? = some l →
        (p.rmx.crossfade = none →
          (renderFrame y).rmx.outputs[n]? = some ((pushLine l (saturate (sum e))).getD e.delay 0))
        ∧ ∀ e' l' k, p.rmx.crossfade = some k → (p.bank p.rmx.active.other)[n]? = some e' →
          (p.rmx.lines p.rmx.active.other)[n]? = some l' →
          p.entryPoisoned (bankTable p.rmx.active.other) n = false →
          (renderFrame y).rmx.outputs[n]? = some (crossfade (bankWeight k)
            ((pushLine l' (saturate (sum e'))).getD e'.delay 0) ((pushLine l (saturate (sum e))).getD e.delay 0)) := by
  have hbank := bank_of_tst htst
  have hline : ∀ bank n e l, (p.bank bank)[n]? = some e → (p.rmx.lines bank)[n]? = some l →
      p.entryPoisoned (bankTable bank) n = false →
      ((renderFrame y).rmx.lines bank)[n]? = some (pushLine l (saturate (sum e))) := by
    intro bank n e l he hl hp
    rw [renderFrame_line (by rwa [hbank]) (by rwa [hrmx]), hsum bank n e hp]
  have hact : (renderFrame y).rmx.active = p.rmx.active := by rw [← hrmx]; rfl
  have hcross : (renderFrame y).rmx.crossfade = p.rmx.crossfade := by rw [← hrmx]; rfl
  refine ⟨hline, fun n e he hp => ⟨fun k hk => ?_, fun l hl => ⟨fun hx => ?_, fun e' l' k hx he' hl' hp' => ?_⟩⟩⟩
  · rw [renderFrame_clip (by rwa [hbank, hrmx]) (by rwa [hrmx]), hsum _ n e (by rwa [hrmx])]
  · rw [renderFrame_outputs]
    exact outputsOf_steady (hcross.trans hx) (by rw [hact]; exact hline _ n e l he hl hp) (by rwa [hact, hbank])
  · rw [renderFrame_outputs]
    exact outputsOf_crossfade (hcross.trans hx) (by rw [hact]; exact hline _ n e l he hl hp) (by rwa [hact, hbank])
      (by rw [hact]; exact hline _ n e' l' he' hl' hp') (by rwa [hact, hbank])

/-- A seat at a frame: its signal, and in RESET its residual, which is the signal saturated (R140, R144). -/
theorem seatFrame_of (p : Part) (mics : List Sample) (k : Seat) :
    (seatFrame p mics k).signal = seatSignal (p.seatCfg k) mics
    ∧ ((p.seat k).context = .reset → (seatFrame p mics k).residual = saturate (seatFrame p mics k).signal)
    ∧ (seatFrame p mics k).context = (p.seat k).context ∧ (seatFrame p mics k).v = (p.seat k).v := by
  refine ⟨rfl, fun h => ?_, rfl, rfl⟩
  simp [seatFrame, estimateOf, h]

/-- Settles O7, block by block: the slots by the rules of `writeSlots`, the outputs by those of `renderFrame`. -/
theorem validFrameIsReadAndSentOn : Obligations.ValidFrameIsReadAndSentOn := by
  intro f mics p w ha hj hm hl ho hrx htx
  have htst := framed_tst f mics p
  have hslot := egressSlot_of_tst htst
  have hrif := framed_rif f mics p
  obtain ⟨btst, brmx, bclp⟩ : (frameBussed f p).tst = p.tst ∧ (frameBussed f p).rmx = p.rmx
      ∧ (frameBussed f p).clp = p.clp := bussed_frame (readChannels f (endLoss p))
  have hframed := audioFrame_eq mics (readChannels f (endLoss p))
  have hrmx : (framed f mics p).rmx = (renderFrame (frameBussed f p)).rmx := by
    rw [framed, hframed]
    simp
  have hclp : (framed f mics p).clp = (callFrame mics (renderFrame (frameBussed f p))).clp := by
    rw [framed, hframed]
  have hzmx : (framed f mics p).zmx = (frameBussed f p).zmx := audioFrame_zmx mics _
  refine ⟨_, freshFrame false f.lane (writeSlots (framed f mics p) f.slots),
    exec_validFrame_free f mics w ha hj hm hl ho hrx htx, ?rif, rfl, rfl, rfl, ?length, ?unnamed, ?named,
    ?pwc, htst, ?stm, ?rlu, ?zones, ?outputs, ?seats, ?uplink, ?clp⟩
  case rif =>
    exact congrArg (fun r : Rif =>
      { r with out := some (freshFrame false f.lane (writeSlots (framed f mics p) f.slots)) }) hrif
  case length => exact writeSlots_length _ _
  case unnamed => exact fun k hk => writeSlots_unnamed _ (by rwa [hslot])
  case named =>
    intro i k x hi hu hk hx
    exact writeSlots_named (by rwa [hslot]) (by rwa [hslot]) hk hx
  case pwc => simp [forward, readChannels, endLoss]
  case stm => simp [forward, readChannels, endLoss]
  case rlu => simp [forward, readChannels, endLoss]
  case zones =>
    intro z
    have hz : (framed f mics p).zone z = { p.zone z with clip := ((framed f mics p).zone z).clip } :=
      audioFrame_zone mics _ z
    exact (congrArg (fun r : Zone => { r with clip := (p.zone z).clip }) hz).trans rfl
  case outputs =>
    intro side sum line act
    have hside : ∀ c, sideSample (frameBussed f p).zmx.bus c = side c := by
      intro c
      rw [sideSample_eq, ← hzmx]
      rfl
    have hsum : ∀ bank n e, p.entryPoisoned (bankTable bank) n = false →
        rawBankSum (frameBussed f p) bank n e = sum e := by
      intro bank n e hp
      rw [rawBankSum_clean e (by rw [entryPoisoned_of_tst btst]; exact hp)]
      simp only [hside]
      rfl
    obtain ⟨hlines, hactive⟩ := renderFrame_of (p := p) (y := frameBussed f p) btst brmx hsum
    refine ⟨?_, ?_, ?_⟩
    · intro bank n e l he hl' hp
      show ((framed f mics p).rmx.lines bank)[n]? = _
      rw [hrmx, hlines bank n e l he hl' hp]
      rfl
    · intro n e he hp
      obtain ⟨hclip, hout⟩ := hactive n e he hp
      refine ⟨fun k hk => ?_, fun l hl' => ⟨fun hx => ?_, fun e' l' k hx he' hl'' hp' => ?_⟩⟩
      · show (framed f mics p).rmx.clips[n]? = _
        rw [hrmx, hclip k hk]
        simp only [clips_eq, count16]
      · show (framed f mics p).rmx.outputs[n]? = _
        rw [hrmx, (hout l hl').1 hx]
        rfl
      · show (framed f mics p).rmx.outputs[n]? = _
        rw [hrmx, (hout l hl').2 e' l' k hx he' hl'' hp']
        simp only [crossfade, bankWeight, roundSum, Nat.cast_mul]
        rfl
    · show (framed f mics p).rmx.active = _ ∧ (framed f mics p).rmx.crossfade = _ ∧
        (framed f mics p).rmx.tailgateOpen = _
      rw [hrmx, ← brmx]
      exact ⟨rfl, rfl, rfl⟩
  case seats =>
    intro k
    have hk : (framed f mics p).seat k = seatFrame (renderFrame (frameBussed f p)) mics k := by
      show (framed f mics p).clp.seats.get k = _
      rw [hclp]
      exact PerSeat.get_of k _
    have hseat : (renderFrame (frameBussed f p)).seat k = p.seat k := by simp [Part.seat, bclp]
    have hcfg : (renderFrame (frameBussed f p)).seatCfg k = p.seatCfg k := by
      simp [Part.seatCfg, Part.unitPoisoned, btst]
    obtain ⟨hsignal, hresidual, hcontext, hv⟩ := seatFrame_of (renderFrame (frameBussed f p)) mics k
    rw [hcfg] at hsignal
    rw [hseat] at hresidual hcontext hv
    refine ⟨?_, fun hreset => ?_, ?_, ?_⟩
    · show ((framed f mics p).seat k).signal = _
      rw [hk, hsignal]
      unfold seatSignal
      cases (p.seatCfg k).mic2 <;> rfl
    · show ((framed f mics p).seat k).residual = max _ (min _ ((framed f mics p).seat k).signal)
      rw [hk]
      exact hresidual hreset
    · exact (congrArg SeatRt.context hk).trans hcontext
    · exact (congrArg SeatRt.v hk).trans hv
  case uplink =>
    have hcarried : (callFrame mics (renderFrame (frameBussed f p))).clp.uplink
        = scale ((callFrame mics (renderFrame (frameBussed f p))).clp.seats.get
          (p.clp.talker.getD p.clp.lastTalker)).residual
            p.clp.uplinkCode := by
      rw [← bclp]
      rfl
    rw [← hclp] at hcarried
    exact hcarried
  case clp =>
    show (framed f mics p).clp = { p.clp with
      seats := (framed f mics p).clp.seats, uplink := (framed f mics p).clp.uplink }
    rw [hclp, ← bclp]
    rfl

/-! ### Bad frames -/

theorem forward_rif (o : FrameOut) (p : Part) : (forward o p).rif = { p.rif with out := some o } := rfl

/-- Settles O8: in DORMANT the frame goes on as it arrives; else its slots are written as those of a valid frame. -/
theorem badFrameIsConcealed : Obligations.BadFrameIsConcealed := by
  have hspoilt : ∀ p : Part, p.rif.tx = none → spoilt p = { p with
      rif := { p.rif with
        badFrames := min 65535 (p.rif.badFrames + 1), rx := []
        laneErrors := if p.rif.rx = [] then p.rif.laneErrors else min 65535 (p.rif.laneErrors + 1) }
      nfu := if p.rif.rx = [] then p.nfu else p.nfu.fault .laneCheck none none p.rif.ringTime } := by
    intro p htx
    have habandon := abandonMessage_eq { p with rif := { p.rif with badFrames := min 65535 (p.rif.badFrames + 1) } }
    rw [spoilt, habandon]
    exact cutReply_none htx
  refine ⟨fun f mics p w ha hj hm htx => ?_, fun f mics p w ha hj hm hl htx => ?_⟩
  · have h : badFrame f mics p = forward (asArrived f) (spoilt p) := by
      have hj' : badFrame f mics p = joinedBad f mics p := by simp [badFrame, ha, hj]
      have hcases : joinedBad f mics p = if (spoilt p).pwc.mode == .dormant then forward (asArrived f) (spoilt p)
          else forward (badOut f (writeSlots (audioFrame mics (holdChannels (ownerReads frameTables (spoilt p))))
            f.slots))
            (ownerReads renderTables (audioFrame mics (holdChannels (ownerReads frameTables (spoilt p))))) := rfl
      have hd : (spoilt p).pwc.mode = .dormant := by rw [hspoilt p htx]; exact hm
      rw [hj', hcases, hd]
      rfl
    refine congrArg (fun q => Host.Outcome.next (⟨q, w⟩ : State)) (h.trans ?_)
    rw [hspoilt p htx]
    rfl
  · have hmode : (spoilt p).pwc.mode ≠ .dormant := by rw [hspoilt p htx]; exact hm
    have hlatent : (spoilt p).tst.latent = [] := by rw [hspoilt p htx]; exact hl
    have hexec := exec_badFrame_joined f mics w ha hj hmode hlatent
    obtain ⟨b, hb⟩ : ∃ b, b = spoilt p := ⟨_, rfl⟩
    rw [← hb] at hexec
    rw [hspoilt p htx] at hb
    have hslot : (audioFrame mics (holdChannels b)).egressSlot = p.egressSlot :=
      egressSlot_of_tst (by simp [holdChannels, hb])
    refine ⟨_, badOut f (writeSlots (audioFrame mics (holdChannels b)) f.slots), hexec, ?rif, rfl, rfl, rfl, ?unnamed,
      ?named, ?pwc, ?tst, ?stm, ?rlu, ?nfu⟩
    case rif => simp [forward_rif, holdChannels, hb, Part.ingressSlot, Part.unitPoisoned]
    case unnamed => exact fun k hk => writeSlots_unnamed _ (by rwa [hslot])
    case named =>
      intro i k x hi hu hk hx
      exact writeSlots_named (by rwa [hslot]) (by rwa [hslot]) hk hx
    case pwc => simp [forward, holdChannels, hb]
    case tst => simp [forward, holdChannels, hb]
    case stm => simp [forward, holdChannels, hb]
    case rlu => simp [forward, holdChannels, hb]
    case nfu =>
      intro hfifo
      have hslips : ∀ t, (p.tuner t).slips = false := by
        intro t
        have ht := hfifo t
        simp only [Tuner.slips, Bool.and_eq_false_imp, decide_eq_false_iff_not, not_lt]
        exact ht
      have hb' : ∀ t, ((holdChannels b).tuner t).slips = false := by
        subst hb
        exact hslips
      have hnfu := (audioFrame_nfu mics (holdChannels b)).trans (slipFaults_of_none hb')
      exact hnfu.trans (by rw [hb]; rfl)

/-! ### Message assembly -/

theorem assembleWord_waiting {p : Part} {lane : List Byte} (hv : valueAt (p.rif.rx ++ lane) 4 1 ≤ 56)
    (h : (p.rif.rx ++ lane).length < valueAt (p.rif.rx ++ lane) 4 1 + 8) :
    assembleWord lane p = { p with rif := { p.rif with rx := p.rif.rx ++ lane } } := by
  have hlong : ¬56 < valueAt (p.rif.rx ++ lane) 4 1 := by omega
  have hfull : ¬messageLength (valueAt (p.rif.rx ++ lane) 4 1) ≤ (p.rif.rx ++ lane).length := by
    unfold messageLength
    omega
  simp only [assembleWord, hlong, hfull, decide_false, Bool.and_false, Bool.false_eq_true, if_false]

/-- A length above 56 is a lane error (R156). -/
theorem assembleWord_long {p : Part} {lane : List Byte} (h : 5 ≤ (p.rif.rx ++ lane).length)
    (hv : 56 < valueAt (p.rif.rx ++ lane) 4 1) : assembleWord lane p = laneError p := by
  simp only [assembleWord, h, hv, decide_true, Bool.and_self, if_true]

theorem assembleWord_complete {p : Part} {lane : List Byte} (hv : valueAt (p.rif.rx ++ lane) 4 1 ≤ 56)
    (h : valueAt (p.rif.rx ++ lane) 4 1 + 8 ≤ (p.rif.rx ++ lane).length) :
    assembleWord lane p
      = completeMessage ((p.rif.rx ++ lane).take (valueAt (p.rif.rx ++ lane) 4 1 + 8)) p := by
  have hlong : ¬56 < valueAt (p.rif.rx ++ lane) 4 1 := by omega
  have h5 : 5 ≤ (p.rif.rx ++ lane).length := by omega
  simp only [assembleWord, messageLength, hlong, h5, h, decide_true, decide_false, Bool.and_false, Bool.and_self,
    Bool.false_eq_true, if_false, if_true]

theorem completeMessage_fails {m : List Byte} {p : Part}
    (h : byte2 (crc16 (m.take (m.length - 2))).toNat ≠ m.drop (m.length - 2)) : completeMessage m p = laneError p := by
  simp [completeMessage, h]

theorem completeMessage_passes {m : List Byte} {p : Part}
    (h : byte2 (crc16 (m.take (m.length - 2))).toNat = m.drop (m.length - 2)) :
    completeMessage m p = dispatchMessage m { p with rif := { p.rif with rx := [] } } := by
  simp [completeMessage, h]

/-- A message for another node is taken off (R156). -/
theorem dispatchMessage_other {m : List Byte} {p : Part} (ha : valueAt m 0 1 % 64 ≠ p.rif.address)
    (hb : valueAt m 0 1 % 64 ≠ 63) : dispatchMessage m p = p := by
  simp [dispatchMessage, ha, hb]

/-- An occupied lane word with no reply held enters assembly, and the frame carries it on. -/
theorem exec_validFrame_word {p : Part} (f : Frame) (mics : List Sample) (w : List Instr)
    (ha : p.rif.addressValid = true) (hj : p.rif.joined = true) (hm : p.pwc.mode ≠ .dormant)
    (hl : p.tst.latent = []) (ho : f.occupied = true) (htx : p.rif.tx = none) :
    exec (.validFrame f mics) ⟨p, w⟩ = .next ⟨forward
      (freshFrame true f.lane (writeSlots (framed f mics p) f.slots)) (assembleWord f.lane (framed f mics p)), w⟩ := by
  have hrif := framed_rif f mics p
  have hlane : laneWord f (framed f mics p) = (assembleWord f.lane (framed f mics p), true, f.lane) := by
    have htx' : (framed f mics p).rif.tx = none := by rw [hrif]; exact htx
    simp only [laneWord, ho, if_true, cutReply_none htx']
  rw [exec_validFrame_joined f mics w ha hj hm, takeFrame_clean f mics hl, hlane]

/-- Settles O9, by the cases of `assembleWord` on the part whose audio is formed. -/
theorem laneWordsAssembleMessages : Obligations.LaneWordsAssembleMessages := by
  intro f mics p w ha hj hm hl ho htx
  have hrif := framed_rif f mics p
  obtain ⟨b, hb⟩ : ∃ b, b = framed f mics p := ⟨_, rfl⟩
  rw [← hb] at hrif
  have hrx : b.rif.rx = p.rif.rx := by rw [hrif]
  have herrors : b.rif.laneErrors = p.rif.laneErrors := by rw [hrif]
  have haddress : b.rif.address = p.rif.address := by rw [hrif]
  have hexec := exec_validFrame_word f mics w ha hj hm hl ho htx
  rw [← hb] at hexec
  refine ⟨_, freshFrame true f.lane (writeSlots b f.slots), hexec, rfl, rfl, rfl, ?_⟩
  intro lost
  have hlost : assembleWord f.lane b = laneError b → lost := by
    intro h
    refine ⟨by rw [h]; rfl, by rw [h, ← herrors]; rfl, fun hfifo => ?_⟩
    have hslips : ∀ t, (p.tuner t).slips = false := by
      intro t
      have ht := hfifo t
      simp only [Tuner.slips, Bool.and_eq_false_imp, decide_eq_false_iff_not, not_lt]
      exact ht
    have hnfu : b.nfu = p.nfu := by
      rw [hb]
      exact (audioFrame_nfu mics _).trans (slipFaults_of_none hslips)
    rw [h, ← hnfu]
    show b.nfu.fault _ _ _ b.rif.ringTime = _
    rw [hrif]
  rw [← hrx] at *
  refine ⟨fun h5 => ?_, fun h5 hv hn => ?_, fun h5 hv => hlost (assembleWord_long h5 hv), fun m hmsg hv hn => ?_⟩
  · rw [assembleWord_short h5]
    exact ⟨rfl, herrors⟩
  · rw [assembleWord_waiting hv hn]
    exact ⟨rfl, herrors⟩
  · have hcomplete := assembleWord_complete hv hn
    rw [← hmsg] at hcomplete
    refine ⟨fun hcheck ha' hb' => ?_, fun hcheck => hlost (hcomplete.trans (completeMessage_fails hcheck))⟩
    rw [hcomplete, completeMessage_passes hcheck, dispatchMessage_other (by rwa [haddress]) hb']
    exact ⟨rfl, herrors⟩

/-! ### Rate adapters -/

/-- The part before a frame's audio holds the tuners and the notices of the part before the frame. -/
theorem framed_tuner (f : Frame) (mics : List Sample) (p : Part) (t : TunerId) :
    (framed f mics p).tuner t = adapterStep (p.tuner t) := audioFrame_tuner mics _ t

/-- A sample of a tuner that has completed its tune joins the FIFO, or slips (R64, R66). -/
theorem tunerAudioSample_taken {t : TunerId} {p : Part} {l r : Sample}
    (hs : (p.tuner t).state = .playing ∨ (p.tuner t).state = .tuning ∨ (p.tuner t).state = .checking)
    (hd : (p.tuner t).done = true) :
    tunerAudioSample t l r p = if (p.tuner t).adapter.fifo.length < 256 then
        p.setTuner t { p.tuner t with adapter := { (p.tuner t).adapter with
          fifo := (p.tuner t).adapter.fifo ++ [(l, r)]
          primed := (p.tuner t).adapter.primed || decide (128 ≤ (p.tuner t).adapter.fifo.length + 1) } }
      else (p.setTuner t { p.tuner t with overflows := count16 (p.tuner t).overflows 1 }).fault .slip
        (some (tunerCode t)) := by
  have hwork : (!(p.tuner t).working || !(p.tuner t).done) = false := by
    obtain h | h | h := hs <;> simp [Tuner.working, h, hd]
  simp only [tunerAudioSample, hwork, Bool.false_eq_true, if_false, List.length_append, List.length_singleton]

/-- Settles O36: an adapter's frame is its `adapterStep`; its input and its trim are their definitions' cases. -/
theorem adaptersFillAndTrim : Obligations.AdaptersFillAndTrim := by
  refine ⟨fun f mics p w ha hj hm hl ho hrx htx => ?_, fun t l r p w => ?_⟩
  · refine ⟨_, exec_validFrame_free f mics w ha hj hm hl ho hrx htx, fun t => ?_, ?_, ?_⟩
    · intro a
      have ht : (forward (freshFrame false f.lane (writeSlots (framed f mics p) f.slots)) (framed f mics p)).tuner t
          = adapterStep (p.tuner t) := framed_tuner f mics p t
      rw [ht]
      refine ⟨fun hp => adapterStep_unprimed hp, fun hp hlen => adapterStep_slip hp hlen, fun hp hlen => ?_⟩
      obtain ⟨x, y, fifo, hfifo⟩ : ∃ x y fifo, a.fifo = x :: y :: fifo := by
        match hf : a.fifo with
        | [] => simp [hf] at hlen
        | [_] => simp [hf] at hlen
        | x :: y :: fifo => exact ⟨x, y, fifo, rfl⟩
      intro s0 s1 between next
      have hsome : adapterOutput a = some (between s0.1 s1.1, between s0.2 s1.2) := by
        simp only [adapterOutput, hfifo, s0, s1, List.getD_cons_zero, List.getD_cons_succ]
        rfl
      exact adapterStep_output hp hsome
    · exact (audioFrame_tuc mics _).trans ((adapted_tuc _).trans (by rw [← audioFrame_tuc mics]; rfl))
    · exact audioFrame_nfu mics _
  · intro u
    have hrun : ∀ q, tunerAudioSample t l r p = q → exec (.tunerAudioSample t l r) ⟨p, w⟩ = .next ⟨q, w⟩ :=
      fun q hq => congrArg (fun q => Host.Outcome.next (⟨q, w⟩ : State)) hq
    have htrim : ∀ q, adapterTrimAdjust t p = q → exec (.adapterTrimAdjust t) ⟨p, w⟩ = .next ⟨q, w⟩ :=
      fun q hq => congrArg (fun q => Host.Outcome.next (⟨q, w⟩ : State)) hq
    refine ⟨fun h => hrun _ ?_, fun hs hd => ⟨fun hlen => hrun _ ?_, fun hlen => hrun _ ?_⟩, fun hr hp => htrim _ ?_,
      fun h => htrim _ ?_⟩
    · have hcond : (!u.working || !u.done) = true := by
        obtain h | h | h := h <;> simp [Tuner.working, h]
      exact if_pos hcond
    · rw [tunerAudioSample_taken hs hd, if_pos hlen]
    · rw [tunerAudioSample_taken hs hd, if_neg (Nat.not_lt.mpr hlen)]
      rfl
    · have hcond : (p.running && u.adapter.primed) = true := by rw [hr, hp, Bool.and_self]
      exact if_pos hcond
    · have hcond : ¬(p.running && u.adapter.primed) = true := by
        obtain h | h := h <;> rw [h] <;> simp
      exact if_neg hcond

/-! ### Zone buses -/

theorem codeOfBool_clips (x : Int) : codeOfBool (clips x) = if x < -8388608 ∨ 8388607 < x then 1 else 0 := by
  have h := clips_eq x
  cases hc : clips x
  · rw [if_neg (by simpa [hc] using h)]
    rfl
  · rw [if_pos (by simpa [hc] using h)]
    rfl

/-- A zone's bus is its two sums, saturated and counted (R5, R6). -/
theorem bussed_zone (p : Part) (z : ZoneId) :
    (bussed p).zmx.bus.get z = (saturate (rawBus { adapted p with anu := chimeFrame p.anu } z).1,
      saturate (rawBus { adapted p with anu := chimeFrame p.anu } z).2)
    ∧ ((bussed p).zone z).clip = count16 (p.zone z).clip
        (busClips (rawBus { adapted p with anu := chimeFrame p.anu } z)) := by
  have hz : ({ adapted p with anu := chimeFrame p.anu } : Part).zone z = p.zone z := by simp [Part.zone]
  refine ⟨PerZone.get_of z _, ?_⟩
  rw [← hz]
  exact congrArg Zone.clip (PerZone.get_of z _)

theorem chimeFrame_playing (a : Anu) : (chimeFrame a).playing = a.playing := by
  unfold chimeFrame
  split <;> rfl

/-- An adapter's frame leaves it primed, or not, and the tuner's separation. -/
theorem adapterStep_keeps (r : Tuner) :
    (adapterStep r).adapter.primed = r.adapter.primed ∧ (adapterStep r).sep = r.sep := by
  unfold adapterStep
  split
  · split <;> exact ⟨rfl, rfl⟩
  · exact ⟨rfl, rfl⟩

/-- Settles O28: the bus is formed from the part whose adapters and chime have moved on. -/
theorem zoneBusesAreSaturatedRoundSums : Obligations.ZoneBusesAreSaturatedRoundSums := by
  intro f mics z p w ha hj hm hl ho hrx htx
  refine ⟨_, exec_validFrame_free f mics w ha hj hm hl ho hrx htx, ?_, ?_⟩
  · have hanu : (framed f mics p).anu = chimeFrame p.anu := audioFrame_anu mics _
    refine hanu.trans ?_
    unfold chimeFrame
    cases p.anu.chime.segment <;> rfl
  · intro channel mono radio mix ent prompt side e he l r
    obtain ⟨y, hy⟩ : ∃ y, y = ({ adapted (readChannels f (endLoss p)) with anu := chimeFrame p.anu } : Part) := ⟨_, rfl⟩
    have hytst : y.tst = p.tst := by simp [hy, readChannels, endLoss]
    have hyzmx : y.zmx = p.zmx := by simp [hy, readChannels, endLoss]
    have hystm : y.stm = p.stm := by simp [hy, readChannels, endLoss]
    have hyrif : y.rif = (framed f mics p).rif := by simp [hy]
    have hytuner : ∀ t, y.tuner t = (framed f mics p).tuner t := by
      intro t
      rw [framed_tuner, hy]
      exact adapted_tuner _ t
    have hyanu : y.anu = (framed f mics p).anu := by
      rw [hy]
      exact (audioFrame_anu mics (readChannels f (endLoss p))).symm
    have hplaying : y.anu.playing = p.anu.playing := by rw [hy]; exact chimeFrame_playing p.anu
    have hchannel : ∀ ch, channelSample y ch = channel ch := by
      intro ch
      unfold channelSample
      rw [hyrif]
      cases ch <;> rfl
    have hmono : ∀ k, monoSignal y k = mono k := by
      intro k
      have hp : y.unitPoisoned tblSources k 0 = p.unitPoisoned 2 k 0 := by simp [Part.unitPoisoned, hytst, tblSources]
      simp only [monoSignal, hp, hchannel, hyzmx, mono]
    have hradio : ∀ t, radioSignal y t = radio t := by
      intro t
      obtain ⟨hprimed, hsep⟩ := adapterStep_keeps (p.tuner t)
      rw [← framed_tuner f mics] at hprimed hsep
      simp only [radioSignal, blend, hytuner, hprimed, hsep]
      rfl
    have hent : entSignal y (p.zone z) = e := by
      unfold entSignal
      cases hsrc : (p.zone z).source with
      | none =>
        simp only [ent, hsrc, Option.some.injEq] at he
        exact he
      | media k =>
        have hp : y.unitPoisoned tblSources k.val 0 = p.unitPoisoned 2 k.val 0 := by
          simp [Part.unitPoisoned, hytst, tblSources]
        simp only [ent, hsrc] at he
        simp only [mediaSignal, hp, hchannel, hyzmx]
        split at he
        · simp at he
        · rename_i hclean
          rw [if_neg hclean]
          exact Option.some.inj he
      | radio =>
        have hfollow : ∀ t, y.follow t = p.follow t := fun t => by simp [Part.follow, hystm]
        simp only [ent, hsrc] at he
        unfold zoneRadio
        cases hatt : (p.zone z).att with
        | none =>
          simp only [hatt, Option.some.injEq] at he
          exact he
        | some t =>
          cases hatt2 : (p.zone z).att2 with
          | none =>
            simp only [hatt, hatt2, Option.some.injEq] at he
            exact (hradio t).trans he
          | some u =>
            simp only [hatt, hatt2, Option.some.injEq, mix] at he
            simp only [hradio, hfollow, crossfade, switchWeight, roundSum, Nat.cast_mul]
            exact he
    have hprompt : promptSignal y = prompt := by
      simp only [promptSignal, prompt, hplaying]
      cases p.anu.playing with
      | none => rfl
      | some r =>
        simp only [Option.map_some]
        cases r.source with
        | navVoice => simp only [hmono]
        | pattern n => simp only [hyanu]; rfl
        | tuner t => exact hradio t
    have hraw : rawBus y z = (l, r) := by
      have hzone : y.zone z = p.zone z := by simp [Part.zone, hyzmx]
      simp only [rawBus, hzone, hent, hprompt, hmono, products, roundSum, List.map_cons, List.map_nil, List.sum_cons,
        List.sum_nil, l, r, side]
      simp only [add_zero, add_assoc]
    obtain ⟨hbus, hclip⟩ := bussed_zone (readChannels f (endLoss p)) z
    have hy' : ({ adapted (readChannels f (endLoss p)) with
      anu := chimeFrame (readChannels f (endLoss p)).anu } : Part) = y := hy.symm
    rw [hy', hraw] at hbus hclip
    have hzmx : (framed f mics p).zmx = (frameBussed f p).zmx := audioFrame_zmx mics _
    refine ⟨?_, ?_⟩
    · show (framed f mics p).zmx.bus.get z = _
      rw [hzmx, hbus]
      rfl
    · show ((framed f mics p).zmx.zones.get z).clip = _
      rw [hzmx]
      refine hclip.trans ?_
      rw [busClips, codeOfBool_clips, codeOfBool_clips, count16, ← add_assoc]
      rfl

end Sys2Proof.Machine
end

section
/-! PROOFS. TABLE_READ (O16), and the checks of TABLE_WRITE and TABLE_SHARE (O17). -/

namespace Sys2Proof.Machine

/-! ### Replies to any node -/

/-- The part with an answer held as the reply: saved too where the head unit asked (R158, R159). -/
def replied (kind : Nat) (h : ReqHeader) (a : Answer) : Part :=
  if h.source = 0 then answered kind h a.result a.body a.part
  else { a.part with rif := { a.part.rif with tx := some { bytes := replyBytes a.part kind h a.result a.body } } }

/-- A request that is no repeat and passes the checks is answered by its owner. -/
theorem ringRequest_replied {kind len : Nat} {h : ReqHeader} {clear : Bool} {owner : Part → Answer} {p : Part}
    (hh : p.hears = true) (hm : p.pwc.mode ≠ .dormant) (ht : p.rif.tx = none) (hr : repeatOf p kind h = none)
    (hv : ringChecks kind len h.source clear = none) :
    ringRequest kind len h clear owner p = replied kind h (owner p) := by
  unfold replied
  by_cases hs : h.source = 0
  · rw [if_pos hs]
    refine ringRequest_taken ?_ (by rw [← hs]; exact hv)
    simp [Part.takes, hh, hm, ht, hs, hr]
  · rw [if_neg hs]
    exact ringRequest_foreign hh hm ht hs hv

theorem takes_iff {p : Part} {kind : Nat} {h : ReqHeader} :
    p.takes kind h = true ↔ p.hears = true ∧ p.pwc.mode ≠ .dormant ∧ p.rif.tx = none ∧ h.source = 0
      ∧ repeatOf p kind h = none := by
  simp [Part.takes, and_assoc]

/-! ### TABLE_READ -/

/-- Where nothing that a read depends on has changed, nothing is brought up to date. -/
theorem settleRead_undisturbed {p q : Part} (h : undisturbed p q = true) : settleRead p q = q := by
  simp [settleRead, h]

theorem exec_tableRead {h : ReqHeader} {t i j m o : Nat} {p : Part} (w : List Instr) (hh : p.hears = true)
    (hm : p.pwc.mode ≠ .dormant) (ht : p.rif.tx = none) (hr : repeatOf p 0x10 h = none)
    (hs : h.source = 0 ∨ o.testBit 1 = false) :
    exec (.tableRead h t i j m o) ⟨p, w⟩ = .next ⟨replied 0x10 h (reading h.source t i j m o p), w⟩ := by
  have hv : ringChecks 0x10 6 h.source (o.testBit 1) = none := by
    obtain hs | hs := hs <;> simp [ringChecks, requestLengths, sourceMay, hs]
  exact congrArg (fun q => Host.Outcome.next (⟨q, w⟩ : State)) (ringRequest_replied hh hm ht hr hv)

theorem directory_getElem? {t : Nat} (h : t < 18) : directory[t]? = some (directory.getD t 0) := by
  rw [List.getD_eq_getElem?_getD, List.getElem?_eq_getElem (show t < directory.length from h)]
  rfl

theorem directory_eq_none {t : Nat} (h : 18 ≤ t) : directory[t]? = none := List.getElem?_eq_none h

theorem maskOk_iff {t m : Nat} : maskOk t m = true ↔ m ≠ 0 ∧ m < 2 ^ (fieldSizes t).length := by
  simp [maskOk]

section
variable {s t i j m o : Nat} {p : Part}

theorem tableRead_badTable (ht : 18 ≤ t) : tableRead s t i j m o p = { result := .badTable, part := p } := by
  simp [tableRead, directory_eq_none ht]

theorem tableRead_access (ht : t < 18) (hs : s ≠ 0) (hr : p.tst.shares.getD t false = false) :
    tableRead s t i j m o p = { result := .access, part := p } := by
  have hcond : (s != 0 && !p.tst.shares.getD t false) = true := by rw [hr]; simpa using hs
  simp only [tableRead, directory_getElem? ht, hcond, if_true]

variable (ht : t < 18) (hs : s = 0 ∨ p.tst.shares.getD t false = true)
include ht hs

/-- A read that the share right lets through, its other checks still to come (R162). -/
theorem tableRead_shared : tableRead s t i j m o p =
    if j < i ∨ directory.getD t 0 ≤ j then { result := .badEntry, part := p }
    else if maskOk t m = false ∨ (o % 4 ≠ 0 ∧ t ≠ 8) then { result := .badValue, part := p }
    else if 52 < (selected m (fieldSizes t)).sum then { result := .badLength, part := p }
    else
      { result := .ok
        body := byte1 (codeOfOption (readEntries t m (o.testBit 0) (o.testBit 1) (indexRange i j) [] p).2.1 255)
          ++ (readEntries t m (o.testBit 0) (o.testBit 1) (indexRange i j) [] p).1
        part := (readEntries t m (o.testBit 0) (o.testBit 1) (indexRange i j) [] p).2.2 } := by
  have hcond : (s != 0 && !p.tst.shares.getD t false) = false := by
    obtain hs | hs := hs
    · simp [hs]
    · rw [hs]
      simp
  simp only [tableRead, directory_getElem? ht, hcond, Bool.false_eq_true, if_false, Bool.or_eq_true, decide_eq_true_eq,
    Bool.and_eq_true, Bool.not_eq_true', bne_iff_ne, ne_eq, tblStations]

end

theorem indexRange_eq (i j : Nat) : indexRange i j = List.range' i (j + 1 - i) := by
  rw [indexRange, List.range'_eq_map_range]

theorem readBytes_eq (p : Part) (t i m : Nat) :
    readBytes p t m i = if p.entryPoisoned t i then [BitVec.ofNat 8 (i + 128)]
      else match entryFields p t i with
        | none => [BitVec.ofNat 8 (i + 64)]
        | some fs => BitVec.ofNat 8 i :: (selected m fs).flatten := by
  unfold readBytes entryBytes
  split
  · rfl
  · cases entryFields p t i <;> rfl

/-- Slots that differ in their marks alone disturb nothing. -/
theorem undisturbed_withStations {p : Part} {ss : List StationSlot} {f : Nat → StationSlot → StationSlot}
    (hf : ∀ i s, (f i s).entry = s.entry) (h : ∀ i : Nat, ss[i]? = (p.tst.stations[i]?).map (f i)) :
    undisturbed p (withStations p ss) = true := by
  have hentry : ss.map StationSlot.entry = p.tst.stations.map StationSlot.entry := by
    apply List.ext_getElem?
    intro i
    rw [List.getElem?_map, List.getElem?_map, h i, Option.map_map]
    exact congrArg (fun g => (p.tst.stations[i]?).map g) (funext (hf i))
  simp [undisturbed, withStations, hentry]

/-- The entries of a read where no memory error stands: those wanted that fit, their marks cleared where the request
asks for it. -/
theorem reading_entries {s t i j m o : Nat} {p : Part} (ht : t < 18) (hs : s = 0 ∨ p.tst.shares.getD t false = true)
    (hij : i ≤ j) (hj : j < directory.getD t 0) (hm0 : m ≠ 0) (hm : m < 2 ^ (fieldSizes t).length)
    (ho : o % 4 = 0 ∨ t = 8) (hsum : (selected m (fieldSizes t)).sum ≤ 52) (hl : p.tst.latent = []) (n : Nat) :
    let wanted := (List.range' i (j + 1 - i)).filter fun i => !o.testBit 0 || (p.tst.stations.getD i {}).mark
    n ≤ wanted.length → ((wanted.take n).flatMap (readBytes p t m)).length ≤ 53 →
    (n < wanted.length → 53 < ((wanted.take (n + 1)).flatMap (readBytes p t m)).length) →
    ∃ ss, reading s t i j m o p = { result := .ok
                                    body := BitVec.ofNat 8 (wanted.getD n 255) :: (wanted.take n).flatMap
                                      (readBytes p t m)
                                    part := withStations p ss }
      ∧ ∀ i : Nat, ss[i]? = (p.tst.stations[i]?).map fun s =>
          if o.testBit 1 = true ∧ i ∈ wanted.take n then { s with mark := false } else s := by
  intro wanted hn h1 h2
  obtain ⟨ss, hread, hss⟩ := readEntries_spec hl t m (o.testBit 0) (o.testBit 1) (List.range' i (j + 1 - i))
    p.tst.stations [] List.nodup_range' (fun _ _ => rfl) n hn
    (by rw [List.length_nil, Nat.zero_add]; exact h1) (fun hlt => by rw [List.length_nil, Nat.zero_add]; exact h2 hlt)
  refine ⟨ss, ?_, hss⟩
  have hstart : withStations p p.tst.stations = p := rfl
  have hbad : ¬(j < i ∨ directory.getD t 0 ≤ j) := by omega
  have hmask : ¬(maskOk t m = false ∨ (o % 4 ≠ 0 ∧ t ≠ 8)) := by
    rw [maskOk_iff.mpr ⟨hm0, hm⟩]
    simp only [Bool.true_eq_false, false_or, not_and, not_not]
    exact fun h => ho.resolve_left h
  rw [hstart] at hread
  have hbody : byte1 (codeOfOption wanted[n]? 255) = [BitVec.ofNat 8 (wanted.getD n 255)] := by
    rw [List.getD_eq_getElem?_getD]
    cases wanted[n]? <;> rfl
  have hset : settleRead p (withStations p ss) = withStations p ss :=
    settleRead_undisturbed (undisturbed_withStations (fun i s => by split <;> rfl) hss)
  simp only [reading, tableRead_shared ht hs, if_neg hbad, if_neg hmask, if_neg (Nat.not_lt.mpr hsum), indexRange_eq,
    hread, List.nil_append, hset]
  exact congrArg (fun b => ({
    result := .ok, body := b ++ (wanted.take n).flatMap (readBytes p t m), part := withStations p ss } : Answer)) hbody

/-- Settles O16: a read returns what `reading_entries` says, or is refused by the cases of `tableRead_shared`. -/
theorem tableReadReturnsTheEntriesOrRefuses : Obligations.TableReadReturnsTheEntriesOrRefuses := by
  refine ⟨?one, ?range, ?refused⟩
  case one =>
    intro h t i m p w htake hl hi hm0 hm hsum hlen
    obtain ⟨hh, hmode, htx, hs, hrep⟩ := takes_iff.mp htake
    have ht : t < 18 := by
      by_contra hc
      rw [List.getD_eq_getElem?_getD, directory_eq_none (by omega)] at hi
      simp at hi
    have hbytes : (readBytes p t m i).length ≤ 53 := by
      unfold readBytes
      cases p.entryPoisoned t i
      · exact hlen
      · simp [entryBytes, byte1]
    have hwanted : ((List.range' i (i + 1 - i)).filter fun i => !(0 : Nat).testBit 0 || (p.tst.stations.getD i {}).mark)
        = [i] := by simp [List.range'_succ]
    have hread := reading_entries (s := 0) (o := 0) (p := p) ht (.inl rfl) (Nat.le_refl i) hi hm0 hm
      (.inl rfl) hsum hl 1
    rw [hwanted] at hread
    obtain ⟨ss, hr, hss⟩ := hread (by simp) (by simpa using hbytes) (by simp)
    have hsame : ss = p.tst.stations := by
      apply List.ext_getElem?
      intro k
      simpa using hss k
    rw [exec_tableRead w hh hmode htx hrep (.inl hs), hs, hr, hsame, replied, if_pos hs]
    simp only [List.take_succ_cons, List.take_zero, List.flatMap_cons, List.flatMap_nil, List.append_nil, readBytes_eq]
    rfl
  case range =>
    intro h t i j m o p w hh hmode htx hrep hs reply run
    have hrun : ∀ a, reading h.source t i j m o p = a → run = reply a.result a.body a.part := by
      intro a ha
      show exec _ _ = _
      rw [exec_tableRead w hh hmode htx hrep hs, ha]
      show Host.Outcome.next _ = Host.Outcome.next _
      unfold replied
      rfl
    have hrefuse : ∀ r, tableRead h.source t i j m o p = { result := r, part := p } → run = reply r [] p := by
      intro r hr
      exact hrun { result := r, part := p } (by rw [reading, hr, settleRead_same])
    refine ⟨fun ht => hrefuse _ (tableRead_badTable ht), fun ht hne hr => hrefuse _ (tableRead_access ht hne hr),
      fun ht hsh => ⟨fun hb => hrefuse _ ?_, ?_⟩⟩
    · rw [tableRead_shared ht hsh, if_pos hb]
    · intro hij hj hm0 hm ho hsum hl wanted entry n hn h1 h2
      have hentry : readBytes p t m = entry := by
        funext k
        exact (readBytes_eq p t k m).trans rfl
      obtain ⟨ss, hr, hss⟩ := reading_entries (p := p) ht hsh hij hj hm0 hm ho hsum hl n hn (by rwa [hentry])
        (by rwa [hentry])
      rw [hentry] at hr
      have hreply := hrun _ hr
      exact ⟨ss, hreply, hss⟩
  case refused =>
    intro h t i j m o p w htake answer run
    obtain ⟨hh, hmode, htx, hs, hrep⟩ := takes_iff.mp htake
    have hrun : ∀ r, tableRead 0 t i j m o p = { result := r, part := p } → run = answer r := by
      intro r hr
      show exec _ _ = _
      rw [exec_tableRead w hh hmode htx hrep (.inl hs), hs, reading, hr, settleRead_same, replied, if_pos hs]
    refine ⟨fun ht => hrun _ (tableRead_badTable ht), fun ht hb => hrun _ ?_, fun ht hij hj hv => hrun _ ?_,
      fun ht hij hj hm0 hm ho hsum => hrun _ ?_⟩
    · rw [tableRead_shared ht (.inl rfl), if_pos hb]
    · have hvalue : maskOk t m = false ∨ (o % 4 ≠ 0 ∧ t ≠ 8) := by
        rw [← Bool.not_eq_true, maskOk_iff]
        omega
      rw [tableRead_shared ht (.inl rfl), if_neg (by omega), if_pos hvalue]
    · have hvalue : ¬(maskOk t m = false ∨ (o % 4 ≠ 0 ∧ t ≠ 8)) := by
        rw [maskOk_iff.mpr ⟨hm0, hm⟩]
        simp only [Bool.true_eq_false, false_or]
        omega
      rw [tableRead_shared ht (.inl rfl), if_neg (by omega), if_neg hvalue, if_pos hsum]

/-! ### TABLE_WRITE -/

/-- An owner that leaves the part as it is, with nothing to keep up, answers and no more. -/
theorem writing_unchanged {t : Nat} {f : Part → Result × Part} {p : Part} {r : Result} (hq : p.quiet = true)
    (h : f p = (r, p)) : writing t f p = { result := r, part := p } := by
  unfold writing settling settled reporting answer
  rw [h]
  split
  · simp only [stmSettle_quiet hq, noteReports_same fun _ => rfl]
  · simp only [noteReports_same fun _ => rfl]

theorem tableWrite_badTable {t i m : Nat} {vs : List Byte} {p : Part} (ht : 18 ≤ t) :
    tableWrite t i m vs p = (.badTable, p) := by
  simp [tableWrite, directory_eq_none ht]

theorem tableWrite_access {t i m : Nat} {vs : List Byte} {p : Part} (h14 : 14 ≤ t) (ht : t < 18) :
    tableWrite t i m vs p = (.access, p) := by
  simp only [tableWrite, directory_getElem? ht, h14, if_true]

section
variable {t i m : Nat} {vs : List Byte} {p : Part} (ht : t < 14)
include ht

theorem tableWrite_badEntry (hi : directory.getD t 0 ≤ i) : tableWrite t i m vs p = (.badEntry, p) := by
  simp only [tableWrite, directory_getElem? (show t < 18 by omega), if_neg (show ¬14 ≤ t by omega), if_pos hi]

variable (hi : i < directory.getD t 0)
include hi

theorem tableWrite_badValue (hm : maskOk t m = false) : tableWrite t i m vs p = (.badValue, p) := by
  simp only [tableWrite, directory_getElem? (show t < 18 by omega), if_neg (show ¬14 ≤ t by omega),
    if_neg (show ¬directory.getD t 0 ≤ i by omega), hm, Bool.not_false, if_true]

variable (hm : maskOk t m = true)
include hm

theorem tableWrite_badLength (hs : splitFields t m (fieldSizes t).zipIdx vs = none) :
    tableWrite t i m vs p = (.badLength, p) := by
  simp only [tableWrite, directory_getElem? (show t < 18 by omega), if_neg (show ¬14 ≤ t by omega),
    if_neg (show ¬directory.getD t 0 ≤ i by omega), hm, Bool.not_true, Bool.false_eq_true, if_false, hs]

/-- The first five checks passed: the fields written are known. -/
theorem tableWrite_split {fs : Fields} (hs : splitFields t m (fieldSizes t).zipIdx vs = some fs) :
    tableWrite t i m vs p = if fullMask t m then takeWrite t i m fs (readReplaced t i p)
      else if t != tblCurves && p.entryPoisoned t i then (.badEntry, p) else mergeWrite t i m fs p := by
  simp only [tableWrite, directory_getElem? (show t < 18 by omega), if_neg (show ¬14 ≤ t by omega),
    if_neg (show ¬directory.getD t 0 ≤ i by omega), hm, Bool.not_true, Bool.false_eq_true, if_false, hs]

end

/-- A bank that may not be written refuses before its entry is read (R41). -/
theorem tableWrite_bankRefusal {bank : BankId} {i m : Nat} {vs : List Byte} {fs : Fields} {p : Part} {r : Result}
    (hi : i < 32) (hm0 : m ≠ 0) (hm : m < 128)
    (hs : splitFields (bankTable bank) m (fieldSizes (bankTable bank)).zipIdx vs = some fs)
    (hp : p.entryPoisoned (bankTable bank) i = false ∨ m = 127) (hr : bankRefusal bank p = some r) (hne : r ≠ .ok) :
    tableWrite (bankTable bank) i m vs p = (r, p) := by
  have ht : bankTable bank < 14 := by cases bank <;> decide
  have hd : i < directory.getD (bankTable bank) 0 := by cases bank <;> exact hi
  have hmask : maskOk (bankTable bank) m = true := by
    cases bank <;> exact maskOk_iff.mpr ⟨hm0, hm⟩
  have howner : ∀ q, q = p → takeWrite (bankTable bank) i m fs q = (r, p) := by
    rintro q rfl
    have hwrite : ownerWrite (bankTable bank) i fs q = (r, q) := by
      have h : ownerWrite (bankTable bank) i fs q = writeRender bank i fs q := by cases bank <;> rfl
      rw [h]
      simp only [writeRender, hr]
    simp only [takeWrite, hwrite, beq_iff_eq, hne, if_false]
  rw [tableWrite_split ht hd hmask hs]
  split
  · exact howner _ (by cases bank <;> rfl)
  · rename_i hfull
    have hclean : p.entryPoisoned (bankTable bank) i = false := by
      refine hp.resolve_right fun h => hfull ?_
      cases bank <;> simp [fullMask, h, bankTable, tblRenderA, tblRenderB, fieldSizes]
    have hbank : bankOf (bankTable bank) = some bank := by cases bank <;> rfl
    rw [hclean, Bool.and_false, if_neg Bool.false_ne_true]
    simp only [mergeWrite, hbank, Option.bind_some, hr]

/-- Settles O17: each refusal is a case of `tableWrite`, and leaves a part with nothing to keep up as it is. -/
theorem tableWriteChecksAndShareRights : Obligations.TableWriteChecksAndShareRights := by
  refine ⟨fun h t i m vs p w htake hq h1 h2 => ?_, fun h t right p w htake => ?_⟩
  · intro answer run
    have hrun : ∀ r, tableWrite t i m vs p = (r, p) → run = answer r := by
      intro r hr
      show exec _ _ = _
      rw [write_taken htake h1 h2, writing_unchanged hq hr]
    refine ⟨fun ht => hrun _ (tableWrite_badTable ht), fun h14 ht => hrun _ (tableWrite_access h14 ht),
      fun ht hi => hrun _ (tableWrite_badEntry ht hi), fun ht hi hm => hrun _ (tableWrite_badValue ht hi ?_),
      fun ht hi hm0 hm hs => hrun _ (tableWrite_badLength ht hi (maskOk_iff.mpr ⟨hm0, hm⟩) hs),
      fun ht h4 hi hm0 hm hs hp => hrun _ ?_, fun bank hbank hi hm0 hm hs hp => ?_⟩
    · rw [← Bool.not_eq_true, maskOk_iff]
      omega
    · obtain ⟨fs, hfs⟩ := Option.ne_none_iff_exists'.mp hs
      have hfull : fullMask t m = false := by
        simp only [fullMask, beq_eq_false_iff_ne]
        omega
      have h4' : (t != tblCurves) = true := by simpa [tblCurves] using h4
      rw [tableWrite_split ht hi (maskOk_iff.mpr ⟨hm0, by omega⟩) hfs, hfull, hp, h4']
      rfl
    · subst hbank
      obtain ⟨fs, hfs⟩ := Option.ne_none_iff_exists'.mp hs
      refine ⟨fun hx => hrun _ (tableWrite_bankRefusal hi hm0 hm hfs hp ?_ (by decide)),
        fun hx ha => hrun _ (tableWrite_bankRefusal hi hm0 hm hfs hp ?_ (by decide))⟩
      · simp [bankRefusal, Option.isSome_iff_ne_none.mpr hx]
      · simp [bankRefusal, hx, ha]
  · have hexec : exec (.tableShare h t right) ⟨p, w⟩
        = .next ⟨answered 0x13 h (tableShare t right p).1 [] (tableShare t right p).2, w⟩ :=
      congrArg (fun q => Host.Outcome.next (⟨q, w⟩ : State)) (ringRequest_taken htake (by decide))
    rw [hexec]
    match right with
    | 0 | 1 =>
      simp only [tableShare, boolOf]
      split <;> simp
    | n + 2 => simp [tableShare, boolOf]

end Sys2Proof.Machine
end

section
/-! PROOFS. The statement on writes (O18) does not hold as written: its clause on ADMISSION takes every part whose entry
gives no poisoned reading (`Part.admissionPoisoned`), while TABLE_WRITE refuses an entry any part of which stands among
the poisoned units (R164's check 6). An ADMISSION entry is one unit, its part 0 (section 10.2); a part whose poisoned
units name another part of it, which no scrubbing leaves, tells the two apart. -/

namespace Sys2Proof.Machine

/-- A part among whose poisoned units stands a part 1 of the right seat's ADMISSION entry. -/
def admissionOddlyPoisoned : Part :=
  { rif := { address := 1, joined := true }
    tst := { poisoned := [⟨13, 0, 1⟩] } }

/-- The part behind a write of the maximum step 7 to the left seat. -/
def oddlyPoisonedWritten : Part :=
  ringRequest 0x11 5 ⟨0, 0⟩ false (writing 13 (tableWrite 13 0 2 (byte1 7))) admissionOddlyPoisoned

/-- The write is refused, so that the maximum step stays at its power-on value. -/
theorem oddlyPoisonedWritten_maxStep : (oddlyPoisonedWritten.tst.admission.get .left).maxStep = 40 := by decide +kernel

/-- Refutes O18: the write of the maximum step 7 to the left seat of `admissionOddlyPoisoned`. It is refused with
BAD_ENTRY, and the maximum step is not 7 behind it. -/
theorem not_writtenTablesTakeEffect : ¬ Obligations.WrittenTablesTakeEffect := by
  unfold Obligations.WrittenTablesTakeEffect
  rintro ⟨-, -, -, -, hadmission⟩
  obtain ⟨q, hq, htst, -⟩ := (hadmission ⟨0, 0⟩ .left 7 admissionOddlyPoisoned [] (by decide +kernel) rfl
    (by decide +kernel) (by decide)).1 (by decide)
  have hpart : oddlyPoisonedWritten = answered 0x11 ⟨0, 0⟩ .ok [] q := congrArg State.part (Host.Outcome.next.inj hq)
  have hstep := oddlyPoisonedWritten_maxStep
  rw [hpart, show (answered 0x11 ⟨0, 0⟩ .ok [] q).tst = q.tst from rfl, htst] at hstep
  exact absurd hstep (by decide)

end Sys2Proof.Machine
end

section
/-! PROOFS. TABLE_CLEAR (O19). -/

namespace Sys2Proof.Machine

/-! ### Checks that meet no error -/

/-- A check of a unit in which no error stands does nothing. -/
theorem checkWith_missed {p : Part} {u : MemUnit} (tell : Part → Part) (h : ∀ x ∈ p.tst.latent, x.unit ≠ u) :
    checkWith tell u p = p := by
  have hnone : p.tst.latent.find? (fun x => x.unit == u && p.meets x) = none := by
    rw [List.find?_eq_none]
    intro x hx
    simp [h x hx]
  simp only [checkWith, hnone]

/-- The uplink code is made anew without an error met where none stands in CALL_CFG. -/
theorem setUplink_missed {p : Part} (h : ∀ x ∈ p.tst.latent, x.unit.table ≠ tblCall) :
    setUplink p = recodeUplink p := by
  have hcheck : checkEntry tblCall 0 p = p :=
    checkWith_missed _ fun x hx hu => h x hx (by rw [hu])
  simp [setUplink, hcheck]

/-- What a clear leaves of its table's errors and poisonings: none. -/
theorem mem_cleanTable {t : Nat} {p : Part} :
    (∀ u ∈ (cleanTable t p).tst.poisoned, u.table ≠ t) ∧ ∀ x ∈ (cleanTable t p).tst.latent, x.unit.table ≠ t := by
  constructor <;> intro u hu
  · have := (List.mem_filter.mp hu).2
    simpa using this
  · have := (List.mem_filter.mp hu).2
    simpa using this

/-! ### The Station Manager beside a clear -/

/-- A part in which the Station Manager keeps nothing up, part by part. -/
theorem quiet_iff {p : Part} : p.quiet = true ↔ p.stm.bulletin.latch ≠ .prompted ∧ p.stm.watch = none
    ∧ p.stm.watchState = .inactive ∧ p.holding .watch = none ∧ p.holding .background = none
    ∧ p.radioCfg.background = false ∧ ∀ t, (p.follow t).lowTimer = false := by
  have hall : (∀ t, (p.follow t).lowTimer = false) ↔ (p.follow .a).lowTimer = false ∧ (p.follow .b).lowTimer = false :=
    ⟨fun h => ⟨h .a, h .b⟩, fun ⟨ha, hb⟩ t => by cases t <;> assumption⟩
  simp [Part.quiet, Part.calm, hall, and_assoc]

/-- A claim that stands nowhere stands nowhere among fewer claims. -/
theorem holding_none_of_filter {p q : Part} {w : Claimant} (h : p.holding w = none)
    (hc : ∀ u, ∃ f : Claim → Bool, (q.tuner u).claims = (p.tuner u).claims.filter f) : q.holding w = none := by
  simp only [Part.holding, List.find?_eq_none] at h ⊢
  intro u hu hq
  refine h u hu ?_
  obtain ⟨f, hf⟩ := hc u
  simp only [hf, List.any_filter, List.any_eq_true] at hq ⊢
  obtain ⟨c, hc, hw⟩ := hq
  exact ⟨c, hc, (Bool.and_eq_true _ _ ▸ hw).2⟩

/-- With cycling enabled but no bus address held, no claim is asked for. -/
theorem stmSettle_unaddressed {before p : Part} (hl : p.stm.bulletin.latch ≠ .prompted) (hw : p.stm.watch = none)
    (hs : p.stm.watchState = .inactive) (h1 : p.holding .watch = none) (h2 : p.holding .background = none)
    (ha : ∀ t, p.hasAddress t = false) (ht : ∀ t, (p.follow t).lowTimer = false)
    (hm : ∀ x ∈ p.tst.latent, x.unit.table ≠ tblRadio) : stmSettle before p = p := by
  have hread : readKept p = p := by
    have hplain : checkPlain ⟨tblRadio, 0, 0⟩ p = p := checkWith_missed _ fun x hx hu => hm x hx (by rw [hu])
    unfold readKept
    split
    · rfl
    · simp [hplain, ht]
  have hcond : watchCondition p = .inactive := by simp [watchCondition, hw]
  have hbackground : keepBackground p = p := by
    simp only [keepBackground, h2, TunerId.all, Part.idleFree, ha, Bool.and_false, List.find?_cons, List.find?_nil,
      ite_self]
  have hwatch (ask : Bool) : keepWatch ask p = p := by
    have hjudge : judgeWatch p = p := by
      have hp : ({ p with stm := { p.stm with watchState := .inactive } } : Part) = p := by rw [← hs]
      simp only [judgeWatch, hcond, hs]
      exact hp
    have hdrop : dropWatch p = p := by simp [dropWatch, h1]
    have hread : readWatched p = p := by simp [readWatched, hw]
    have hu : (WatchState.inactive == WatchState.uncovered) = false := rfl
    simp only [keepWatch, hread, hdrop, hjudge, hs, hu, Bool.false_and, Bool.false_eq_true, if_false]
  have hclaims (ask : Bool) : keepClaims ask p = p := by
    simp [keepClaims, keepRounds, hwatch, hbackground, undisturbed, becameIdle_self]
  simp [stmSettle, hread, hl, hclaims, stopTimer_idle, ht]

/-! ### TABLE_CLEAR -/

theorem exec_tableClear {h : ReqHeader} {t : Nat} {p : Part} (w : List Instr) (ht : p.takes 0x12 h = true) :
    exec (.tableClear h t) ⟨p, w⟩ = .next ⟨answered 0x12 h (writing t (tableClear t) p).result
      (writing t (tableClear t) p).body (writing t (tableClear t) p).part, w⟩ :=
  congrArg (fun q => Host.Outcome.next (⟨q, w⟩ : State)) (ringRequest_taken ht (by decide))

theorem exec_tableClear_refused {h : ReqHeader} {t : Nat} {p : Part} {r : Result} (w : List Instr)
    (ht : p.takes 0x12 h = true) (hq : p.quiet = true) (hr : tableClear t p = (r, p)) :
    exec (.tableClear h t) ⟨p, w⟩ = .next ⟨answered 0x12 h r [] p, w⟩ := by
  rw [exec_tableClear w ht, writing_unchanged hq hr]

theorem tableClear_ok {t : Nat} {p q : Part} (ht : t < 14) (h : clearContents t p = (.ok, q)) :
    tableClear t p = (.ok, afterWrite t (cleanTable t q)) := by
  simp [tableClear, show ¬18 ≤ t by omega, show ¬14 ≤ t by omega, h]

theorem tableClear_refused {t : Nat} {p : Part} {r : Result} (ht : t < 14) (hr : r ≠ .ok)
    (h : clearContents t p = (r, p)) : tableClear t p = (r, p) := by
  simp [tableClear, show ¬18 ≤ t by omega, show ¬14 ≤ t by omega, h, hr]

theorem afterWrite_cleaned {t : Nat} (q : Part) :
    ∃ c, afterWrite t (cleanTable t q) = { cleanTable t q with clp := { q.clp with uplinkCode := c } } := by
  unfold afterWrite
  split
  · rename_i ht
    obtain rfl : t = tblCall := beq_iff_eq.mp ht
    rw [setUplink_missed mem_cleanTable.2]
    exact ⟨_, rfl⟩
  · exact ⟨q.clp.uplinkCode, rfl⟩

/-- What is noted for the rear panels leaves the copies of the maximum volumes. -/
theorem noteReports_maxCopy (p q : Part) : (noteReports p q).rlu.maxCopy = q.rlu.maxCopy := by
  unfold noteReports Part.queueReport
  dsimp only
  split <;> split <;> rfl

/-- A clear that is taken: the contents, cleaned, with the reports it queues; where the Station Manager is told of it,
that has nothing to bring up to date. -/
theorem exec_tableClear_ok {h : ReqHeader} {t : Nat} {p q : Part} (w : List Instr) (ht : p.takes 0x12 h = true)
    (h14 : t < 14) (hc : clearContents t p = (.ok, q))
    (hs : t = tblStations ∨ t = tblRadio → stmSettle p (cleanTable t q) = cleanTable t q) :
    ∃ q', exec (.tableClear h t) ⟨p, w⟩ = .next ⟨answered 0x12 h .ok [] q', w⟩
      ∧ q'.tst = (cleanTable t q).tst ∧ q'.zmx = q.zmx ∧ q'.clp.seats = q.clp.seats
      ∧ q'.rlu.maxCopy = q.rlu.maxCopy := by
  obtain ⟨c, hafter⟩ := afterWrite_cleaned (t := t) q
  have hwriting : writing t (tableClear t) p
      = { result := .ok, part := noteReports p (afterWrite t (cleanTable t q)) } := by
    unfold writing
    split
    · rename_i hstm
      have hstm : t = tblStations ∨ t = tblRadio := by simpa using hstm
      have hsame : afterWrite t (cleanTable t q) = cleanTable t q := by rcases hstm with rfl | rfl <;> rfl
      simp only [settling, settled, answer, tableClear_ok h14 hc, hsame, hs hstm]
    · simp only [reporting, answer, tableClear_ok h14 hc]
  rw [exec_tableClear w ht, hwriting]
  refine ⟨_, rfl, ?_, ?_, ?_, ?_⟩
  · simp [hafter]
  · simp only [hafter, noteReports_frame]
    rfl
  · simp [hafter]
  · rw [noteReports_maxCopy, hafter]
    rfl

/-! ### The contents of a cleared table -/

/-- A part holds a table's power-on contents, with what else a clear resets. -/
def HoldsPowerOn (table : Nat) (q : Part) : Prop :=
  (table = 0 → q.tst.ingress = List.replicate 24 none) ∧ (table = 1 → q.tst.egress = List.replicate 33 none)
    ∧ (table = 2 → q.tst.sources = List.replicate 6 ⟨none, none, 0⟩)
    ∧ (table = 3 → ∀ z, q.tst.zones.get z = ZoneCfg.powerOn z)
    ∧ (table = 4 → q.tst.curves = List.replicate 2 Curve.powerOn)
    ∧ (table = 5 → q.tst.ducks = List.replicate 7 (.of fun _ => 0))
    ∧ (∀ bank, table = bankTable bank → q.bank bank = List.replicate 32 {})
    ∧ (table = 8 → q.tst.stations = List.replicate 48 {} ∧ ∀ z, (q.zone z).station = none)
    ∧ (table = 9 → q.tst.radio = {})
    ∧ (table = 10 → q.tst.chimes = List.replicate 16 {})
    ∧ (table = 11 → ∀ k, q.tst.seats.get k = SeatCfg.powerOn k ∧ (q.seat k).meterOpen = false)
    ∧ (table = 12 → q.tst.call = {})
    ∧ (table = 13 → ∀ r, q.tst.admission.get r = {} ∧ q.rlu.maxCopy.get r = 40)

/-- The contents stand in the tables, the zones, the seats and the copied maxima, and cleaning leaves them. -/
theorem HoldsPowerOn.cleaned {t : Nat} {q q' : Part} (h : HoldsPowerOn t q) (htst : q'.tst = (cleanTable t q).tst)
    (hzmx : q'.zmx = q.zmx) (hseats : q'.clp.seats = q.clp.seats) (hmax : q'.rlu.maxCopy = q.rlu.maxCopy) :
    HoldsPowerOn t q' := by
  unfold HoldsPowerOn Part.zone Part.seat Part.bank at h ⊢
  rw [htst, hzmx, hseats, hmax]
  exact h

theorem forall_bank {P : BankId → Prop} : (∀ bank, P bank) ↔ P .a ∧ P .b :=
  ⟨fun h => ⟨h .a, h .b⟩, fun ⟨ha, hb⟩ bank => by cases bank <;> assumption⟩

/-- A cleared bank, where it may be cleared. -/
theorem clearRender_holds {bank : BankId} {p q : Part} (hc : clearRender bank p = (.ok, q)) :
    q.bank bank = List.replicate 32 {} := by
  unfold clearRender bankRefusal at hc
  split at hc
  · rename_i hr
    obtain ⟨rfl, -⟩ := Prod.mk.inj hc
    split at hr
    · cases hr
    · split at hr <;> cases hr
  · obtain rfl := (Prod.mk.inj hc).2
    cases bank <;> rfl

theorem takeMaximum_maxCopy (r : RearSeat) (p : Part) :
    (takeMaximum r p).rlu.maxCopy = p.rlu.maxCopy.set r (p.tst.admission.get r).maxStep := by
  unfold takeMaximum
  dsimp only
  split <;> rfl

/-- A taken clear gives a table of whose contents no claim and no zone is made its power-on contents. -/
theorem clearContents_holds {t : Nat} {p q : Part} (ht : t < 14) (h8 : t ≠ 8) (h9 : t ≠ 9)
    (hc : clearContents t p = (.ok, q)) : HoldsPowerOn t q := by
  unfold HoldsPowerOn
  simp only [forall_bank, bankTable]
  match t, ht, h8, h9 with
  | 0, _, _, _ | 1, _, _, _ | 2, _, _, _ | 4, _, _, _ | 5, _, _, _ | 10, _, _, _ | 12, _, _, _ =>
    obtain rfl := (Prod.mk.inj hc).2
    simp
  | 3, _, _, _ =>
    obtain rfl := (Prod.mk.inj hc).2
    have hzones (z : ZoneId) : (({} : Store).zones).get z = ZoneCfg.powerOn z := by cases z <;> rfl
    simp [hzones]
  | 6, _, _, _ =>
    have hbank : q.bank .a = _ := clearRender_holds hc
    simp [hbank]
  | 7, _, _, _ =>
    have hbank : q.bank .b = _ := clearRender_holds hc
    simp [hbank]
  | 11, _, _, _ =>
    obtain rfl := (Prod.mk.inj hc).2
    have hseats (k : Seat) : ({} : Store).seats.get k = SeatCfg.powerOn k := by cases k <;> rfl
    have hmeters (k : Seat) (r : Part) : ((Seat.all.foldl (fun q k => restartMeter k q) r).seat k).meterOpen
      = false := by
      cases k <;> rfl
    simp [hmeters]
  | 13, _, _, _ =>
    obtain rfl := (Prod.mk.inj hc).2
    simp only [takeMaximum_frame, takeMaximum_maxCopy]
    simp
    intro r
    cases r <;> exact ⟨rfl, rfl⟩

/-- What cleared STATIONS leave: no zone names an entry, the watch is none, and no claim is added. -/
theorem clearStations_leaves {p : Part} (hq : p.quiet = true) : (cleanTable tblStations (clearStations p)).quiet = true
    ∧ (clearStations p).tst.stations = List.replicate 48 {} ∧ ∀ z, ((clearStations p).zone z).station = none := by
  obtain ⟨hl, -, -, hwatch, hbackground, hcycle, htimer⟩ := quiet_iff.mp hq
  obtain ⟨tu, f, e, hclaims, hfollow⟩ := giveUp_only .watch
    { p with tst := { p.tst with stations := List.replicate 48 {} }
             zmx := { p.zmx with zones := .of fun z => { p.zone z with station := none } }
             stm := { p.stm with bulletin := { p.stm.bulletin with station := none }, watch := none
                                 watchState := .inactive } }
  have hall : clearStations p = { p with
      tst := { p.tst with stations := List.replicate 48 {} }
      zmx := { p.zmx with zones := .of fun z => { p.zone z with station := none } }
      tuc := tu
      stm := { p.stm with bulletin := { p.stm.bulletin with station := none }, watch := none
                          watchState := .inactive, follow := f } } := e
  rw [hall]
  refine ⟨quiet_iff.mpr ⟨hl, rfl, rfl, ?_, ?_, ?_, fun t => ?_⟩, rfl, fun z => by cases z <;> rfl⟩
  · exact holding_none_of_filter hwatch fun u => ⟨_, (hclaims u).1⟩
  · exact holding_none_of_filter hbackground fun u => ⟨_, (hclaims u).1⟩
  · rw [← hcycle]
    simp [Part.radioCfg, Part.unitPoisoned, cleanTable]
  · rcases hfollow t with hsame | hoff
    · exact (congrArg Follow.lowTimer hsame).trans (htimer t)
    · exact hoff

/-- Of cleared RADIO_CFG no tuner has a bus address, and no claim is added. -/
theorem clearRadio_leaves {p : Part} (hq : p.quiet = true)
    (hidle : ∀ t, p.hasAddress t = true → (p.tuner t).state = .idle) :
    ∃ q, clearRadio p = (.ok, q) ∧ q.tst.radio = {} ∧ stmSettle p (cleanTable tblRadio q) = cleanTable tblRadio q := by
  obtain ⟨hl, hw, hs, hwatch, hbackground, -, htimer⟩ := quiet_iff.mp hq
  have haddress : ∀ t, p.hasAddress t = (p.tst.radio.addresses.get t).isSome := by
    intro t
    unfold Part.hasAddress Part.radioCfg
    split <;> rfl
  have hbusy : addressBusy p ⟨none, none⟩ = false := by
    have hone (t : TunerId) : (PerTuner.get ⟨none, none⟩ t != p.tst.radio.addresses.get t
        && (p.tuner t).state != .idle) = false := by
      cases ha : p.tst.radio.addresses.get t with
      | none => cases t <;> rfl
      | some n =>
        have hi := hidle t (by rw [haddress, ha]; rfl)
        simp [hi]
    simp [addressBusy, TunerId.all, hone]
  obtain ⟨tu, e, hkeep, -⟩ := readdress_only p.tst.radio.addresses
    { keepScoring p with tst := { p.tst with radio := {} } } .a
  obtain ⟨tv, e', hkeep', -⟩ := readdress_only p.tst.radio.addresses
    { keepScoring p with tst := { p.tst with radio := {} }, tuc := tu } .b
  have hall : clearRadio p = (.ok, { p with tst := { p.tst with radio := {} }, tuc := tv }) := by
    simp only [clearRadio, hbusy, Bool.false_eq_true, if_false]
    refine congrArg (Prod.mk Result.ok) ?_
    exact (congrArg (fun q => readdress p.tst.radio.addresses q .b) e).trans e'
  have hclaims (u : TunerId) : (tv.tuners.get u).claims = (p.tuner u).claims.filter fun _ => true := by
    rw [(hkeep' u).1, List.filter_true]
    refine (hkeep u).1.trans ?_
    cases u <;> rfl
  refine ⟨_, hall, rfl, stmSettle_unaddressed hl hw hs ?_ ?_ (fun t => ?_) htimer mem_cleanTable.2⟩
  · exact holding_none_of_filter hwatch fun u => ⟨_, hclaims u⟩
  · exact holding_none_of_filter hbackground fun u => ⟨_, hclaims u⟩
  · have hclean : Part.unitPoisoned (cleanTable tblRadio { p with tst := { p.tst with radio := {} }, tuc := tv })
        tblRadio 0 0 = false := by
      simp [Part.unitPoisoned, cleanTable]
    rw [Part.hasAddress, Part.radioCfg, hclean]
    cases t <;> rfl

/-- A taken clear of a table of whose contents no claim and no zone is made. -/
theorem tableClear_plain {h : ReqHeader} {t : Nat} {p q : Part} (w : List Instr) (ht : p.takes 0x12 h = true)
    (h14 : t < 14) (h8 : t ≠ 8) (h9 : t ≠ 9) (hc : clearContents t p = (.ok, q)) :
    ∃ q', exec (.tableClear h t) ⟨p, w⟩ = .next ⟨answered 0x12 h .ok [] q', w⟩
      ∧ (∀ u ∈ q'.tst.poisoned, u.table ≠ t) ∧ HoldsPowerOn t q' := by
  obtain ⟨q', hexec, htst, hzmx, hseats, hmax⟩ :=
    exec_tableClear_ok w ht h14 hc fun hstm => (hstm.elim h8 h9).elim
  exact ⟨q', hexec, htst ▸ mem_cleanTable.1, (clearContents_holds h14 h8 h9 hc).cleaned htst hzmx hseats hmax⟩

/-- A clear that is taken, table by table. -/
theorem tableClear_taken {h : ReqHeader} {t : Nat} {p : Part} (w : List Instr) (ht : p.takes 0x12 h = true)
    (hq : p.quiet = true) (h14 : t < 14) (hidle : ∀ u, t = 9 → p.hasAddress u = true → (p.tuner u).state = .idle)
    (hbank : ∀ bank, t = bankTable bank → p.rmx.crossfade = none ∧ p.rmx.active ≠ bank) :
    ∃ q', exec (.tableClear h t) ⟨p, w⟩ = .next ⟨answered 0x12 h .ok [] q', w⟩
      ∧ (∀ u ∈ q'.tst.poisoned, u.table ≠ t) ∧ HoldsPowerOn t q' := by
  by_cases h8 : t = 8
  · subst h8
    obtain ⟨hquiet, hstations, hzones⟩ := clearStations_leaves hq
    obtain ⟨q', hexec, htst, hzmx, hseats, hmax⟩ := exec_tableClear_ok w ht h14 rfl fun _ => stmSettle_quiet hquiet
    refine ⟨q', hexec, htst ▸ mem_cleanTable.1, HoldsPowerOn.cleaned ?_ htst hzmx hseats hmax⟩
    unfold HoldsPowerOn
    simp [forall_bank, bankTable, hstations, hzones]
  by_cases h9 : t = 9
  · subst h9
    obtain ⟨q, hc, hradio, hsettle⟩ := clearRadio_leaves hq fun u => hidle u rfl
    obtain ⟨q', hexec, htst, hzmx, hseats, hmax⟩ := exec_tableClear_ok w ht h14 hc fun _ => hsettle
    refine ⟨q', hexec, htst ▸ mem_cleanTable.1, HoldsPowerOn.cleaned ?_ htst hzmx hseats hmax⟩
    unfold HoldsPowerOn
    simp [forall_bank, bankTable, hradio]
  have hplain {q : Part} (hc : clearContents t p = (.ok, q)) := tableClear_plain w ht h14 h8 h9 hc
  match t, h14, h8, h9 with
  | 0, _, _, _ | 1, _, _, _ | 2, _, _, _ | 3, _, _, _ | 4, _, _, _ | 5, _, _, _ | 10, _, _, _ | 11, _, _, _
  | 12, _, _, _ | 13, _, _, _ => exact hplain rfl
  | 6, _, _, _ =>
    obtain ⟨hx, ha⟩ := hbank .a rfl
    exact hplain (by simp [clearContents, clearRender, bankRefusal, hx, ha]; rfl)
  | 7, _, _, _ =>
    obtain ⟨hx, ha⟩ := hbank .b rfl
    exact hplain (by simp [clearContents, clearRender, bankRefusal, hx, ha]; rfl)

/-- A bank that may not be cleared. -/
theorem tableClear_bankRefused {bank : BankId} {p : Part} {r : Result} (hr : bankRefusal bank p = some r)
    (hne : r ≠ .ok) :
    tableClear (bankTable bank) p = (r, p) := by
  have hclear : clearContents (bankTable bank) p = clearRender bank p := by cases bank <;> rfl
  refine tableClear_refused (by cases bank <;> decide) hne ?_
  rw [hclear]
  simp only [clearRender, hr]

/-- Settles O19: the refusals leave the part as it is; a taken clear goes table by table. -/
theorem tableClearRestoresPowerOnContents : Obligations.TableClearRestoresPowerOnContents := by
  intro h t p w ht hq
  have hrefused {r : Result} (hr : tableClear t p = (r, p)) := exec_tableClear_refused w ht hq hr
  refine ⟨fun h18 => hrefused ?_, fun h14 h18 => hrefused ?_, ?_, ?_, ?_, fun h14 hidle hbank => ?_⟩
  · simp [tableClear, h18]
  · simp [tableClear, h14, show ¬18 ≤ t by omega]
  · rintro bank rfl hx
    exact hrefused (tableClear_bankRefused (by simp [bankRefusal, Option.isSome_iff_ne_none.mpr hx]) (by decide))
  · rintro bank rfl hx ha
    exact hrefused (tableClear_bankRefused (by simp [bankRefusal, hx, ha]) (by decide))
  · rintro u rfl ha hs
    have hbusy : addressBusy p ⟨none, none⟩ = true := by
      have hsome : (p.tst.radio.addresses.get u).isSome = true := by
        rw [← ha]
        unfold Part.hasAddress Part.radioCfg
        split <;> rfl
      have hne : (PerTuner.get ⟨none, none⟩ u != p.tst.radio.addresses.get u) = true := by
        rw [bne_iff_ne]
        intro heq
        rw [← heq] at hsome
        cases u <;> cases hsome
      cases u <;> simp [addressBusy, TunerId.all, hne, hs]
    exact hrefused (tableClear_refused (by decide) (by decide) (by simp [clearContents, clearRadio, hbusy]))
  · exact tableClear_taken w ht hq h14 hidle hbank

end Sys2Proof.Machine
end

section
/-! PROOFS. The render banks: their writes, the exchange (O20) and the render block (O21). -/

namespace Sys2Proof.Machine

/-! ### Validation -/

/-- A check of an entry in no unit of which an error stands does nothing. -/
theorem checkEntry_missed {p : Part} {t i : Nat} (h : ∀ x ∈ p.tst.latent, x.unit.table = t → x.unit.entry ≠ i) :
    checkEntry t i p = p := by
  unfold checkEntry
  generalize partsOf t = l
  induction l with
  | nil => rfl
  | cons k l ih =>
    have hone : checkUnit ⟨t, i, k⟩ p = p :=
      checkWith_missed _ fun x hx hu => h x hx (by rw [hu]) (by rw [hu])
    rw [List.foldl_cons, hone, ih]

/-- The validation goes on to the first entry that fails, with no error met up to there. -/
theorem validateFrom_first {bank : BankId} {p : Part} {i : Nat} (hi : i < (p.bank bank).length)
    (hfails : entryFails p bank i ((p.bank bank).getD i {}) = true)
    (hpass : ∀ j < i, entryFails p bank j ((p.bank bank).getD j {}) = false)
    (hlatent : ∀ x ∈ p.tst.latent, x.unit.table = bankTable bank → i < x.unit.entry) :
    validateFrom bank (List.range (p.bank bank).length) p = (some i, p) := by
  have hcheck (j : Nat) (hj : j ≤ i) : checkEntry (bankTable bank) j p = p :=
    checkEntry_missed fun x hx ht he => by have := hlatent x hx ht; omega
  have hfrom (n : Nat) : ∀ k, k ≤ i → i < k + n → validateFrom bank (List.range' k n) p = (some i, p) := by
    induction n with
    | zero => intro k h1 h2; omega
    | succ n ih =>
      intro k h1 h2
      simp only [List.range'_succ, validateFrom, hcheck k h1]
      by_cases hk : k = i
      · rw [hk, if_pos hfails]
      · rw [hpass k (by omega), if_neg Bool.false_ne_true]
        exact ih (k + 1) (by omega) (by omega)
  rw [List.range_eq_range']
  exact hfrom _ 0 (by omega) (by omega)

/-! ### The path signature -/

theorem changeContext_seat (k j : Seat) (f : SeatRt → SeatRt) (p : Part) :
    (changeContext k f p).seat j = if j = k then f (p.seat k) else p.seat j := by
  rw [changeContext_only]
  show (p.setSeat k (f (p.seat k))).seat j = _
  split
  · subst_vars
    simp
  · simp [*]

/-- A context that runs is cleared into TRAINING (R145). -/
def retrain (sig : Signature) (q : Part) (k : Seat) : Part :=
  if (q.seat k).context == .reset then q else changeContext k (SeatRt.trained sig) q

theorem retrain_tst (sig : Signature) (q : Part) (k : Seat) : (retrain sig q k).tst = q.tst := by
  unfold retrain
  split <;> simp

theorem retrain_context (sig : Signature) (q : Part) (k j : Seat) : ((retrain sig q k).seat j).context
    = if j = k ∧ (q.seat k).context ≠ .reset then .training else (q.seat j).context := by
  unfold retrain
  by_cases hreset : (q.seat k).context = .reset
  · simp [hreset]
  · rw [if_neg (by simpa using hreset), changeContext_seat]
    by_cases hjk : j = k
    · rw [if_pos hjk, if_pos ⟨hjk, hreset⟩]
      rfl
    · rw [if_neg hjk, if_neg fun h => hjk h.1]

/-- With a new path signature every context that runs is in TRAINING (R145). -/
theorem setSignature_contexts {sig : Signature} {p : Part} (hl : p.tst.latent = []) (hne : p.clp.sig ≠ sig) (k : Seat) :
    ((setSignature sig p).seat k).context = if (p.seat k).context = .reset then .reset else .training := by
  obtain ⟨q, hq⟩ : ∃ q, q = Seat.all.foldl (retrain sig) { p with clp := { p.clp with sig := sig } } := ⟨_, rfl⟩
  have hall : setSignature sig p = setUplink q := by
    simp only [setSignature, if_neg hne, hq]
    rfl
  have hlatent : q.tst.latent = [] := by
    rw [hq]
    simp only [Seat.all, List.foldl_cons, List.foldl_nil, retrain_tst, hl]
  rw [hall, setUplink_clean hlatent]
  show (q.seat k).context = _
  rw [hq]
  simp only [Seat.all, List.foldl_cons, List.foldl_nil, retrain_context]
  have hseat : Part.seat { p with clp := { p.clp with sig := sig } } = p.seat := rfl
  rw [hseat]
  cases k <;> simp <;> split <;> simp_all

/-! ### The exchange of the banks -/

theorem exec_bankSwap {h : ReqHeader} {p : Part} (w : List Instr) (ht : p.takes 0x14 h = true) :
    exec (.bankSwap h) ⟨p, w⟩
      = .next ⟨answered 0x14 h (bankSwapAnswer p).result (bankSwapAnswer p).body (bankSwapAnswer p).part, w⟩ :=
  congrArg (fun q => Host.Outcome.next (⟨q, w⟩ : State)) (ringRequest_taken ht (by decide))

theorem bankSwap_busy {p : Part} (h : p.rmx.crossfade ≠ none) : bankSwap p = (.busy, none, p) := by
  rw [bankSwap, if_pos (Option.isSome_iff_ne_none.mpr h)]

/-- The exchange refused for an entry of the bank it would make the active one. -/
theorem bankSwap_badBank {p : Part} {i : Nat} (h : p.rmx.crossfade = none)
    (hv : validateFrom p.rmx.active.other (List.range (p.bank p.rmx.active.other).length) p = (some i, p)) :
    bankSwap p = (.badBank, some i, p) := by
  rw [bankSwap, h]
  simp only [hv, Option.isSome_none, Bool.false_eq_true, if_false]

/-- The exchange made. -/
theorem bankSwap_ok {p : Part} (h : p.rmx.crossfade = none)
    (hv : validateFrom p.rmx.active.other (List.range (p.bank p.rmx.active.other).length) p = (none, p)) :
    bankSwap p = (.ok, some (bankCode p.rmx.active.other), setSignature { p.clp.sig with bank := p.rmx.active.other }
      { p with rmx := { p.rmx with active := p.rmx.active.other, crossfade := some 0 } }) := by
  rw [bankSwap, h]
  simp only [hv, Option.isSome_none, Bool.false_eq_true, if_false]

/-! ### Writes of a bank -/

/-- The numbers of a contribution field (Table 3.1). -/
theorem contribution_values {z side tc tp : Nat} (rest : List Byte) (hz : z < 256) (hside : side < 256)
    (htc : tc < 65536) (htp : tp < 65536) :
    let bs := byte1 z ++ byte1 side ++ byte2 tc ++ byte2 tp ++ rest
    valueAt bs 0 1 = z ∧ valueAt bs 1 1 = side ∧ valueAt bs 2 2 = tc ∧ valueAt bs 4 2 = tp := by
  refine ⟨?_, ?_, ?_, ?_⟩ <;> simp [valueAt, valueOf, byte1, byte2, List.range_succ] <;> omega

/-- A written contribution: its zone and side, its two trims, and two bytes that are not read (Table 3.1). -/
theorem writtenContribution_bytes {fs : Fields} {n z side tc tp : Nat} {rest : List Byte} (c : Contribution)
    (h : fs.getD n none = some (byte1 z ++ byte1 side ++ byte2 tc ++ byte2 tp ++ rest)) (hz : z < 256)
    (hside : side < 256) (htc : tc < 65536) (htp : tp < 65536) : writtenContribution fs n c =
      (sideOf side).bind fun s => if z ≤ 7 ∧ tc ≤ 384 ∧ tp ≤ 384 then
        some { zone := z, side := s, trimClosed := tc, trimOpen := tp } else none := by
  obtain ⟨h1, h2, h3, h4⟩ := contribution_values rest hz hside htc htp
  simp only [writtenContribution, h, h1, h2, h3, h4]
  cases sideOf side with
  | none => rfl
  | some s => simp [and_assoc]

/-- Contributions that a write does not name are kept. -/
theorem writtenContributions_unnamed {fs : Fields} (cs : List Contribution) :
    ∀ n, (∀ m, n ≤ m → fs.getD m none = none) →
    writtenContributions fs n cs = some cs := by
  induction cs with
  | nil => intros; rfl
  | cons c cs ih =>
    intro n h
    simp [writtenContributions, writtenContribution, -List.getD_eq_getElem?_getD, h n le_rfl,
      ih (n + 1) fun m hm => h m (by omega)]

/-- A write that names one contribution. -/
theorem writtenContributions_one {fs : Fields} {cs : List Contribution} : ∀ {n k : Nat}, k < cs.length →
    (∀ m, n ≤ m → m ≠ n + k → fs.getD m none = none) → writtenContributions fs n cs
      = (writtenContribution fs (n + k) (cs.getD k {})).map (cs.set k) := by
  induction cs with
  | nil => intro n k hk; cases hk
  | cons c cs ih =>
    intro n k hk h
    cases k with
    | zero =>
      rw [writtenContributions, writtenContributions_unnamed cs (n + 1) fun m hm => h m (by omega) (by omega)]
      show (writtenContribution fs n c).bind _ = (writtenContribution fs n c).map _
      cases writtenContribution fs n c <;> rfl
    | succ k =>
      have hkept : writtenContribution fs n c = some c := by
        simp only [writtenContribution, h n le_rfl (by omega)]
      rw [writtenContributions, hkept, ih (by simpa using hk) fun m hm hne => h m (by omega) (by omega),
        show n + 1 + k = n + (k + 1) by omega]
      exact Option.map_map _ _ _

/-- The delay and the count by themselves. -/
theorem split_delayCount (bank : BankId) (d n : Nat) :
    splitFields (bankTable bank) 6 (fieldSizes (bankTable bank)).zipIdx (byte2 d ++ byte1 n)
      = some [none, some (byte2 d), some (byte1 n), none, none, none, none] := by
  cases bank <;> rfl

/-- A contribution by itself. -/
theorem split_contribution (bank : BankId) {k : Nat} (hk : k < 4) (z side tc tp rest : Nat) :
    splitFields (bankTable bank) (2 ^ (3 + k)) (fieldSizes (bankTable bank)).zipIdx
        (byte1 z ++ byte1 side ++ byte2 tc ++ byte2 tp ++ byte2 rest)
      = some ((List.replicate 7 none).set (3 + k)
          (some (byte1 z ++ byte1 side ++ byte2 tc ++ byte2 tp ++ byte2 rest))) := by
  match k, hk with
  | 0, _ | 1, _ | 2, _ | 3, _ => cases bank <;> rfl

section
variable {h : ReqHeader} {bank : BankId} {i : Nat} {e : RenderEntry} {p : Part} (w : List Instr)
  (ht : p.takes 0x11 h = true) (hl : p.tst.latent = []) (hx : p.rmx.crossfade = none) (ha : p.rmx.active ≠ bank)
  (hi : i < 32) (hp : p.entryPoisoned (bankTable bank) i = false) (he : (p.bank bank)[i]? = some e)
include ht hl hx ha hi hp he

theorem exec_write_delayCount {d n : Nat} (hd : d < 65536) (hn : n < 256) :
    exec (.tableWrite h (bankTable bank) i 6 (byte2 d ++ byte1 n)) ⟨p, w⟩ = if d ≤ 1023 ∧ n ≤ 4 then
        .next ⟨answered 0x11 h .ok [] (p.setBank bank ((p.bank bank).set i (settleTrims p.rmx.tailgateOpen
          { e with delay := d, count := n }))), w⟩
      else .next ⟨answered 0x11 h .badValue [] p, w⟩ := by
  rw [render_write ht hl hx ha hi hp he (by cases bank <;> rfl) (by cases bank <;> rfl) (split_delayCount bank d n)
    (by simp [byte2, byte1]) (by simp [byte2, byte1])]
  have hunnamed (m : Nat) (hm : 3 ≤ m) :
      List.getD [none, some (byte2 d), some (byte1 n), none, none, none, none] m none = none := by
    match m, hm with
    | 3, _ | 4, _ | 5, _ | 6, _ => rfl
    | m + 7, _ => rfl
  rw [writtenContributions_unnamed e.contribs 3 hunnamed]
  have henabled : valueOr [none, some (byte2 d), some (byte1 n), none, none, none, none] 0 (codeOfBool e.enabled)
      = codeOfBool e.enabled := rfl
  have hdelay : valueOr [none, some (byte2 d), some (byte1 n), none, none, none, none] 1 e.delay = d := valueOf_byte2 hd
  have hcount : valueOr [none, some (byte2 d), some (byte1 n), none, none, none, none] 2 e.count = n := valueOf_byte1 hn
  have hle : codeOfBool e.enabled ≤ 1 := by cases e.enabled <;> decide
  have hback : (codeOfBool e.enabled == 1) = e.enabled := by cases e.enabled <;> rfl
  simp only [henabled, hdelay, hcount, hle, hback, true_and]

theorem exec_write_contribution {k z side tc tp rest : Nat} (hk : k < 4) (h4 : e.contribs.length = 4)
    (hd : e.delay ≤ 1023) (hn : e.count ≤ 4) (hz : z < 256) (hs : side < 256) (htc : tc < 65536) (htp : tp < 65536) :
    exec (.tableWrite h (bankTable bank) i (2 ^ (3 + k))
        (byte1 z ++ byte1 side ++ byte2 tc ++ byte2 tp ++ byte2 rest)) ⟨p, w⟩
      = match (sideOf side).filter fun _ => decide (z ≤ 7 ∧ tc ≤ 384 ∧ tp ≤ 384) with
        | some s => .next ⟨answered 0x11 h .ok [] (p.setBank bank ((p.bank bank).set i (settleTrims p.rmx.tailgateOpen
            { e with contribs := e.contribs.set k { zone := z, side := s, trimClosed := tc, trimOpen := tp } }))), w⟩
        | none => .next ⟨answered 0x11 h .badValue [] p, w⟩ := by
  have hmask : maskOk (bankTable bank) (2 ^ (3 + k)) = true ∧ fullMask (bankTable bank) (2 ^ (3 + k)) = false := by
    match k, hk with
    | 0, _ | 1, _ | 2, _ | 3, _ => cases bank <;> exact ⟨rfl, rfl⟩
  rw [render_write ht hl hx ha hi hp he hmask.1 hmask.2 (split_contribution bank hk z side tc tp rest)
    (by simp [byte2, byte1]) (by simp [byte2, byte1])]
  have hnamed (m : Nat) (hne : m ≠ 3 + k) :
      ((List.replicate 7 none).set (3 + k)
        (some (byte1 z ++ byte1 side ++ byte2 tc ++ byte2 tp ++ byte2 rest))).getD m none = none := by
    rw [List.getD_eq_getElem?_getD, List.getElem?_set_ne (Ne.symm hne), List.getElem?_replicate]
    split <;> rfl
  have hthis : ((List.replicate 7 none).set (3 + k)
      (some (byte1 z ++ byte1 side ++ byte2 tc ++ byte2 tp ++ byte2 rest))).getD (3 + k) none
        = some (byte1 z ++ byte1 side ++ byte2 tc ++ byte2 tp ++ byte2 rest) := by
    rw [List.getD_eq_getElem?_getD, List.getElem?_set_self (by simp; omega)]
    rfl
  have hkept (m old : Nat) (hm : m < 3) : valueOr ((List.replicate 7 none).set (3 + k)
      (some (byte1 z ++ byte1 side ++ byte2 tc ++ byte2 tp ++ byte2 rest))) m old = old := by
    simp only [valueOr, hnamed m (by omega)]
  have hle : codeOfBool e.enabled ≤ 1 := by cases e.enabled <;> decide
  have hback : (codeOfBool e.enabled == 1) = e.enabled := by cases e.enabled <;> rfl
  rw [writtenContributions_one (by omega) fun m _ => hnamed m, writtenContribution_bytes _ hthis hz hs htc htp]
  cases sideOf side with
  | none => rfl
  | some s =>
    by_cases hok : z ≤ 7 ∧ tc ≤ 384 ∧ tp ≤ 384
    · simp only [Option.bind_some, Option.map_some, Option.filter_some, hok, hkept _ _ (show 0 < 3 by decide),
        hkept _ _ (show 1 < 3 by decide), hkept _ _ (show 2 < 3 by decide), hle, hd, hn, hback, and_self, decide_true,
        if_true]
    · simp only [Option.bind_some, Option.map_none, Option.filter_some, hok, decide_false,
        Bool.false_eq_true, if_false]

end

/-! ### The obligations -/

/-- The exchange made, in the terms of R47 and R145. -/
theorem bankSwap_made {p : Part} (hl : p.tst.latent = []) (h : p.rmx.crossfade = none)
    (hpass : ∀ i < (p.bank p.rmx.active.other).length,
      entryFails p p.rmx.active.other i ((p.bank p.rmx.active.other).getD i {}) = false) :
    ∃ q, bankSwap p = (.ok, some (bankCode p.rmx.active.other), q)
      ∧ q.rmx = { p.rmx with active := p.rmx.active.other, crossfade := some 0 }
      ∧ q.clp.sig = { p.clp.sig with bank := p.rmx.active.other }
      ∧ (p.clp.sig.bank = p.rmx.active → ∀ k, (q.seat k).context =
          if (p.seat k).context = .reset then .reset else .training)
      ∧ q = { p with rmx := q.rmx, clp := q.clp, nfu := q.nfu } := by
  have hnone : (List.range (p.bank p.rmx.active.other).length).find? (fun i =>
      entryFails p p.rmx.active.other i ((p.bank p.rmx.active.other).getD i {})) = none := by
    rw [List.find?_eq_none]
    intro i hi
    simpa using hpass i (List.mem_range.mp hi)
  have hv := (validateFrom_clean p.rmx.active.other (List.range (p.bank p.rmx.active.other).length) hl).trans
    (congrArg (fun o => (o, p)) hnone)
  obtain ⟨q, hq⟩ : ∃ q : Part, q = { p with rmx := { p.rmx with active := p.rmx.active.other, crossfade := some 0 } } :=
    ⟨_, rfl⟩
  have hl' : q.tst.latent = [] := by rw [hq]; exact hl
  obtain ⟨s, u, n, e, -⟩ := setSignature_only (sig := { p.clp.sig with bank := p.rmx.active.other }) hl'
  refine ⟨_, (bankSwap_ok h hv).trans (by rw [← hq, e]), ?_, rfl, fun hsig k => ?_, ?_⟩
  · rw [hq]
  · have hne : q.clp.sig ≠ { p.clp.sig with bank := p.rmx.active.other } := by
      rw [hq]
      intro heq
      have := congrArg Signature.bank heq
      rw [hsig] at this
      revert this
      cases p.rmx.active <;> simp [BankId.other]
    have hcontext := setSignature_contexts hl' hne k
    rw [e, hq] at hcontext
    rw [hq]
    exact hcontext
  · rw [hq]

/-- A write that is taken, in the terms of R40. -/
theorem stores_of_settled {h : ReqHeader} {bank : BankId} {i : Nat} {e new : RenderEntry} {p : Part} {w : List Instr}
    {run : Host.Outcome State Fault Refusal} (he : (p.bank bank)[i]? = some e)
    (hrun : run = .next ⟨answered 0x11 h .ok [] (p.setBank bank ((p.bank bank).set i
      (settleTrims p.rmx.tailgateOpen new))), w⟩) :
    ∃ q e', run = .next ⟨answered 0x11 h .ok [] q, w⟩
      ∧ (q.bank bank)[i]? = some e' ∧ { e' with contribs := new.contribs } = new
      ∧ e'.contribs.length = new.contribs.length
      ∧ (∀ (k : Nat) c, new.contribs[k]? = some c → ∃ c', e'.contribs[k]? = some c'
          ∧ { c' with applied := c.applied } = c
          ∧ (k < new.count → c'.applied = if p.rmx.tailgateOpen then c.trimOpen else c.trimClosed))
      ∧ (∀ j, j ≠ i → (q.bank bank)[j]? = (p.bank bank)[j]?) ∧ q = p.setBank bank (q.bank bank) := by
  obtain ⟨e', hentry⟩ := settled_entry (new := new) he
  exact ⟨_, e', hrun, hentry⟩

/-- Settles O20: the exchange by its three outcomes, the two writes by `render_write`, and the end of the crossfade. -/
theorem banksAreWrittenSwappedAndCrossfade : Obligations.BanksAreWrittenSwappedAndCrossfade := by
  refine ⟨fun h p w ht => ?_, fun h bank i e p w ht hl hx ha hi hp he =>
    ⟨fun d n hd hn => ⟨fun h1 h2 => ?_, fun h1 => ?_⟩,
    fun k z side tc tp rest hk h4 hd hn hz hs htc htp _ => ⟨fun s h1 h2 h3 hmem => ?_, fun h1 => ?_⟩⟩, fun p w hr => ?_⟩
  · have hfails (i : Nat) : (((p.bank p.rmx.active.other)[i]?).any fun e =>
        p.entryPoisoned (bankTable p.rmx.active.other) i || decide (480 < e.delay)
          || (e.contribs.take e.count).any fun c => decide (5 < c.zone))
        = (decide (i < (p.bank p.rmx.active.other).length)
            && entryFails p p.rmx.active.other i ((p.bank p.rmx.active.other).getD i {})) := by
      by_cases hi : i < (p.bank p.rmx.active.other).length
      · simp [hi, entryFails]
      · simp [hi]
    simp only [hfails, Bool.and_eq_true, Bool.and_eq_false_iff, decide_eq_true_eq, decide_eq_false_iff_not]
    refine ⟨fun hx => ?_, fun i hx hi hbefore hlatent => ?_, fun hx hpass hl => ?_⟩
    · rw [exec_bankSwap w ht, bankSwapAnswer, bankSwap_busy hx]
    · have hv := validateFrom_first hi.1 hi.2 (fun j hj => (hbefore j hj).resolve_left fun hlen => hlen (by omega))
        hlatent
      rw [exec_bankSwap w ht, bankSwapAnswer, bankSwap_badBank hx hv]
    · obtain ⟨q, hq, hrest⟩ := bankSwap_made hl hx fun i hi => (hpass i hi).resolve_left fun hlen => hlen hi
      refine ⟨q, ?_, hrest⟩
      rw [exec_bankSwap w ht, bankSwapAnswer, hq]
  · exact stores_of_settled he ((exec_write_delayCount w ht hl hx ha hi hp he hd hn).trans (if_pos ⟨h1, h2⟩))
  · exact (exec_write_delayCount w ht hl hx ha hi hp he hd hn).trans (if_neg (by omega))
  · refine stores_of_settled he ((exec_write_contribution w ht hl hx ha hi hp he hk h4 hd hn hz hs htc htp).trans ?_)
    have hside : sideOf side = some s := by
      simp only [List.mem_cons, Prod.mk.injEq, List.not_mem_nil, or_false] at hmem
      rcases hmem with ⟨rfl, rfl⟩ | ⟨rfl, rfl⟩ | ⟨rfl, rfl⟩ <;> rfl
    simp only [hside, Option.filter_some, h1, h2, h3, and_self, decide_true, if_true]
  · refine (exec_write_contribution w ht hl hx ha hi hp he hk h4 hd hn hz hs htc htp).trans ?_
    have hnone : (sideOf side).filter (fun _ => decide (z ≤ 7 ∧ tc ≤ 384 ∧ tp ≤ 384)) = none := by
      rcases h1 with h1 | h1 | h1 | h1
      · simp [show ¬z ≤ 7 by omega]
      · match side, h1 with
        | n + 3, _ => rfl
      · simp [show ¬tc ≤ 384 by omega]
      · simp [show ¬tp ≤ 384 by omega]
    rw [hnone]
  · show Host.Outcome.next _ = _
    unfold bankCrossfadeEnd
    rw [hr, Bool.true_and]
    by_cases hx : p.rmx.crossfade = some 16
    · rw [if_pos (by rw [hx]; rfl), if_pos hx]
      rfl
    · rw [if_neg (by simpa using hx), if_neg hx]

/-! ### The render block -/

theorem bank_setBank (p : Part) (k l : BankId) (es : List RenderEntry) :
    (p.setBank k es).bank l = if l = k then es else p.bank l := by
  cases k <;> cases l <;> rfl

/-- The two banks behind a ramp of both, the first of which leaves the second as it was. -/
theorem rampBanks_bank {p : Part} (hp : p.tst.poisoned = []) (bank : BankId) :
    (rampBank .b (rampBank .a p)).bank bank = (p.bank bank).zipIdx.map fun x => rampEntry p bank x.2 x.1 := by
  have hentry (k l : BankId) (es : List RenderEntry) (i : Nat) (e : RenderEntry) :
      rampEntry (p.setBank k es) l i e = rampEntry p l i e := by
    cases k <;> simp [rampEntry, Part.unitPoisoned, Part.setBank, hp]
  simp only [rampBank, bank_setBank, hentry]
  cases bank <;> rfl

/-- A ramp of an entry in which nothing is poisoned. -/
theorem rampEntry_contrib {p : Part} (hp : p.tst.poisoned = []) {bank : BankId} {n i : Nat} {e : RenderEntry}
    {c : Contribution} (hc : e.contribs[i]? = some c) :
    (rampEntry p bank n e).contribs[i]? = some (if i < e.count then
      { c with applied := trimRamp (columnTrim p.rmx.tailgateOpen c) c.applied } else c) := by
  simp [rampEntry, hc, Part.unitPoisoned, hp]

theorem stepCrossfade_eq (p : Part) : stepCrossfade p = { p with
    rmx := { p.rmx with crossfade := p.rmx.crossfade.bind fun k => if k < 16 then some (k + 1) else none }
    nfu := if p.rmx.crossfade.any fun k => 16 ≤ k
      then p.nfu.post .bankSwapped (bankCode p.rmx.active) none else p.nfu } := by
  unfold stepCrossfade
  cases hx : p.rmx.crossfade with
  | none =>
    simp only [Option.bind_none, Option.any_none, Bool.false_eq_true, if_false]
    rw [← hx]
  | some k =>
    by_cases hk : k < 16
    · simp [hk, show ¬16 ≤ k by omega]
    · simp [hk, show 16 ≤ k by omega]
      rfl

/-- Settles O21: both banks ramp, then the crossfade moves on. -/
theorem renderBlockRampsTrimsAndCrossfades : Obligations.RenderBlockRampsTrimsAndCrossfades := by
  intro p w hr hl hp
  have hblock : rmxBlock p = stepCrossfade (rampBank .b (rampBank .a p)) := by
    rw [rmxBlock, if_pos hr, ownerReads, checkUpsets_clean _ hl]
  refine ⟨rmxBlock p, rfl, fun bank n e he => ?_, ?_, ?_, ?_⟩
  · refine ⟨rampEntry p bank n e, ?_, rfl, rfl, rfl, fun i c hc => ⟨_, rampEntry_contrib hp hc, ?_, fun hi => ?_⟩⟩
    · have hbank : (rmxBlock p).bank bank = (rampBank .b (rampBank .a p)).bank bank := by
        rw [hblock, stepCrossfade_eq]
        rfl
      rw [hbank, rampBanks_bank hp]
      simp [he]
    · split <;> rfl
    · rw [if_pos hi]
      rfl
  all_goals rw [hblock, stepCrossfade_eq]
  · show { p.rmx with crossfade := p.rmx.crossfade.bind fun k => if k < 16 then some (k + 1) else none } = _
    cases p.rmx.crossfade <;> rfl
  · rfl
  · rfl

end Sys2Proof.Machine
end

section
/-! PROOFS. What the operations on claims do where both tuners are free, and where one tuner plays for one claim. -/

namespace Sys2Proof.Machine

/-! ### Zones and their tuners -/

/-- A zone's record with no tuner attached. -/
def Zone.loose (r : Zone) : Zone := { r with att := none, att2 := none, held := none }

/-- The record of zone `x` when zone `z` is detached: FRONT's followers go with it (R70, R28). -/
def detached (z x : ZoneId) (r : Zone) : Zone :=
  if x = z ∨ (z = .front ∧ x.follows = true ∧ r.state ≠ .off) then r.loose else r

theorem detach_eq (z : ZoneId) (p : Part) :
    detach z p = { p with zmx := { p.zmx with zones := .of fun x => detached z x (p.zone x) } } := by
  have hzones : ∃ zs, detach z p = { p with zmx := { p.zmx with zones := zs } }
      ∧ ∀ x, zs.get x = detached z x (p.zone x) := by
    by_cases hz : z = .front
    · subst hz
      refine ⟨(detach .front p).zmx.zones, ?_, fun x => ?_⟩
      · unfold detach
        simp only [beq_self_eq_true, if_true, List.foldl_cons, List.foldl_nil]
        split <;> split <;> rfl
      · unfold detach
        simp only [beq_self_eq_true, if_true, List.foldl_cons, List.foldl_nil, beq_iff_eq]
        show Part.zone _ x = _
        cases x <;> simp only [detached] <;> split <;> split <;> simp_all [ZoneId.follows] <;> rfl
    · refine ⟨p.zmx.zones.set z (p.zone z).loose, ?_, fun x => ?_⟩
      · unfold detach
        rw [if_neg (by simpa using hz)]
        rfl
      · unfold detached
        rw [PerZone.get_set]
        by_cases hx : x = z
        · simp [hx]
        · simp only [hx, hz, if_false, false_or, false_and]
          rfl
  obtain ⟨zs, e, hzs⟩ := hzones
  rw [e]
  have hof : zs = .of fun x => detached z x (p.zone x) := PerZone.ext_get fun x => by rw [hzs]; cases x <;> rfl
  rw [hof]

theorem zone_of_claimant {z : ZoneId} {w : Claimant} (h : claimantOf z = some w) :
    w.zone? = some z ∧ w.listens = true := by
  cases z <;> simp only [claimantOf, Option.some.injEq, reduceCtorEq] at h <;> subst h <;> exact ⟨rfl, rfl⟩

/-! ### The withdrawal of a claim -/

/-- A tuner's record without a claimant's claims, and the seek and the note that go with them (R70). -/
def Tuner.without (w : Claimant) (r : Tuner) : Tuner :=
  { r with
    claims := r.claims.filter fun c => c.who != w
    note := if r.note.bind claimantOf == some w then none else r.note
    seek := match r.seek with
      | some k => if claimantOf k.zone == some w then none else some k
      | none => none }

/-- A claimant's claims leave both lists. -/
theorem dropClaim_both (w : Claimant) (p : Part) : dropClaim w .b (dropClaim w .a p)
    = { p with tuc := { p.tuc with tuners := .of fun u => (p.tuner u).without w } } := rfl

theorem Tuner.without_unclaimed {w : Claimant} {r : Tuner} (hc : r.claims = []) (hn : r.note = none)
    (hs : r.seek = none) :
    r.without w = r := by
  obtain ⟨⟩ := r
  simp_all [Tuner.without]

theorem idleIfFree_idle {t : TunerId} {p : Part} (h : (p.tuner t).state = .idle) : idleIfFree t p = p := by
  simp [idleIfFree, h]

theorem idleIfFree_both {p : Part} (h : ∀ t, (p.tuner t).state = .idle) : idleIfFree .b (idleIfFree .a p) = p := by
  rw [idleIfFree_idle (h .a), idleIfFree_idle (h .b)]

theorem tunersFree_iff {p : Part} : p.tunersFree = true ↔ p.tuc.grants = [] ∧ ∀ t, (p.tuner t).state = .idle
    ∧ (p.tuner t).claims = [] ∧ (p.tuner t).retry = none ∧ (p.tuner t).seek = none ∧ (p.tuner t).note = none
    ∧ p.switching t = false := by
  have hall {P : TunerId → Prop} : (∀ t, P t) ↔ P .a ∧ P .b :=
    ⟨fun h => ⟨h .a, h .b⟩, fun ⟨ha, hb⟩ t => by cases t <;> assumption⟩
  simp [Part.tunersFree, TunerId.all, hall, and_assoc]

/-- The withdrawal of a zone's claim while no tuner switches: the zone is detached, and the tuners left free go
IDLE. -/
theorem withdraw_listener {w : Claimant} {z : ZoneId} {p : Part} (hw : w.zone? = some z)
    (hs : ∀ t, p.switching t = false) : withdraw w p = idleIfFree .b (idleIfFree .a { p with
      zmx := { p.zmx with zones := .of fun x => detached z x (p.zone x) }
      tuc := { p.tuc with tuners := .of fun u => (p.tuner u).without w, grants := p.tuc.grants.erase z } }) := by
  unfold withdraw
  simp only [dropClaim_both, hw, detach_eq]
  have hfree (t : TunerId) (q : Part) (hq : q.stm = p.stm) :
      (if (q.tuner t).listened = true then q else abandonSwitch t q) = q := by
    have hnone : q.switching t = false := by
      rw [← hs t]
      unfold Part.switching Part.follow
      rw [hq]
    rw [abandonSwitch_none hnone, ite_self]
  rw [hfree .a, hfree .b]
  all_goals rfl

/-- Where both tuners are free a withdrawal detaches the zone, and no more. -/
theorem withdraw_free {w : Claimant} {z : ZoneId} {p : Part} (hw : w.zone? = some z) (hf : p.tunersFree = true) :
    withdraw w p = { p with zmx := { p.zmx with zones := .of fun x => detached z x (p.zone x) }
                            tuc := { p.tuc with grants := p.tuc.grants.erase z } } := by
  obtain ⟨-, htuners⟩ := tunersFree_iff.mp hf
  have hsame : (PerTuner.of fun u => (p.tuner u).without w) = p.tuc.tuners :=
    PerTuner.ext_get fun u => by
      obtain ⟨-, hc, -, hseek, hn, -⟩ := htuners u
      rw [PerTuner.get_of, Tuner.without_unclaimed hc hn hseek]
      rfl
  rw [withdraw_listener hw fun t => (htuners t).2.2.2.2.2, hsame]
  exact idleIfFree_both fun t => (htuners t).1

/-- A tuner without claims goes IDLE, with its adapter emptied, and STANDBY is issued to it (R70). -/
theorem idleTuner_sent {t : TunerId} {p : Part} (ha : p.hasAddress t = true) (hr : (p.tuner t).retry = none) :
    ∃ tu f, idleTuner t p = { p with tuc := tu, stm := { p.stm with follow := f } }
      ∧ (tu.tuners.get t).state = .idle ∧ (tu.tuners.get t).claims = (p.tuner t).claims
      ∧ (tu.tuners.get t).adapter = { trim := (p.tuner t).adapter.trim }
      ∧ tu.tuners.get t.other = p.tuner t.other ∧ (t, LinkCmd.standby) ∈ tu.link.toList ++ tu.queue
      ∧ ∀ u, f.get u = p.follow u ∨ (f.get u).lowTimer = false := by
  obtain ⟨tu, e, htuners, hmem⟩ := issue_sent (t := t) (cmd := .standby)
    (p := (p.setTuner t { p.tuner t with state := .idle, settle := false, adapter := flush (p.tuner t).adapter,
                                         acked := false, done := false, note := none, seek := none }).setFollow t
          (p.follow t).ended) ha (by simp) (by simp [hr])
  have hother : t.other ≠ t := by cases t <;> decide
  refine ⟨tu, p.stm.follow.set t (p.follow t).ended, e, ?_, ?_, ?_, ?_, hmem, fun u => ?_⟩
  · rw [htuners]
    cases t <;> rfl
  · rw [htuners]
    cases t <;> rfl
  · rw [htuners]
    cases t <;> rfl
  · rw [htuners]
    cases t <;> rfl
  · rw [PerTuner.get_set]
    split
    · exact .inr rfl
    · exact .inl rfl

/-- A zone's claim withdrawn that alone holds a playing tuner: the tuner goes IDLE (R70). -/
theorem withdraw_playing {w : Claimant} {z : ZoneId} {t : TunerId} {p : Part} (hw : w.zone? = some z)
    (hp : p.playsOn t = true) (hc : (p.tuner t).claims = [⟨w, false⟩]) (ho : (p.tuner t.other).state = .idle)
    (hoc : (p.tuner t.other).claims = []) (ha : p.hasAddress t = true) :
    ∃ tu f, withdraw w p = { p with zmx := { p.zmx with zones := .of fun x => detached z x (p.zone x) }
                                    tuc := tu, stm := { p.stm with follow := f } }
      ∧ (tu.tuners.get t).state = .idle ∧ (∀ u, (tu.tuners.get u).claims = [])
      ∧ (tu.tuners.get t).adapter = { trim := (p.tuner t).adapter.trim }
      ∧ (t, LinkCmd.standby) ∈ tu.link.toList ++ tu.queue
      ∧ ∀ u, f.get u = p.follow u ∨ (f.get u).lowTimer = false := by
  simp only [Part.playsOn, Bool.and_eq_true, beq_iff_eq, Bool.not_eq_true', Option.isNone_iff_eq_none] at hp
  obtain ⟨⟨⟨⟨⟨⟨⟨⟨⟨hstate, -⟩, -⟩, -⟩, -⟩, hretry⟩, -⟩, hmonitor⟩, hswitch⟩, -⟩ := hp
  have hs (u : TunerId) : p.switching u = false := by
    by_cases hu : u = t
    · rw [hu, Part.switching, hmonitor]
      rfl
    · rwa [show u = t.other by cases u <;> cases t <;> simp_all [TunerId.other]]
  obtain ⟨q, hq⟩ : ∃ q : Part, q = { p with
    zmx := { p.zmx with zones := .of fun x => detached z x (p.zone x) }
    tuc := { p.tuc with tuners := .of fun u => (p.tuner u).without w, grants := p.tuc.grants.erase z } } := ⟨_, rfl⟩
  have htuner (u : TunerId) : q.tuner u = (p.tuner u).without w := by rw [hq]; cases u <;> rfl
  obtain ⟨tu, f, e, h1, h2, h3, h4, h5, h6⟩ := idleTuner_sent (t := t) (p := q) (by rw [hq]; exact ha)
    (by rw [htuner]; exact hretry)
  have hfree : idleIfFree .b (idleIfFree .a q) = idleTuner t q := by
    have hidle : idleIfFree t q = idleTuner t q := by
      rw [idleIfFree, htuner, if_pos]
      simp [Tuner.without, hc, hstate]
    have hrest : idleIfFree t.other (idleTuner t q) = idleTuner t q := by
      refine idleIfFree_idle ?_
      rw [e]
      show (tu.tuners.get t.other).state = _
      rw [h4, htuner]
      exact ho
    have hfirst : idleIfFree t.other q = q := idleIfFree_idle (by rw [htuner]; exact ho)
    cases t with
    | a => rw [hidle]; exact hrest
    | b => rw [show idleIfFree .a q = q from hfirst]; exact hidle
  refine ⟨tu, f, ?_, h1, fun u => ?_, ?_, h5, ?_⟩
  · rw [withdraw_listener hw hs, ← hq, hfree, e, hq]
  · by_cases hu : u = t
    · rw [hu, h2, htuner]
      simp [Tuner.without, hc]
    · rw [show u = t.other by cases u <;> cases t <;> simp_all [TunerId.other], h4, htuner]
      simp [Tuner.without, hoc]
  · rw [h3, htuner]
    rfl
  · intro u
    have := h6 u
    rw [hq] at this
    exact this

/-! ### The start of a tune -/

/-- A command issued on a free link goes on it at once (R55). -/
theorem issue_free {t : TunerId} {cmd : LinkCmd} {p : Part} (ha : p.hasAddress t = true)
    (hs : (p.tuner t).state ≠ .fault) (hr : (p.tuner t).retry = none) (hl : p.tuc.link = none) (hq : p.tuc.queue = []) :
    issue t cmd p = { p with tuc := { p.tuc with link := some (t, cmd), queue := [] } } := by
  simp [issue, ha, hs, hr, startLink, hl, hq]

/-- A tune start of a tuner that has an address: its record as R58 says, and the TUNE command issued. -/
theorem tuneStart_sent {t : TunerId} {c : Chan} {note : Option ZoneId} {p : Part} (ha : p.hasAddress t = true)
    (hr : (p.tuner t).retry = none) :
    ∃ tu lb, tuneStart t c note false p = { p with tuc := tu, stm := { p.stm with labels := lb } }
      ∧ tu.tuners = p.tuc.tuners.set t (tunedRecord c note false (p.tuner t))
      ∧ (t, LinkCmd.tune c) ∈ tu.link.toList ++ tu.queue
      ∧ (p.tuc.link = none → p.tuc.queue = [] → tu.link = some (t, .tune c) ∧ tu.queue = []) := by
  obtain ⟨q, hq⟩ : ∃ q : Part, q = { p.setTuner t (tunedRecord c note false (p.tuner t)) with
      stm := { p.stm with labels := p.stm.labels.set t (List.replicate 4 none) } } := ⟨_, rfl⟩
  have htuner : q.tuner t = tunedRecord c note false (p.tuner t) := by rw [hq]; cases t <;> rfl
  have haddress : q.hasAddress t = true := by rw [hq]; exact ha
  have hnofault : (q.tuner t).state ≠ .fault := by rw [htuner]; simp [tunedRecord]
  have hretry : (q.tuner t).retry = none := by rw [htuner]; exact hr
  have hstart : tuneStart t c note false p = issue t (.tune c) q := by rw [hq]; rfl
  obtain ⟨tu, e, htuners, hmem⟩ := issue_sent (cmd := .tune c) haddress hnofault hretry
  refine ⟨tu, p.stm.labels.set t (List.replicate 4 none), ?_, ?_, hmem, fun hl hqueue => ?_⟩
  · rw [hstart, e, hq]
    rfl
  · rw [htuners, hq]
    rfl
  · have hfree := issue_free (cmd := .tune c) haddress hnofault hretry (by rw [hq]; exact hl) (by rw [hq]; exact hqueue)
    have htu : tu = { q.tuc with link := some (t, .tune c), queue := [] } := congrArg Part.tuc (e.symm.trans hfree)
    rw [htu]
    exact ⟨rfl, rfl⟩

/-! ### The grant of a claim on a free tuner -/

theorem displaceAll_free {t : TunerId} {p : Part} (hc : (p.tuner t).claims = []) (hn : (p.tuner t).note = none)
    (hk : (p.tuner t).seek = none) (hs : ∀ u, p.switching u = false) :
    displaceAll t p = p.setFollow t (p.follow t).ended := by
  have hsame : p.setTuner t { p.tuner t with claims := [], note := none, seek := none } = p := by
    have hrecord : ({ p.tuner t with claims := [], note := none, seek := none } : Tuner) = p.tuner t := by
      rw [← hc, ← hn, ← hk]
    rw [hrecord, Part.setTuner_same]
  have hswitches : abandonSwitches t p = p := by
    rw [abandonSwitches, abandonSwitch_none (hs t), abandonSwitch_none (hs t.other)]
  unfold displaceAll
  simp only [hswitches, hc, hsame, List.foldl_nil, List.any_nil, Bool.not_false, List.filter_true]

/-- The zones that hold LISTEN-HP claims, in the order of the grants, once a claimant's is granted (R67). -/
def grantsWith (w : Claimant) (gs : List ZoneId) : List ZoneId :=
  match w.zone? with
  | some z => if z == .front then gs else gs.erase z ++ [z]
  | none => gs

/-- A claim joins a tuner's list, which no switch copies (R67). -/
theorem addClaim_eq {w : Claimant} {t : TunerId} {p : Part} (hs : p.switching t = false) :
    addClaim w t p = { p with tuc := { p.tuc with
      tuners := p.tuc.tuners.set t
        { p.tuner t with claims := sortClaims (grantsWith w p.tuc.grants) (⟨w, false⟩ :: (p.tuner t).claims) }
      grants := grantsWith w p.tuc.grants } } := by
  obtain ⟨q, hq⟩ : ∃ q : Part, q = { p with tuc := { p.tuc with grants := grantsWith w p.tuc.grants } } := ⟨_, rfl⟩
  have hnone : (setClaims t (⟨w, false⟩ :: (q.tuner t).claims) q).switching t = false := by rw [hq]; exact hs
  have hgrants : addClaim w t p = if w.listens && (setClaims t (⟨w, false⟩ :: (q.tuner t).claims) q).switching t then
      setClaims t.other (⟨w, true⟩ :: ((setClaims t (⟨w, false⟩ :: (q.tuner t).claims) q).tuner t.other).claims)
        (setClaims t (⟨w, false⟩ :: (q.tuner t).claims) q)
      else setClaims t (⟨w, false⟩ :: (q.tuner t).claims) q := by
    rw [hq]
    cases w <;> rfl
  rw [hgrants, hnone, Bool.and_false, if_neg Bool.false_ne_true, hq]
  rfl

/-- The first claim on a tuner stands alone there. -/
theorem sortClaims_first (w : Claimant) : sortClaims (grantsWith w []) [⟨w, false⟩] = [⟨w, false⟩] := by
  cases w <;> rfl

/-- A zone's claim granted on a free tuner: the claim stands there alone, the zone is attached, and the tune starts
(R58, R68, R75). -/
theorem grant_free {w : Claimant} {z : ZoneId} {c : Chan} {t : TunerId} {p : Part} (hw : w.zone? = some z)
    (hg : p.tuc.grants = []) (hc : (p.tuner t).claims = []) (hn : (p.tuner t).note = none)
    (hk : (p.tuner t).seek = none) (hr : (p.tuner t).retry = none) (hs : ∀ u, p.switching u = false)
    (ha : p.hasAddress t = true) :
    ∃ tu f lb, grant w c t false p
      = { attach z t none p with tuc := tu, stm := { p.stm with follow := f, labels := lb } }
      ∧ tu.tuners = p.tuc.tuners.set t (tunedRecord c (some z) false { p.tuner t with claims := [⟨w, false⟩] })
      ∧ (t, LinkCmd.tune c) ∈ tu.link.toList ++ tu.queue
      ∧ (p.tuc.link = none → p.tuc.queue = [] → tu.link = some (t, .tune c) ∧ tu.queue = [])
      ∧ ∀ u, f.get u = p.follow u ∨ (f.get u).lowTimer = false := by
  obtain ⟨q, hq⟩ : ∃ q : Part, q = { attach z t none p with
      tuc := { p.tuc with tuners := p.tuc.tuners.set t { p.tuner t with claims := [⟨w, false⟩] }
                          grants := grantsWith w [] }
      stm := { p.stm with follow := p.stm.follow.set t (p.follow t).ended } } := ⟨_, rfl⟩
  have hadded : addClaim w t (displaceAll t p) = { p.setFollow t (p.follow t).ended with
      tuc := { p.tuc with tuners := p.tuc.tuners.set t { p.tuner t with claims := [⟨w, false⟩] }
                          grants := grantsWith w [] } } := by
    rw [displaceAll_free hc hn hk hs, addClaim_eq]
    · have hclaims : (⟨w, false⟩ :: ((p.setFollow t (p.follow t).ended).tuner t).claims : List Claim)
        = [⟨w, false⟩] := by
        rw [Part.tuner_setFollow, hc]
      rw [hclaims, show (p.setFollow t (p.follow t).ended).tuc.grants = [] from hg, sortClaims_first]
      rfl
    · simp only [Part.switching, Part.follow_setFollow_self]
      rfl
  have hgrant : grant w c t false p = tuneStart t c (some z) false q := by
    have hmonitor : ((addClaim w t (displaceAll t p)).follow t).state ≠ .switchFade := by
      rw [hadded]
      simp [Part.follow, Part.setFollow, Follow.ended]
    simp only [grant, Bool.false_eq_true, if_false, hw, beq_iff_eq, if_neg hmonitor]
    rw [hadded, hq]
    rfl
  have htuner : q.tuner t = { p.tuner t with claims := [⟨w, false⟩] } := by rw [hq]; cases t <;> rfl
  obtain ⟨tu, lb, e, htuners, hmem, hlink⟩ := tuneStart_sent (t := t) (c := c) (note := some z) (p := q)
    (by rw [hq]; exact ha) (by rw [htuner]; exact hr)
  refine ⟨tu, p.stm.follow.set t (p.follow t).ended, lb, ?_, ?_, hmem, fun h1 h2 => ?_, fun u => ?_⟩
  · rw [hgrant, e, hq]
  · rw [htuners, htuner, hq]
    cases t <;> rfl
  · exact hlink (by rw [hq]; exact h1) (by rw [hq]; exact h2)
  · rw [PerTuner.get_set]
    split
    · exact .inr rfl
    · exact .inl rfl

/-! ### The arbiter where both tuners are free -/

/-- No tuner serves a channel while neither plays. -/
theorem serves_free {p : Part} (hf : p.tunersFree = true) (t : TunerId) (c : Chan) : p.serves t c = false := by
  obtain ⟨-, htuners⟩ := tunersFree_iff.mp hf
  simp [Part.serves, (htuners t).1]

/-- Of two free tuners the first that has an address is taken (R68). -/
theorem arbitrate_free {p : Part} {t : TunerId} (hm : p.pwc.mode = .active) (hf : p.tunersFree = true)
    (ha : p.hasAddress t = true) (hb : t = .b → p.hasAddress .a = false) (w : Claimant) (c : Chan)
    (excluded : Option TunerId) (mayShare : Bool) : p.arbitrate w c excluded mayShare = some (t, false) := by
  obtain ⟨-, htuners⟩ := tunersFree_iff.mp hf
  have hactive : p.isActive = true := by simp [Part.isActive, hm]
  cases t with
  | a => simp [Part.arbitrate, hactive, serves_free hf, Part.idleFree, (htuners .a).1, ha]
  | b => simp [Part.arbitrate, hactive, serves_free hf, Part.idleFree, (htuners .b).1, ha, hb rfl]

/-! ### Stations by name -/

/-- A zone's record with the station entry that holds a channel (R71). -/
def Part.naming (p : Part) (c : Chan) (r : Zone) : Zone :=
  { r with station := p.holderOf c, code := ((p.holderOf c).bind p.station).map Station.code }

theorem naming_of_tst {p q : Part} (h : q.tst = p.tst) (c : Chan) (r : Zone) : q.naming c r = p.naming c r := by
  unfold Part.naming Part.holderOf Part.station
  rw [h]

/-- With no error standing, naming a station reads the tables as they are. -/
theorem nameStation_clean {z : ZoneId} {c : Chan} {p : Part} (hl : p.tst.latent = []) :
    nameStation z c p = p.setZone z (p.naming c (p.zone z)) := by
  simp only [nameStation, readHolder_clean c hl]
  rfl

/-- A zone's claim on a free tuner, where both are free (R70 to R72). -/
theorem withdraw_grant_free {w : Claimant} {z : ZoneId} {c : Chan} {t : TunerId} {p : Part} (hw : claimantOf z = some w)
    (hf : p.tunersFree = true) (ha : p.hasAddress t = true) :
    ∃ tu f lb, grant w c t false (withdraw w p) = { p with
        zmx := { p.zmx with zones := .of fun x =>
          if x = z then { p.zone z with att := some t, att2 := none, held := none } else detached z x (p.zone x) }
        tuc := tu, stm := { p.stm with follow := f, labels := lb } }
      ∧ tu.tuners = p.tuc.tuners.set t (tunedRecord c (some z) false { p.tuner t with claims := [⟨w, false⟩] })
      ∧ (t, LinkCmd.tune c) ∈ tu.link.toList ++ tu.queue
      ∧ (p.tuc.link = none → p.tuc.queue = [] → tu.link = some (t, .tune c) ∧ tu.queue = [])
      ∧ ∀ u, f.get u = p.follow u ∨ (f.get u).lowTimer = false := by
  obtain ⟨hzone, hlistens⟩ := zone_of_claimant hw
  obtain ⟨hgrants, htuners⟩ := tunersFree_iff.mp hf
  obtain ⟨hidle, hclaims, hretry, hseek, hnote, -⟩ := htuners t
  obtain ⟨q, hq⟩ : ∃ q, q = withdraw w p := ⟨_, rfl⟩
  have hqeq := hq.trans (withdraw_free hzone hf)
  obtain ⟨tu, f, lb, e, h1, h2, h3, h4⟩ := grant_free (w := w) (z := z) (c := c) (t := t) (p := q) hzone
    (by rw [hqeq]; simp [hgrants]) (by rw [hqeq]; exact hclaims) (by rw [hqeq]; exact hnote) (by rw [hqeq]; exact hseek)
    (by rw [hqeq]; exact hretry) (by rw [hqeq]; exact fun u => (htuners u).2.2.2.2.2) (by rw [hqeq]; exact ha)
  rw [hqeq] at h1 h3 h4
  refine ⟨tu, f, lb, ?_, h1, h2, h3, h4⟩
  rw [← hq, e, hqeq]
  have hzones : (PerZone.set (.of fun x => detached z x (p.zone x)) z
      { detached z z (p.zone z) with att := some t, att2 := none, held := none })
      = .of fun x => if x = z then { p.zone z with att := some t, att2 := none, held := none }
          else detached z x (p.zone x) := by
    refine PerZone.ext_get fun x => ?_
    rw [PerZone.get_set, PerZone.get_of, PerZone.get_of]
    simp only [detached, true_or, if_true]
    rfl
  simp only [attach, Part.setZone, Part.zone, PerZone.get_of]
  exact congrArg (fun zs => ({ p with
    zmx := { p.zmx with zones := zs }, tuc := tu, stm := { p.stm with follow := f, labels := lb } } : Part)) hzones

/-- A zone's record attached to tuner `t` alone (R75). -/
def Zone.on (t : TunerId) (r : Zone) : Zone := { r with att := some t, att2 := none, held := none }

/-- The same with the zone's record changed by `k` and its station named: every block it leaves. -/
theorem named_grant_free {w : Claimant} {z : ZoneId} {c : Chan} {t : TunerId} {p g : Part} (k : Zone → Zone)
    (hw : claimantOf z = some w) (hf : p.tunersFree = true) (ha : p.hasAddress t = true) (hl : p.tst.latent = [])
    (hg : g = grant w c t false (withdraw w p)) :
    ∃ tu f lb, nameStation z c (g.setZone z (k (g.zone z))) = { p with
        zmx := { p.zmx with zones := .of fun x =>
          if x = z then p.naming c (k ((p.zone z).on t)) else detached z x (p.zone x) }
        tuc := tu, stm := { p.stm with follow := f, labels := lb } }
      ∧ tu.tuners = p.tuc.tuners.set t (tunedRecord c (some z) false { p.tuner t with claims := [⟨w, false⟩] })
      ∧ (t, LinkCmd.tune c) ∈ tu.link.toList ++ tu.queue
      ∧ (p.tuc.link = none → p.tuc.queue = [] → tu.link = some (t, .tune c) ∧ tu.queue = [])
      ∧ ∀ u, f.get u = p.follow u ∨ (f.get u).lowTimer = false := by
  obtain ⟨tu, f, lb, e, h1, h2, h3, h4⟩ := withdraw_grant_free (c := c) hw hf ha
  have hgeq := hg.trans e
  refine ⟨tu, f, lb, ?_, h1, h2, h3, h4⟩
  have htst : g.tst = p.tst := by rw [hgeq]
  have hlatent : (g.setZone z (k (g.zone z))).tst.latent = [] := by
    rw [show (g.setZone z (k (g.zone z))).tst = p.tst from htst]
    exact hl
  rw [nameStation_clean hlatent, naming_of_tst (show (g.setZone z (k (g.zone z))).tst = p.tst from htst),
    Part.zone_setZone_self]
  have hzones : ∀ r : Zone, ((g.setZone z (k (g.zone z))).setZone z r)
      = { g with zmx := { p.zmx with zones := .of fun x => if x = z then r else detached z x (p.zone x) } } := by
    intro r
    have hset : ((g.zmx.zones.set z (k (g.zone z))).set z r)
        = .of fun x => if x = z then r else detached z x (p.zone x) := by
      refine PerZone.ext_get fun x => ?_
      rw [PerZone.get_set, PerZone.get_set, PerZone.get_of]
      by_cases hx : x = z
      · rw [if_pos hx, if_pos hx]
      · rw [if_neg hx, if_neg hx, if_neg hx, hgeq]
        simp [hx]
    have hzmx : g.zmx = { p.zmx with zones := g.zmx.zones } := by rw [hgeq]
    show { g with zmx := { g.zmx with zones := (g.zmx.zones.set z (k (g.zone z))).set z r } } = _
    rw [hset, hzmx]
  have hzone : g.zone z = (p.zone z).on t := by
    rw [hgeq]
    simp [Part.zone, Zone.on]
  rw [hzones, hzone, hgeq]

/-- What a claim granted on a free tuner leaves: the claimed tuner TUNING, the other as it was. -/
theorem tuners_of_grant {t : TunerId} {c : Chan} {z : ZoneId} {w : Claimant} {p q : Part}
    (h : q.tuc.tuners = p.tuc.tuners.set t (tunedRecord c (some z) false { p.tuner t with claims := [⟨w, false⟩] })) :
    q.tuner t = tunedRecord c (some z) false { p.tuner t with claims := [⟨w, false⟩] }
      ∧ q.tuner t.other = p.tuner t.other := by
  unfold Part.tuner
  rw [h]
  cases t <;> exact ⟨rfl, rfl⟩

theorem eq_or_other (t u : TunerId) : u = t ∨ u = t.other := by
  cases t <;> cases u <;> simp [TunerId.other]

end Sys2Proof.Machine
end

section
/-! PROOFS. What a change of the call zones does to the seats (R139, R143, R145). -/

namespace Sys2Proof.Machine

/-! ### Seat by seat -/

/-- A step seat by seat under a path signature: it changes the seat's record by `g`, and takes the talker where its seat
is among `lost`. -/
def StepsSeats (sig : Signature) (f : Part → Seat → Part) (g : Seat → SeatRt → SeatRt) (lost : Seat → Bool) : Prop :=
  ∀ q k, q.clp.sig = sig → ∃ n gate, f q k = { q with
    clp := { q.clp with
      seats := q.clp.seats.set k (g k (q.seat k))
      talker := q.clp.talker.filter fun j => !(j == k && lost k)
      aboveGate := gate }
    nfu := n }

/-- What is filtered seat by seat is filtered at once. -/
theorem filter_seats (lost : Seat → Bool) (o : Option Seat) :
    (((o.filter fun j => !(j == .driver && lost .driver)).filter
    fun j => !(j == .passenger && lost .passenger)).filter fun j => !(j == .rearLeft && lost .rearLeft)).filter
      (fun j => !(j == .rearRight && lost .rearRight)) = o.filter fun j => !lost j := by
  cases o with
  | none => rfl
  | some k => cases hk : lost k <;> cases k <;> simp [Option.filter, hk]

/-- All four seats stepped. -/
theorem StepsSeats.all {sig : Signature} {f : Part → Seat → Part} {g : Seat → SeatRt → SeatRt} {lost : Seat → Bool}
    (hf : StepsSeats sig f g lost) {q : Part} (hs : q.clp.sig = sig) :
    ∃ n gate, Seat.all.foldl f q = { q with
      clp := { q.clp with
        seats := .of fun k => g k (q.seat k)
        talker := q.clp.talker.filter fun j => !lost j
        aboveGate := gate }
      nfu := n } := by
  obtain ⟨n1, g1, e1⟩ := hf q .driver hs
  obtain ⟨n2, g2, e2⟩ := hf (f q .driver) .passenger (by rw [e1]; exact hs)
  obtain ⟨n3, g3, e3⟩ := hf (f (f q .driver) .passenger) .rearLeft (by rw [e2, e1]; exact hs)
  obtain ⟨n4, g4, e4⟩ := hf (f (f (f q .driver) .passenger) .rearLeft) .rearRight (by rw [e3, e2, e1]; exact hs)
  refine ⟨n4, g4, ?_⟩
  show f (f (f (f q .driver) .passenger) .rearLeft) .rearRight = _
  rw [e4, e3, e2, e1]
  simp only [filter_seats]
  rfl

/-! ### The path signature -/

/-- A seat's record under a path signature, new or not (R145). -/
def SeatRt.under (old new : Signature) (r : SeatRt) : SeatRt :=
  if old = new ∨ r.context = .reset then r else r.trained new

theorem filter_kept (k : Seat) (o : Option Seat) : (o.filter fun j => !(j == k && false)) = o := by cases o <;> simp

theorem retrain_steps {sig old : Signature} (h : old ≠ sig) :
    StepsSeats sig (retrain sig) (fun _ => SeatRt.under old sig) fun _ => false := by
  intro q k _
  by_cases hr : (q.seat k).context = .reset
  · refine ⟨q.nfu, q.clp.aboveGate, ?_⟩
    have hsame : (q.seat k).under old sig = q.seat k := if_pos (.inr hr)
    dsimp only
    rw [filter_kept, hsame, show retrain sig q k = q by simp [retrain, hr], Part.seat, PerSeat.set_get]
  · have hnew : (q.seat k).under old sig = (q.seat k).trained sig := if_neg (by simp [h, hr])
    dsimp only
    rw [filter_kept, hnew, show retrain sig q k = changeContext k (SeatRt.trained sig) q by simp [retrain, hr],
      changeContext_only]
    exact ⟨_, _, rfl⟩

theorem changeContext_nfu (k : Seat) (f : SeatRt → SeatRt) (p : Part) :
    ∃ n, changeContext k f p = { p.setSeat k (f (p.seat k)) with nfu := n } :=
  ⟨_, changeContext_only k f p⟩

/-- A new path signature, seat by seat. -/
theorem setSignature_seats {sig : Signature} {p : Part} (hl : p.tst.latent = []) :
    ∃ u n gate, setSignature sig p = { p with
      clp := { p.clp with
        sig := sig, uplinkCode := u, aboveGate := gate
        seats := .of fun k => (p.seat k).under p.clp.sig sig }
      nfu := n } := by
  by_cases h : p.clp.sig = sig
  · refine ⟨p.clp.uplinkCode, p.nfu, p.clp.aboveGate, ?_⟩
    have hseats : (PerSeat.of fun k => (p.seat k).under p.clp.sig sig) = p.clp.seats := by
      simp only [SeatRt.under, h, true_or, if_true]
      rfl
    rw [hseats, setSignature, if_pos h, ← h]
  · obtain ⟨b, hb⟩ : ∃ b : Part, b = { p with clp := { p.clp with sig := sig } } := ⟨_, rfl⟩
    obtain ⟨r, hr⟩ : ∃ r, r = Seat.all.foldl (retrain sig) b := ⟨_, rfl⟩
    obtain ⟨n, gate, e⟩ := (retrain_steps h).all (q := b) (by rw [hb])
    have hr' := hr.trans e
    have hset : setSignature sig p = setUplink r := by
      simp only [setSignature, if_neg h, hr, hb]
      rfl
    have htalker : (b.clp.talker.filter fun _ => !false) = b.clp.talker := by cases b.clp.talker <;> rfl
    refine ⟨uplinkOf r, n, gate, ?_⟩
    rw [hset, setUplink_clean (by rw [hr', hb]; exact hl),
      show recodeUplink r = { r with clp := { r.clp with uplinkCode := uplinkOf r } } from rfl]
    generalize uplinkOf r = u
    rw [hr', htalker, hb]
    rfl

/-! ### Admission -/

/-- A seat's record as its admission changes or stays (R139). -/
def SeatRt.admitted (sig : Signature) (before now : Bool) (r : SeatRt) : SeatRt :=
  if now && !before then r.trained sig else if before && !now then r.cleared else r

/-- Admission recomputed, one seat. -/
def readmitSeat (before now : PerSeat Bool) (q : Part) (k : Seat) : Part :=
  if now.get k && !before.get k then changeContext k (SeatRt.trained q.clp.sig) q
  else if before.get k && !now.get k then unadmit k q
  else q

theorem unadmit_only (k : Seat) (q : Part) : ∃ n gate, unadmit k q = { q with
    clp := { q.clp with
      seats := q.clp.seats.set k (q.seat k).cleared
      talker := q.clp.talker.filter fun j => !(j == k && true)
      aboveGate := gate }
    nfu := n } := by
  unfold unadmit
  rw [changeContext_only]
  by_cases ht : q.clp.talker = some k
  · have hgone : (q.clp.talker.filter fun j => !(j == k && true)) = none := by simp [ht, Option.filter]
    rw [hgone]
    dsimp only
    rw [if_pos (show ((q.setSeat k (q.seat k).cleared).clp.talker == some k) = true by
      rw [beq_iff_eq]; exact ht)]
    exact ⟨_, _, rfl⟩
  · have hkept : (q.clp.talker.filter fun j => !(j == k && true)) = q.clp.talker := by
      cases hk : q.clp.talker with
      | none => rfl
      | some j => simp [Option.filter, show j ≠ k by rintro rfl; exact ht hk]
    rw [hkept]
    dsimp only
    rw [if_neg (show ¬((q.setSeat k (q.seat k).cleared).clp.talker == some k) = true by
      rw [beq_iff_eq]; exact ht)]
    exact ⟨_, _, rfl⟩

theorem readmitSeat_steps (sig : Signature) (before now : PerSeat Bool) : StepsSeats sig (readmitSeat before now)
    (fun k => SeatRt.admitted sig (before.get k) (now.get k)) fun k => before.get k && !now.get k := by
  rintro q k rfl
  unfold readmitSeat
  dsimp only
  generalize now.get k = n
  generalize before.get k = b
  have hsame : q = { q with clp := { q.clp with
      seats := q.clp.seats.set k (q.seat k), talker := q.clp.talker.filter fun j => !(j == k && false) } } := by
    rw [filter_kept, Part.seat, PerSeat.set_get]
  cases n <;> cases b
  · exact ⟨q.nfu, q.clp.aboveGate, hsame⟩
  · exact unadmit_only k q
  · obtain ⟨n, e⟩ := changeContext_nfu k (SeatRt.trained q.clp.sig) q
    refine ⟨n, q.clp.aboveGate, ?_⟩
    rw [show (q.clp.talker.filter fun j => !(j == k && (false && !true))) = q.clp.talker from filter_kept k _]
    exact e
  · exact ⟨q.nfu, q.clp.aboveGate, hsame⟩

/-- Admission recomputed, seat by seat. -/
theorem readmit_seats {p : Part} (hl : p.tst.latent = []) :
    ∃ u n gate, readmit p = { p with
      clp := { p.clp with
        admitted := admittedOf p, uplinkCode := u, aboveGate := gate
        talker := p.clp.talker.filter fun j => !(p.clp.admitted.get j && !(admittedOf p).get j)
        seats := .of fun k => (p.seat k).admitted p.clp.sig (p.clp.admitted.get k) ((admittedOf p).get k) }
      nfu := n } := by
  obtain ⟨b, hb⟩ : ∃ b : Part, b = { p with clp := { p.clp with admitted := admittedOf p } } := ⟨_, rfl⟩
  obtain ⟨r, hr⟩ : ∃ r, r = Seat.all.foldl (readmitSeat p.clp.admitted (admittedOf p)) b := ⟨_, rfl⟩
  obtain ⟨n, gate, e⟩ := (readmitSeat_steps p.clp.sig p.clp.admitted (admittedOf p)).all (q := b) (by rw [hb])
  have hr' := hr.trans e
  have hset : readmit p = setUplink r := by rw [hr, hb]; rfl
  refine ⟨uplinkOf r, n, gate, ?_⟩
  rw [hset, setUplink_clean (by rw [hr', hb]; exact hl),
    show recodeUplink r = { r with clp := { r.clp with uplinkCode := uplinkOf r } } from rfl]
  generalize uplinkOf r = u
  rw [hr', hb]
  rfl

/-! ### The call zones -/

/-- A new call zone set, seat by seat (R135 to R139). -/
theorem setCallZones_follows {zs : ZoneSet} {p : Part} (hl : p.tst.latent = []) :
    ∃ q, setCallZones zs p = q ∧ q = { p with clp := q.clp, nfu := q.nfu } ∧ q.clp.zones = zs
      ∧ q.clp.state = p.clp.state ∧ q.clp.isPrivate = p.clp.isPrivate ∧ q.clp.ringTag = p.clp.ringTag
      ∧ q.clp.lastTalker = p.clp.lastTalker
      ∧ q.clp.admitted = admittedOf { p with clp := { p.clp with zones := zs } } ∧ p.seatsFollow q := by
  obtain ⟨b, hb⟩ : ∃ b : Part, b = { p with clp := { p.clp with zones := zs } } := ⟨_, rfl⟩
  obtain ⟨sig, hsig⟩ : ∃ sig, sig = { b.clp.sig with zones := zs } := ⟨_, rfl⟩
  obtain ⟨u1, n1, g1, e1⟩ := setSignature_seats (sig := sig) (p := b) (by rw [hb]; exact hl)
  obtain ⟨u2, n2, g2, e2⟩ := readmit_seats (p := setSignature sig b) (by rw [e1, hb]; exact hl)
  obtain ⟨q, hq⟩ : ∃ q, q = setCallZones zs p := ⟨_, rfl⟩
  have hset : q = readmit (setSignature sig b) := by rw [hq, hsig, hb]; rfl
  rw [e2, e1] at hset
  have hadmitted : admittedOf (setSignature sig b) = admittedOf b := by rw [e1]; rfl
  rw [e1] at hadmitted
  rw [hadmitted] at hset
  refine ⟨q, hq.symm, ?_, ?_, ?_, ?_, ?_, ?_, ?_, ?_⟩
  · rw [hset, hb]
  · rw [hset, hb]
  · rw [hset, hb]
  · rw [hset, hb]
  · rw [hset, hb]
  · rw [hset, hb]
  · rw [hset, hb]
  · have hseat (k : Seat) : q.seat k = ((p.seat k).under p.clp.sig q.clp.sig).admitted q.clp.sig
        (p.clp.admitted.get k) (q.clp.admitted.get k) := by
      rw [hset, hb]
      simp [Part.seat]
    refine ⟨?_, fun k h1 h2 => ?_, fun k h1 h2 => ?_, fun k h => ?_, ?_⟩
    · rw [hset, hsig, hb]
    · rw [hseat, h1, h2]
      exact ⟨rfl, rfl⟩
    · rw [hseat, h1, h2]
      exact ⟨rfl, rfl⟩
    · have hsame : q.seat k = (p.seat k).under p.clp.sig q.clp.sig := by
        rw [hseat, h]
        cases p.clp.admitted.get k <;> rfl
      rw [hsame]
      by_cases hu : q.clp.sig = p.clp.sig ∨ (p.seat k).context = .reset
      · rw [if_pos hu]
        exact if_pos (hu.imp_left Eq.symm)
      · rw [if_neg hu, SeatRt.under, if_neg fun h => hu (h.imp_left Eq.symm)]
        exact ⟨rfl, rfl⟩
    · have hkept : q.clp.talker = p.clp.talker.filter fun k => !(p.clp.admitted.get k && !q.clp.admitted.get k) := by
        rw [hset, hb]
      have hsame : (fun k => !(p.clp.admitted.get k && !q.clp.admitted.get k))
          = fun k => q.clp.admitted.get k || !p.clp.admitted.get k := by
        funext k
        cases p.clp.admitted.get k <;> simp
      rw [hkept, hsame]

/-- The admitted seats of a call that stands, by Table 8.5. -/
theorem admittedOf_call {p : Part} (h : p.clp.state = .active ∨ p.clp.state = .held) :
    admittedOf p = if p.clp.isPrivate = true then ⟨true, false, false, false⟩ else
      ⟨p.clp.zones.front || p.clp.zones.driver, p.clp.zones.front, p.clp.zones.hpLeft || p.clp.zones.rearCabin,
        p.clp.zones.hpRight || p.clp.zones.rearCabin⟩ := by
  have hon : (p.clp.state == .active || p.clp.state == .held) = true := by simpa using h
  unfold admittedOf
  simp only [hon, Bool.true_and]
  cases p.clp.isPrivate with
  | true => simp
  | false =>
    simp only [Bool.false_or, Bool.not_false, Bool.true_and, Bool.false_eq_true, if_false]
    rfl

end Sys2Proof.Machine
end

section
/-! PROOFS. The zone requests: ZONE_POWER (O22, O23), ZONE_SOURCE (O24), ZONE_VOLUME and ZONE_MUTE (O25). -/

namespace Sys2Proof.Machine

/-! ### What an owner's answer leaves to settle -/

/-- An owner's answer in whose part the Station Manager keeps nothing up: the reports it queues, and no more. -/
theorem settling_quiet {f : Part → Result × Part} {p q : Part} {r : Result} (h : f p = (r, q)) (hq : q.quiet = true) :
    settling f p = { result := r, part := noteReports p q } := by
  simp only [settling, settled, answer, h, stmSettle_quiet hq]

/-- A refusal that leaves the part as it is, with nothing to keep up. -/
theorem settling_refused {f : Part → Result × Part} {p : Part} {r : Result} (h : f p = (r, p)) (hq : p.quiet = true) :
    settling f p = { result := r, part := p } := by
  rw [settling_quiet h hq, noteReports_same fun _ => rfl]

theorem holding_none_iff {p : Part} {w : Claimant} :
    p.holding w = none ↔ ∀ t, ∀ c ∈ (p.tuner t).claims, c.who = w → c.prov = true := by
  have hall {P : TunerId → Prop} : (∀ t, P t) ↔ P .a ∧ P .b :=
    ⟨fun h => ⟨h .a, h .b⟩, fun ⟨ha, hb⟩ t => by cases t <;> assumption⟩
  simp [Part.holding, TunerId.all, hall]

/-- What the Station Manager keeps up nothing of stays so while the tables stay, no WATCH and no BACKGROUND claim is
added, and no low-quality timer starts. -/
theorem quiet_of {p q : Part} (h : p.quiet = true) (ht : q.tst = p.tst)
    (hl : q.stm.bulletin.latch = p.stm.bulletin.latch) (hw : q.stm.watch = p.stm.watch)
    (hs : q.stm.watchState = p.stm.watchState)
    (hc : ∀ t, ∀ c ∈ (q.tuner t).claims, c.who = .watch ∨ c.who = .background → c ∈ (p.tuner t).claims)
    (hf : ∀ t, q.follow t = p.follow t ∨ (q.follow t).lowTimer = false) : q.quiet = true := by
  obtain ⟨h1, h2, h3, h4, h5, h6, h7⟩ := quiet_iff.mp h
  have hradio : q.radioCfg = p.radioCfg := by unfold Part.radioCfg Part.unitPoisoned; rw [ht]
  refine quiet_iff.mpr ⟨by rwa [hl], by rwa [hw], by rwa [hs], ?_, ?_, by rwa [hradio], fun t => ?_⟩
  · exact holding_none_iff.mpr fun t c hm hwho => holding_none_iff.mp h4 t c (hc t c hm (.inl hwho)) hwho
  · exact holding_none_iff.mpr fun t c hm hwho => holding_none_iff.mp h5 t c (hc t c hm (.inr hwho)) hwho
  · rcases hf t with hsame | hoff
    · rw [hsame, h7]
    · exact hoff

theorem zoneOf_zoneCode (z : ZoneId) : zoneOf (zoneCode z) = some z := by cases z <;> rfl

theorem onZone_zoneCode (z : ZoneId) (f : ZoneId → Part → Result × Part) (p : Part) :
    onZone (zoneCode z) f p = f z p := by
  simp only [onZone, zoneOf_zoneCode]

theorem onZone_unknown {n : Nat} (h : 6 ≤ n) (f : ZoneId → Part → Result × Part) (p : Part) :
    onZone n f p = (.badValue, p) := by
  match n, h with
  | n + 6, _ => rfl

/-! ### ZONE_POWER -/

theorem exec_zonePower {h : ReqHeader} {n v : Nat} {p : Part} (w : List Instr) (ht : p.takes 0x20 h = true) :
    exec (.zonePower h n v) ⟨p, w⟩ = .next ⟨answered 0x20 h (settling (zonePowerRequest n v) p).result
      (settling (zonePowerRequest n v) p).body (settling (zonePowerRequest n v) p).part, w⟩ :=
  congrArg (fun q => Host.Outcome.next (⟨q, w⟩ : State)) (ringRequest_taken ht (by decide))

/-- A ZONE_POWER whose effect leaves the Station Manager nothing to keep up. -/
theorem exec_zonePower_done {h : ReqHeader} {z : ZoneId} {v : Bool} {p q : Part} {r : Result} (w : List Instr)
    (ht : p.takes 0x20 h = true) (hz : zonePower z v p = (r, q)) (hq : q.quiet = true) :
    exec (.zonePower h (zoneCode z) (codeOfBool v)) ⟨p, w⟩ = .next ⟨answered 0x20 h r [] (noteReports p q), w⟩ := by
  have hrequest : zonePowerRequest (zoneCode z) (codeOfBool v) p = (r, q) := by
    rw [← hz, ← onZone_zoneCode z (fun z => zonePower z v) p]
    cases v <;> rfl
  rw [exec_zonePower w ht, settling_quiet hrequest hq]

/-- CARGO without its auto-on mark; any other zone as it is (R33). -/
def unmarked (z : ZoneId) (p : Part) : Part := if z == .cargo then p.setZone z { p.zone z with autoOn := false } else p

theorem zonePower_on {z : ZoneId} {p : Part} (h : needsActive z = false ∨ p.pwc.mode = .active) :
    zonePower z true p = (.ok, if (p.zone z).state = .off then powerOnZone z (unmarked z p) else unmarked z p) := by
  have hok : (true && needsActive z && !p.isActive) = false := by
    rcases h with h | h
    · simp [h]
    · simp [Part.isActive, h]
  have hstate : ((unmarked z p).zone z).state = (p.zone z).state := by
    unfold unmarked
    split <;> simp
  simp only [zonePower, hok, Bool.false_eq_true, if_false, Bool.not_true]
  show (if ((unmarked z p).zone z).state == .off then (Result.ok, powerOnZone z (unmarked z p))
    else (Result.ok, unmarked z p)) = _
  rw [hstate]
  simp only [beq_iff_eq]
  split <;> rfl

theorem zonePower_off (z : ZoneId) (p : Part) : zonePower z false p = (.ok, powerOff z (unmarked z p)) := rfl

theorem unmarked_of_ne {z : ZoneId} (p : Part) (h : z ≠ .cargo) : unmarked z p = p := by simp [unmarked, h]

theorem ownSource_iff {z : ZoneId} : z.ownSource = true ↔ ∃ w, claimantOf z = some w := by
  cases z <;> simp [ZoneId.ownSource, claimantOf]

theorem claimantOf_eq_none {z : ZoneId} (h : z.ownSource = false) : claimantOf z = none :=
  Option.eq_none_iff_forall_ne_some.mpr fun a ha => by
    rw [ownSource_iff.mpr ⟨a, ha⟩] at h
    cases h

theorem setZone_setZone (p : Part) (z : ZoneId) (a b : Zone) : (p.setZone z a).setZone z b = p.setZone z b := by
  cases z <;> rfl

/-- A follower that is OFF takes FRONT's programme and state; ZONE_LOST is posted where that is LOST (R28). -/
theorem followFront_off {z : ZoneId} {p : Part} (hoff : (p.zone z).state = .off) : followFront z p =
    let q := p.setZone z { p.zone z with
      source := (p.zone .front).source, chan := (p.zone .front).chan, station := (p.zone .front).station
      code := (p.zone .front).code, step := (p.zone .front).step, att := (p.zone .front).att
      att2 := (p.zone .front).att2, held := (p.zone .front).held, state := followerState (p.zone .front).state }
    if (p.zone .front).state = .lost then q.post .zoneLost (zoneCode z) else q := by
  have hlost : (followerState (p.zone .front).state == .lost && (p.zone z).state != .lost)
      = decide ((p.zone .front).state = .lost) := by
    rw [hoff]
    cases (p.zone .front).state <;> rfl
  simp only [followFront, enterState, Part.zone_setZone_self, setZone_setZone, hlost, decide_eq_true_eq]

/-- RADIO switched on with a claim granted. -/
theorem powerRadio_granted {z : ZoneId} {p b : Part} {c : Chan} {a : Claimant} {t : TunerId} {shared : Bool}
    (hb : b = p.setZone z { p.zone z with state := .pending }) (hc : (p.zone z).chan = some c)
    (ha : claimantOf z = some a)
    (harb : b.arbitrate a c none true = some (t, shared)) : powerRadio z p = grantZone z c t shared b := by
  unfold powerRadio
  rw [hc, ha]
  dsimp only
  split
  · rename_i t' shared' h
    have heq : some (t, shared) = some (t', shared') := by rw [← harb, ← h, hb]
    obtain ⟨rfl, rfl⟩ := Prod.mk.inj (Option.some.inj heq)
    rw [hb]
  · rename_i h
    have heq : some (t, shared) = none := by rw [← harb, ← h, hb]
    cases heq

/-- RADIO switched on with the claim refused. -/
theorem powerRadio_refused {z : ZoneId} {p b : Part} {c : Chan} {a : Claimant}
    (hb : b = p.setZone z { p.zone z with state := .pending }) (hc : (p.zone z).chan = some c)
    (ha : claimantOf z = some a)
    (harb : b.arbitrate a c none true = none) : powerRadio z p = b := by
  unfold powerRadio
  rw [hc, ha]
  dsimp only
  split
  · rename_i t' shared' h
    have heq : none = some (t', shared') := by rw [← harb, ← h, hb]
    cases heq
  · rw [hb]

/-! ### Switching on -/

section
variable {h : ReqHeader} {z : ZoneId} {p : Part} (w : List Instr) (ht : p.takes 0x20 h = true)
include ht

/-- A zone switched on that is OFF. -/
theorem exec_zonePower_on {q : Part} (hm : needsActive z = false ∨ p.pwc.mode = .active)
    (hoff : (p.zone z).state = .off)
    (hon : powerOnZone z (unmarked z p) = q) (hquiet : q.quiet = true) :
    exec (.zonePower h (zoneCode z) 1) ⟨p, w⟩ = .next ⟨answered 0x20 h .ok [] (noteReports p q), w⟩ :=
  exec_zonePower_done (v := true) w ht (by rw [zonePower_on hm, if_pos hoff, hon]) hquiet

variable (hq : p.quiet = true)
include hq

/-- A zone switched on that is on. -/
theorem exec_zonePower_on_again (hm : needsActive z = false ∨ p.pwc.mode = .active) (hon : (p.zone z).state ≠ .off) :
    exec (.zonePower h (zoneCode z) 1) ⟨p, w⟩
      = .next ⟨answered 0x20 h .ok [] (noteReports p (unmarked z p)), w⟩ := by
  refine exec_zonePower_done (v := true) w ht (by rw [zonePower_on hm, if_neg hon]) ?_
  unfold unmarked
  split <;> exact hq

theorem exec_zonePower_on_refused (hz : needsActive z = true) (hm : p.pwc.mode ≠ .active) :
    exec (.zonePower h (zoneCode z) 1) ⟨p, w⟩ = .next ⟨answered 0x20 h .power [] p, w⟩ := by
  have hr : zonePower z true p = (.power, p) := by simp [zonePower, hz, Part.isActive, hm]
  rw [show (1 : Nat) = codeOfBool true from rfl, exec_zonePower_done w ht hr hq, noteReports_same fun _ => rfl]

/-- A follower switched on. -/
theorem exec_zonePower_follower (hm : needsActive z = false ∨ p.pwc.mode = .active) (hoff : (p.zone z).state = .off)
    (hf : z.follows = true) :
    exec (.zonePower h (zoneCode z) 1) ⟨p, w⟩ = .next ⟨answered 0x20 h .ok [] (noteReports p
      (let q := p.setZone z { p.zone z with
        source := (p.zone .front).source, chan := (p.zone .front).chan, station := (p.zone .front).station
        code := (p.zone .front).code, step := (p.zone .front).step, att := (p.zone .front).att
        att2 := (p.zone .front).att2, held := (p.zone .front).held
        autoOn := if z = .cargo then false else (p.zone z).autoOn, state := followerState (p.zone .front).state }
      if (p.zone .front).state = .lost then q.post .zoneLost (zoneCode z) else q)), w⟩ := by
  refine exec_zonePower_on w ht hm hoff ?_ (by dsimp only; split <;> exact hq)
  have hoff' : ((unmarked z p).zone z).state = .off := by
    unfold unmarked
    split <;> simp [hoff]
  unfold powerOnZone
  rw [if_pos hf, followFront_off hoff']
  cases z with
  | front | hpLeft | hpRight | driver => cases hf
  | rearCabin => rfl
  | cargo => rfl

/-- In ACTIVE a zone that remembers RADIO takes the first free tuner (R23, R68). -/
theorem exec_zonePower_radio {c : Chan} {a : Claimant} {t : TunerId} (hoff : (p.zone z).state = .off)
    (hsource : (p.zone z).source = .radio) (hchan : (p.zone z).chan = some c) (ha : claimantOf z = some a)
    (hm : p.pwc.mode = .active) (hf : p.tunersFree = true) (hl : p.tst.latent = []) (haddr : p.hasAddress t = true)
    (hb : t = .b → p.hasAddress .a = false) :
    ∃ q, exec (.zonePower h (zoneCode z) 1) ⟨p, w⟩ = .next ⟨answered 0x20 h .ok [] q, w⟩
      ∧ q.zone z = { p.zone z with
          state := .pending, att := some t, att2 := none, held := none
          station := p.holderOf c, code := ((p.holderOf c).bind p.station).map Station.code }
      ∧ (q.tuner t).claims = [⟨a, false⟩] ∧ (q.tuner t).state = .tuning ∧ (q.tuner t).chan = some c
      ∧ (q.tuner t).note = some z ∧ (q.tuner t).s = 800 ∧ q.tuner t.other = p.tuner t.other
      ∧ (∀ x, x ≠ z → x.follows = false ∨ z ≠ .front → q.zone x = p.zone x)
      ∧ q = { p with zmx := { p.zmx with zones := q.zmx.zones }, tuc := q.tuc, stm := q.stm, rlu := q.rlu } := by
  obtain ⟨b, hbdef⟩ : ∃ b, b = p.setZone z { p.zone z with state := .pending } := ⟨_, rfl⟩
  have hfree : b.tunersFree = true := by rw [hbdef]; exact hf
  have haddr' : b.hasAddress t = true := by rw [hbdef]; exact haddr
  have harb := arbitrate_free (p := b) (t := t) (by rw [hbdef]; exact hm) hfree haddr' (by rw [hbdef]; exact hb) a c
    none true
  obtain ⟨g, hg⟩ : ∃ g, g = grant a c t false (withdraw a b) := ⟨_, rfl⟩
  have hcargo : z ≠ .cargo := by rintro rfl; cases ha
  have hon : powerOnZone z (unmarked z p) = nameStation z c (g.setZone z { g.zone z with chan := some c }) := by
    rw [unmarked_of_ne p hcargo]
    have hown : powerOnZone z p = powerRadio z p := by
      cases z with
      | front | hpLeft | hpRight => simp only [powerOnZone, hsource]; rfl
      | rearCabin | cargo | driver => cases ha
    rw [hown, powerRadio_granted hbdef hchan ha harb]
    simp only [grantZone, ha, ← hg]
  obtain ⟨tu, f, lb, e, htuners, -, -, hfollow⟩ := named_grant_free (fun r => { r with chan := some c }) ha hfree haddr'
    (by rw [hbdef]; exact hl) hg
  obtain ⟨q, hqdef⟩ : ∃ q, q = powerOnZone z (unmarked z p) := ⟨_, rfl⟩
  have hqeq := hqdef.trans (hon.trans e)
  have htuner := tuners_of_grant (p := b) (q := q) (by rw [hqeq]; exact htuners)
  have hquiet : q.quiet = true := by
    refine quiet_of (p := b) (by rw [hbdef]; exact hq) (by rw [hqeq]) (by rw [hqeq]) (by rw [hqeq]) (by rw [hqeq]) ?_ ?_
    · intro u d hd hwho
      rcases eq_or_other t u with rfl | rfl
      · rw [htuner.1] at hd
        obtain rfl := List.mem_singleton.mp hd
        cases z <;> cases ha <;> simp at hwho
      · rwa [htuner.2] at hd
    · intro u
      rw [hqeq]
      exact hfollow u
  have hzones (x : ZoneId) : q.zone x = if x = z then { p.zone z with
      chan := some c, state := .pending, att := some t, att2 := none, held := none
      station := p.holderOf c, code := ((p.holderOf c).bind p.station).map Station.code }
      else detached z x (p.zone x) := by
    rw [hqeq, hbdef]
    simp only [Part.zone, PerZone.get_of]
    split
    · rw [show (Part.setZone _ _ _).zmx.zones.get z = _ from Part.zone_setZone_self _ _ _]
      rfl
    · rename_i hx
      rw [show (Part.setZone _ _ _).zmx.zones.get x = _ from Part.zone_setZone_of_ne _ _ _ _ hx]
      rfl
  obtain ⟨rl, hrl⟩ := noteReports_eq p q
  refine ⟨noteReports p q, exec_zonePower_on w ht (.inr hm) hoff hqdef.symm hquiet, ?_, ?_, ?_, ?_, ?_, ?_, ?_, ?_, ?_⟩
  all_goals rw [hrl]
  · show q.zone z = _
    rw [hzones, if_pos rfl, ← hchan]
  · exact congrArg Tuner.claims htuner.1
  · exact congrArg Tuner.state htuner.1
  · exact congrArg Tuner.chan htuner.1
  · exact congrArg Tuner.note htuner.1
  · exact congrArg Tuner.s htuner.1
  · exact htuner.2.trans (by rw [hbdef]; rfl)
  · intro x hx hfx
    show q.zone x = _
    rw [hzones, if_neg hx, detached, if_neg]
    rintro (h | ⟨h1, h2, -⟩)
    · exact hx h
    · rcases hfx with hfx | hfx
      · rw [h2] at hfx; cases hfx
      · exact hfx h1
  · rw [hqeq, hbdef]
    rfl

/-! ### Switching off -/

omit hq in
/-- A zone switched off, whatever stands behind it. -/
theorem exec_zonePower_off {q : Part} (hoff : powerOff z (unmarked z p) = q) (hquiet : q.quiet = true) :
    exec (.zonePower h (zoneCode z) 0) ⟨p, w⟩ = .next ⟨answered 0x20 h .ok [] (noteReports p q), w⟩ :=
  exec_zonePower_done (v := false) w ht (by rw [zonePower_off, hoff]) hquiet

theorem exec_zonePower_off_again (hoff : (p.zone z).state = .off) :
    exec (.zonePower h (zoneCode z) 0) ⟨p, w⟩
      = .next ⟨answered 0x20 h .ok [] (noteReports p (unmarked z p)), w⟩ := by
  refine exec_zonePower_off w ht ?_ (by unfold unmarked; split <;> exact hq)
  have hoff' : ((unmarked z p).zone z).state = .off := by
    unfold unmarked
    split <;> simp [hoff]
  simp [powerOff, hoff']

/-- A zone without a claim of its own switched off. -/
theorem exec_zonePower_off_plain (hon : (p.zone z).state ≠ .off) (hz : z.ownSource = false) :
    exec (.zonePower h (zoneCode z) 0) ⟨p, w⟩ = .next ⟨answered 0x20 h .ok []
      (noteReports p (p.setZone z { p.zone z with state := .off, autoOn := false })), w⟩ := by
  refine exec_zonePower_off w ht ?_ hq
  have hon' : ((unmarked z p).zone z).state ≠ .off := by
    unfold unmarked
    split <;> simpa using hon
  unfold powerOff
  rw [if_neg (by simpa using hon')]
  cases z with
  | front | hpLeft | hpRight => cases hz
  | rearCabin | driver => rfl
  | cargo => rfl

end

/-- A listening zone as it is switched off, before it leaves the call. -/
theorem powerOff_listener {z : ZoneId} {p : Part} {a : Claimant} (hon : (p.zone z).state ≠ .off)
    (ha : claimantOf z = some a) : powerOff z (unmarked z p) =
      if z.rearSeat?.isSome then
        leaveCall z (withdraw a (p.setZone z { p.zone z with state := .off, autoOn := false }))
      else withdraw a (p.setZone z { p.zone z with state := .off, autoOn := false }) := by
  have hcargo : z ≠ .cargo := by rintro rfl; cases ha
  rw [unmarked_of_ne p hcargo]
  unfold powerOff
  rw [if_neg (by simpa using hon)]
  simp only [withdrawZone, ha]

theorem leaveCall_out {z : ZoneId} {p : Part} (h : p.clp.zones.get z = false) : leaveCall z p = p := by
  simp [leaveCall, h]

/-- A listening zone that is not in the call, or is FRONT, leaves its claim alone. -/
theorem powerOff_listener_out {z : ZoneId} {p : Part} {a : Claimant} (hon : (p.zone z).state ≠ .off)
    (ha : claimantOf z = some a) (hcall : p.clp.zones.get z = false ∨ z = .front) :
    powerOff z (unmarked z p) = withdraw a (p.setZone z { p.zone z with state := .off, autoOn := false }) := by
  rw [powerOff_listener hon ha]
  rcases hcall with hcall | rfl
  · have hclp : (withdraw a (p.setZone z { p.zone z with state := .off, autoOn := false })).clp.zones.get z
      = false := by
      simpa using hcall
    rw [leaveCall_out hclp, ite_self]
  · rfl

/-- The zones as zone `z`, changed to `r`, is detached. -/
theorem zones_detached {z : ZoneId} {p q : Part} {r : Zone}
    (h : q.zmx.zones = .of fun x => detached z x ((p.setZone z r).zone x)) :
    q.zone z = r.loose ∧ ∀ x, x ≠ z → q.zone x =
      if z = .front ∧ x.follows = true ∧ (p.zone x).state ≠ .off then (p.zone x).loose else p.zone x := by
  have hzone (x : ZoneId) : q.zone x = detached z x ((p.setZone z r).zone x) := by
    rw [Part.zone, h, PerZone.get_of]
  constructor
  · rw [hzone, Part.zone_setZone_self, detached, if_pos (.inl rfl)]
  · intro x hx
    simp only [hzone, Part.zone_setZone_of_ne _ _ _ _ hx, detached, hx, false_or]

/-- A listening zone out of the call switched off while both tuners are free. -/
theorem exec_zonePower_off_free {h : ReqHeader} {z : ZoneId} {p : Part} {a : Claimant} (w : List Instr)
    (ht : p.takes 0x20 h = true) (hq : p.quiet = true) (hon : (p.zone z).state ≠ .off) (ha : claimantOf z = some a)
    (hf : p.tunersFree = true) (hcall : p.clp.zones.get z = false ∨ z = .front) :
    ∃ q, exec (.zonePower h (zoneCode z) 0) ⟨p, w⟩ = .next ⟨answered 0x20 h .ok [] q, w⟩
      ∧ q.zone z = { p.zone z with state := .off, autoOn := false, att := none, att2 := none, held := none }
      ∧ (∀ x, x ≠ z → q.zone x =
          if z = .front ∧ x.follows = true ∧ (p.zone x).state ≠ .off then
            { p.zone x with att := none, att2 := none, held := none }
          else p.zone x)
      ∧ q = { p with zmx := { p.zmx with zones := q.zmx.zones }, rlu := q.rlu,
                     tuc := { p.tuc with grants := p.tuc.grants.erase z } } := by
  obtain ⟨b, hb⟩ : ∃ b, b = p.setZone z { p.zone z with state := .off, autoOn := false } := ⟨_, rfl⟩
  obtain ⟨q, hqdef⟩ : ∃ q, q = powerOff z (unmarked z p) := ⟨_, rfl⟩
  have hqeq : q = _ := (hqdef.trans (powerOff_listener_out hon ha hcall)).trans
    (withdraw_free (zone_of_claimant ha).1 hf)
  obtain ⟨hz, hx⟩ := zones_detached (p := p) (q := q) (z := z) (r := { p.zone z with state := .off, autoOn := false })
    (by rw [hqeq])
  have hquiet : q.quiet = true := by rw [hqeq]; exact hq
  obtain ⟨rl, hrl⟩ := noteReports_eq p q
  refine ⟨noteReports p q, exec_zonePower_off w ht hqdef.symm hquiet, ?_, ?_, ?_⟩
  all_goals rw [hrl]
  · exact hz
  · exact hx
  · rw [hqeq]
    rfl

/-- A headphone zone in the call switched off while both tuners are free: it leaves the call (R137). -/
theorem exec_zonePower_off_call {h : ReqHeader} {z : ZoneId} {k : RearSeat} {p : Part} (w : List Instr)
    (ht : p.takes 0x20 h = true) (hq : p.quiet = true) (hk : z.rearSeat? = some k) (hon : (p.zone z).state ≠ .off)
    (hf : p.tunersFree = true) (hcall : p.clp.zones.get z = true) (hl : p.tst.latent = []) :
    ∃ q, exec (.zonePower h (zoneCode z) 0) ⟨p, w⟩ = .next ⟨answered 0x20 h .ok [] q, w⟩
      ∧ q.zone z = { p.zone z with state := .off, autoOn := false, att := none, att2 := none, held := none }
      ∧ (∀ x, x ≠ z → q.zone x = p.zone x)
      ∧ q.clp.zones = p.clp.zones.set z false ∧ q.clp.state = p.clp.state ∧ q.clp.isPrivate = p.clp.isPrivate
      ∧ (p.clp.state = .active ∨ p.clp.state = .held →
          q.clp.admitted = (if p.clp.isPrivate = true then ⟨true, false, false, false⟩ else
            ⟨q.clp.zones.front || q.clp.zones.driver, q.clp.zones.front,
              q.clp.zones.hpLeft || q.clp.zones.rearCabin, q.clp.zones.hpRight || q.clp.zones.rearCabin⟩)
          ∧ p.seatsFollow q)
      ∧ q = { p with zmx := { p.zmx with zones := q.zmx.zones }, rlu := q.rlu, clp := q.clp, nfu := q.nfu,
                     tuc := { p.tuc with grants := p.tuc.grants.erase z } } := by
  obtain ⟨a, ha⟩ : ∃ a, claimantOf z = some a := by cases z <;> cases hk <;> exact ⟨_, rfl⟩
  have hfront : z ≠ .front := by rintro rfl; cases hk
  obtain ⟨b, hb⟩ : ∃ b, b = withdraw a (p.setZone z { p.zone z with state := .off, autoOn := false }) := ⟨_, rfl⟩
  have hbeq : b = _ := hb.trans (withdraw_free (zone_of_claimant ha).1 hf)
  obtain ⟨q, hset, hqb, hzones, hstate, hprivate, -, -, hadmitted, hfollow⟩ :=
    setCallZones_follows (zs := b.clp.zones.set z false) (p := b) (by rw [hbeq]; exact hl)
  have hoff : powerOff z (unmarked z p) = q := by
    rw [powerOff_listener hon ha, hk, if_pos (by rfl), ← hb, leaveCall, if_pos (by rw [hbeq]; exact hcall), hset]
  have hclp : b.clp = p.clp := by rw [hbeq]; rfl
  have hzmx : q.zmx = b.zmx := by rw [hqb]
  obtain ⟨hz, hx⟩ := zones_detached (p := p) (q := q) (z := z) (r := { p.zone z with state := .off, autoOn := false })
    (by rw [hzmx, hbeq])
  have hquiet : q.quiet = true := by
    rw [hqb, hbeq]
    exact hq
  obtain ⟨rl, hrl⟩ := noteReports_eq p q
  have hfollow' : p.seatsFollow q := by
    have := hfollow
    unfold Part.seatsFollow Part.seat at this ⊢
    rw [hclp] at this
    exact this
  refine ⟨noteReports p q, exec_zonePower_off w ht hoff hquiet, ?_, ?_, ?_, ?_, ?_, ?_, ?_⟩
  all_goals rw [hrl]
  · exact hz
  · intro x hne
    exact (hx x hne).trans (if_neg fun h => hfront h.1)
  · exact hzones.trans (by rw [hclp])
  · exact hstate.trans (by rw [hclp])
  · exact hprivate.trans (by rw [hclp])
  · intro hon
    refine ⟨?_, hfollow'⟩
    show q.clp.admitted = _
    rw [hadmitted, admittedOf_call (by rw [← hclp] at hon; exact hon), hzones, hclp]
  · rw [hqb, hbeq]
    rfl

/-- Settles O22: case by case of `zonePower_on` and `powerOff`. -/
theorem zonePowerSwitchesZones : Obligations.ZonePowerSwitchesZones := by
  intro h z p w ht hq
  refine ⟨fun hz hm => exec_zonePower_on_refused w ht hq hz hm, fun hm => ⟨fun hon hz => ?_, fun hon hz => ?_,
    fun hoff hz => ?_, fun k hoff hz hs => ?_, fun hoff hz hs hc => ?_, fun c a hoff hs hc ha harb => ?_,
    fun c a t hoff hs hc ha hmode hf hl haddr hb => exec_zonePower_radio w ht hq hoff hs hc ha hmode hf hl haddr hb,
    fun hoff hz hlost => ?_, fun hoff hz hlost => ?_⟩, fun hoff hz => ?_, fun hoff hz => ?_, fun hon hz hf hcall => ?_,
    fun k hk hon hf hcall hl => exec_zonePower_off_call w ht hq hk hon hf hcall hl,
    fun hon hz => exec_zonePower_off_plain w ht hq hon hz, fun n v hbad => ?_⟩
  · exact (exec_zonePower_on_again w ht hq hm hon).trans (by rw [unmarked_of_ne p hz])
  · subst hz
    exact exec_zonePower_on_again w ht hq hm hon
  · have hcargo : z ≠ .cargo := by rintro rfl; rcases hz with hz | ⟨hz, -⟩ <;> cases hz
    refine exec_zonePower_on w ht hm hoff ?_ hq
    rw [unmarked_of_ne p hcargo]
    rcases hz with rfl | ⟨hz, hs⟩
    · rfl
    · cases z with
      | rearCabin | cargo | driver => cases hz
      | front | hpLeft | hpRight => simp only [powerOnZone, hs]; rfl
  · refine exec_zonePower_on w ht hm hoff ?_ hq
    cases z with
    | rearCabin | cargo | driver => cases hz
    | front | hpLeft | hpRight => rw [unmarked_of_ne p (by decide)]; simp only [powerOnZone, hs]; rfl
  · refine exec_zonePower_on w ht hm hoff ?_ hq
    cases z with
    | rearCabin | cargo | driver => cases hz
    | front | hpLeft | hpRight => rw [unmarked_of_ne p (by decide)]; simp only [powerOnZone, hs, powerRadio, hc]; rfl
  · refine exec_zonePower_on w ht hm hoff ?_ hq
    have harb' : (p.setZone z { p.zone z with state := .pending }).arbitrate a c none true = none := harb
    have hradio : powerOnZone z p = powerRadio z p := by
      cases z with
      | front | hpLeft | hpRight => simp only [powerOnZone, hs]; rfl
      | rearCabin | cargo | driver => cases ha
    rw [unmarked_of_ne p (by rintro rfl; cases ha), hradio]
    exact powerRadio_refused rfl hc ha harb'
  · refine (exec_zonePower_follower w ht hq hm hoff hz).trans ?_
    rw [if_pos hlost, hlost]
    rfl
  · refine (exec_zonePower_follower w ht hq hm hoff hz).trans ?_
    rw [if_neg hlost]
    generalize (p.zone .front).state = s at hlost ⊢
    cases s with
    | lost => exact absurd rfl hlost
    | off | silent | pending | playing => rfl
  · exact (exec_zonePower_off_again w ht hq hoff).trans (by rw [unmarked_of_ne p hz])
  · subst hz
    exact exec_zonePower_off_again w ht hq hoff
  · obtain ⟨a, ha⟩ := ownSource_iff.mp hz
    exact exec_zonePower_off_free w ht hq hon ha hf hcall
  · have hrefused : zonePowerRequest n v p = (.badValue, p) := by
      rcases hbad with hn | hv
      · unfold zonePowerRequest
        split
        · exact onZone_unknown hn _ p
        · rfl
      · match v, hv with
        | v + 2, _ => rfl
    rw [exec_zonePower w ht, settling_refused hrefused hq]

/-- Settles O23: the claim withdrawn by `withdraw_playing`. -/
theorem switchingOffFreesTheTuner : Obligations.SwitchingOffFreesTheTuner := by
  intro h z c t p w ht hq hl hc hon hcall hplays hclaims hother hotherClaims ha
  obtain ⟨q, hqdef⟩ : ∃ q, q = powerOff z (unmarked z p) := ⟨_, rfl⟩
  obtain ⟨tu, f, e, hstate, hnone, hadapter, hmem, hfollow⟩ := withdraw_playing (zone_of_claimant hc).1
    (p := p.setZone z { p.zone z with state := .off, autoOn := false }) hplays hclaims hother hotherClaims ha
  have hqeq := (hqdef.trans (powerOff_listener_out hon hc (.inl hcall))).trans e
  obtain ⟨hz, hx⟩ := zones_detached (p := p) (q := q) (z := z) (r := { p.zone z with state := .off, autoOn := false })
    (by rw [hqeq])
  have htuners (u : TunerId) : (q.tuner u).claims = [] := by rw [hqeq]; exact hnone u
  have hquiet : q.quiet = true := by
    refine quiet_of hq (by rw [hqeq]; rfl) (by rw [hqeq]; rfl) (by rw [hqeq]; rfl) (by rw [hqeq]; rfl) ?_ ?_
    · intro u d hd
      rw [htuners] at hd
      cases hd
    · intro u
      rw [hqeq]
      exact hfollow u
  obtain ⟨rl, hrl⟩ := noteReports_eq p q
  refine ⟨noteReports p q, exec_zonePower_off w ht hqdef.symm hquiet, ?_⟩
  rw [hrl]
  refine ⟨congrArg Zone.state hz, (congrArg Zone.source hz).trans rfl, (congrArg Zone.chan hz).trans rfl,
    congrArg Zone.att hz,
    ?_, htuners t, ?_, ?_, fun x hne hfx => ?_, ?_⟩
  · rw [hqeq]
    exact hstate
  · rw [hqeq]
    exact hadapter
  · rw [hqeq]
    exact hmem
  · exact (hx x hne).trans (if_neg fun h => by rw [h.2.1] at hfx; cases hfx)
  · rw [hqeq]
    exact ⟨rfl, rfl, rfl, rfl, rfl, rfl⟩

end Sys2Proof.Machine
end

section
/-! PROOFS. ZONE_SOURCE (O24), ZONE_VOLUME and ZONE_MUTE (O25). -/

namespace Sys2Proof.Machine

/-! ### ZONE_SOURCE -/

theorem sourceOf_sourceCode (s : Source) : sourceOf (sourceCode s) = some s := by
  match s with
  | .none | .radio | .media 0 | .media 1 | .media 2 | .media 3 => rfl

theorem exec_zoneSource {h : ReqHeader} {n s : Nat} {p : Part} (w : List Instr) (ht : p.takes 0x21 h = true) :
    exec (.zoneSource h n s) ⟨p, w⟩ = .next ⟨answered 0x21 h
      (settling (onZone n fun z => zoneSource z (sourceOf s)) p).result
      (settling (onZone n fun z => zoneSource z (sourceOf s)) p).body
      (settling (onZone n fun z => zoneSource z (sourceOf s)) p).part, w⟩ :=
  congrArg (fun q => Host.Outcome.next (⟨q, w⟩ : State)) (ringRequest_taken ht (by decide))

section
variable {h : ReqHeader} {z : ZoneId} {s : Source} {p : Part} (w : List Instr) (ht : p.takes 0x21 h = true)
include ht

/-- A ZONE_SOURCE whose effect leaves the Station Manager nothing to keep up. -/
theorem exec_zoneSource_done {q : Part} {r : Result} (hz : zoneSource z (some s) p = (r, q)) (hq : q.quiet = true) :
    exec (.zoneSource h (zoneCode z) (sourceCode s)) ⟨p, w⟩ = .next ⟨answered 0x21 h r [] (noteReports p q), w⟩ := by
  rw [exec_zoneSource w ht, settling_quiet (q := q) (r := r) (by rw [onZone_zoneCode, sourceOf_sourceCode, hz]) hq]

theorem exec_zoneSource_refused {r : Result} (hq : p.quiet = true) (hz : zoneSource z (some s) p = (r, p)) :
    exec (.zoneSource h (zoneCode z) (sourceCode s)) ⟨p, w⟩ = .next ⟨answered 0x21 h r [] p, w⟩ := by
  rw [exec_zoneSource_done w ht hz hq, noteReports_same fun _ => rfl]

end

/-- The record of a zone that is on as another source than RADIO is chosen (R24). -/
def Zone.choosing (s : Source) (r : Zone) : Zone :=
  { r with source := s, state := if s = .none then .silent else .pending }

/-- Another source than RADIO is chosen, and the zone's claim is given up (R24). -/
theorem zoneSource_chosen {z : ZoneId} {s : Source} {p : Part} {a : Claimant} (ha : claimantOf z = some a)
    (hs : s ≠ .radio) (hnew : s = .none ∨ s ≠ (p.zone z).source) (hon : (p.zone z).state ≠ .off) :
    zoneSource z (some s) p = (.ok, withdraw a (p.setZone z ((p.zone z).choosing s))) := by
  have hon' : ((p.zone z).state == .off) = false := by simpa using hon
  simp only [zoneSource, ha, hon', Bool.false_eq_true, if_false]
  cases s with
  | radio => exact absurd rfl hs
  | none => rfl
  | media k =>
    have hne : ((p.zone z).source == .media k) = false := by
      rcases hnew with h | h
      · cases h
      · simpa using Ne.symm h
    dsimp only
    rw [hne]
    rfl

/-- RADIO for a zone that is on (R24). -/
theorem zoneSource_radio {z : ZoneId} {p : Part} {a : Claimant} (ha : claimantOf z = some a)
    (hon : (p.zone z).state ≠ .off) : zoneSource z (some .radio) p = sourceRadio z a p := by
  have hon' : ((p.zone z).state == .off) = false := by simpa using hon
  simp only [zoneSource, ha, hon', Bool.false_eq_true, if_false]

/-- Another source chosen while both tuners are free. -/
theorem exec_zoneSource_free {h : ReqHeader} {z : ZoneId} {s : Source} {p : Part} {a : Claimant} (w : List Instr)
    (ht : p.takes 0x21 h = true) (hq : p.quiet = true) (ha : claimantOf z = some a) (hs : s ≠ .radio)
    (hnew : s = .none ∨ s ≠ (p.zone z).source) (hon : (p.zone z).state ≠ .off) (hf : p.tunersFree = true) :
    ∃ q, exec (.zoneSource h (zoneCode z) (sourceCode s)) ⟨p, w⟩ = .next ⟨answered 0x21 h .ok [] q, w⟩
      ∧ q.zone z = ((p.zone z).choosing s).loose
      ∧ (∀ x, x ≠ z → q.zone x =
          if z = .front ∧ x.follows = true ∧ (p.zone x).state ≠ .off then (p.zone x).loose else p.zone x)
      ∧ q = { p with zmx := { p.zmx with zones := q.zmx.zones }, rlu := q.rlu,
                     tuc := { p.tuc with grants := p.tuc.grants.erase z } } := by
  obtain ⟨q, hqdef⟩ : ∃ q, q = withdraw a (p.setZone z ((p.zone z).choosing s)) := ⟨_, rfl⟩
  have hqeq : q = _ := hqdef.trans (withdraw_free (zone_of_claimant ha).1 hf)
  obtain ⟨hz, hx⟩ := zones_detached (p := p) (q := q) (z := z) (r := (p.zone z).choosing s) (by rw [hqeq])
  obtain ⟨rl, hrl⟩ := noteReports_eq p q
  refine ⟨noteReports p q, exec_zoneSource_done w ht ((zoneSource_chosen ha hs hnew hon).trans (by rw [← hqdef]))
    (by rw [hqeq]; exact hq), ?_, ?_, ?_⟩
  all_goals rw [hrl]
  · exact hz
  · exact hx
  · rw [hqeq]
    rfl

/-- Another source chosen while a tuner plays for the zone alone: it goes IDLE (R70). -/
theorem exec_zoneSource_playing {h : ReqHeader} {z : ZoneId} {s : Source} {p : Part} {a : Claimant} {t : TunerId}
    (w : List Instr) (ht : p.takes 0x21 h = true) (hq : p.quiet = true) (ha : claimantOf z = some a) (hs : s ≠ .radio)
    (hnew : s = .none ∨ s ≠ (p.zone z).source) (hon : (p.zone z).state ≠ .off) (hplays : p.playsOn t = true)
    (hclaims : (p.tuner t).claims = [⟨a, false⟩]) (hother : (p.tuner t.other).state = .idle)
    (hotherClaims : (p.tuner t.other).claims = []) (haddr : p.hasAddress t = true) :
    ∃ q, exec (.zoneSource h (zoneCode z) (sourceCode s)) ⟨p, w⟩ = .next ⟨answered 0x21 h .ok [] q, w⟩
      ∧ q.zone z = ((p.zone z).choosing s).loose
      ∧ (q.tuner t).state = .idle ∧ (q.tuner t).claims = []
      ∧ (q.tuner t).adapter = { trim := (p.tuner t).adapter.trim }
      ∧ (t, LinkCmd.standby) ∈ q.tuc.link.toList ++ q.tuc.queue
      ∧ (∀ x, x ≠ z → x.follows = false → q.zone x = p.zone x)
      ∧ q.tst = p.tst ∧ q.rmx = p.rmx ∧ q.anu = p.anu ∧ q.clp = p.clp ∧ q.nfu = p.nfu ∧ q.pwc = p.pwc := by
  obtain ⟨q, hqdef⟩ : ∃ q, q = withdraw a (p.setZone z ((p.zone z).choosing s)) := ⟨_, rfl⟩
  obtain ⟨tu, f, e, hstate, hnone, hadapter, hmem, hfollow⟩ := withdraw_playing (zone_of_claimant ha).1
    (p := p.setZone z ((p.zone z).choosing s)) hplays hclaims hother hotherClaims haddr
  have hqeq := hqdef.trans e
  obtain ⟨hz, hx⟩ := zones_detached (p := p) (q := q) (z := z) (r := (p.zone z).choosing s) (by rw [hqeq])
  have htuners (u : TunerId) : (q.tuner u).claims = [] := by rw [hqeq]; exact hnone u
  have hquiet : q.quiet = true := by
    refine quiet_of hq (by rw [hqeq]; rfl) (by rw [hqeq]; rfl) (by rw [hqeq]; rfl) (by rw [hqeq]; rfl) ?_ ?_
    · intro u d hd
      rw [htuners] at hd
      cases hd
    · intro u
      rw [hqeq]
      exact hfollow u
  obtain ⟨rl, hrl⟩ := noteReports_eq p q
  refine ⟨noteReports p q, exec_zoneSource_done w ht ((zoneSource_chosen ha hs hnew hon).trans (by rw [← hqdef]))
    hquiet, ?_⟩
  rw [hrl]
  refine ⟨hz, ?_, htuners t, ?_, ?_, fun x hne hfx => ?_, ?_⟩
  · rw [hqeq]
    exact hstate
  · rw [hqeq]
    exact hadapter
  · rw [hqeq]
    exact hmem
  · exact (hx x hne).trans (if_neg fun h => by rw [h.2.1] at hfx; cases hfx)
  · rw [hqeq]
    exact ⟨rfl, rfl, rfl, rfl, rfl, rfl⟩

/-- Settles O24: by the state of the zone, the source asked for, and the tuners. -/
theorem zoneSourceChoosesTheProgramme : Obligations.ZoneSourceChoosesTheProgramme := by
  intro h z p w ht hq
  refine ⟨fun hz s => exec_zoneSource_refused w ht hq ?_, fun hz => ?_, fun n hn => ?_⟩
  · have hnone : claimantOf z = none := claimantOf_eq_none hz
    simp only [zoneSource, hnone]
  · obtain ⟨a, ha⟩ := ownSource_iff.mp hz
    refine ⟨fun s hoff => ?_, fun k hon hs => ?_, fun s hs hnew hon hf =>
      exec_zoneSource_free w ht hq ha hs hnew hon hf,
      fun s a' t hs hnew hon ha' hl hplays hclaims hother hoc haddr =>
        exec_zoneSource_playing w ht hq ha' hs hnew hon hplays hclaims hother hoc haddr,
      fun hon hm => ?_, fun hon hm hs hlost => ?_, fun hon hm hs => ⟨fun hc => ?_, fun c a' hc ha' harb => ?_⟩⟩
    · refine exec_zoneSource_done w ht ?_ hq
      simp only [zoneSource, ha, hoff, beq_self_eq_true, if_true]
    · refine exec_zoneSource_done w ht ?_ hq
      have hon' : ((p.zone z).state == .off) = false := by simpa using hon
      simp only [zoneSource, ha, hon', Bool.false_eq_true, if_false, hs, beq_self_eq_true, if_true]
    · refine exec_zoneSource_refused w ht hq ((zoneSource_radio ha hon).trans ?_)
      simp [sourceRadio, Part.isActive, hm]
    · refine exec_zoneSource_done w ht ((zoneSource_radio ha hon).trans ?_) hq
      simp [sourceRadio, Part.isActive, hm, hs, hlost]
    · refine exec_zoneSource_refused w ht hq ((zoneSource_radio ha hon).trans ?_)
      have hnew : ((p.zone z).source == .radio && (p.zone z).state != .lost) = false := by
        rcases hs with hs | hs <;> simp [hs]
      simp only [sourceRadio, Part.isActive, hm, hnew, hc]
      rfl
    · refine exec_zoneSource_refused w ht hq ((zoneSource_radio ha' hon).trans ?_)
      have hnew : ((p.zone z).source == .radio && (p.zone z).state != .lost) = false := by
        rcases hs with hs | hs <;> simp [hs]
      simp only [sourceRadio, Part.isActive, hm, hnew, hc, harb]
      rfl
  · have hunknown : sourceOf n = none := by
      match n, hn with
      | n + 6, _ => rfl
    rw [exec_zoneSource w ht, settling_refused (r := .badValue) (by rw [onZone_zoneCode, hunknown]; rfl) hq]

/-! ### ZONE_VOLUME, ZONE_MUTE and ZONE_OFFSET -/

theorem exec_zoneVolume {h : ReqHeader} {z : ZoneId} {n : Nat} {p q : Part} {r : Result} (w : List Instr)
    (ht : p.takes 0x22 h = true) (hz : zoneVolume z n p = (r, q)) :
    exec (.zoneVolume h (zoneCode z) n) ⟨p, w⟩ = .next ⟨answered 0x22 h r [] (noteReports p q), w⟩ := by
  have hreport : reporting (onZone (zoneCode z) fun z => zoneVolume z n) p
    = { result := r, part := noteReports p q } := by
    simp only [reporting, answer, onZone_zoneCode, hz]
  refine (congrArg (fun q => Host.Outcome.next (⟨q, w⟩ : State)) (ringRequest_taken ht (by decide))).trans ?_
  rw [hreport]

theorem exec_zoneMute {h : ReqHeader} {n v : Nat} {p : Part} {q : Part} {r : Result} (w : List Instr)
    (ht : p.takes 0x24 h = true) (hz : onZone n (fun z => zoneMute z (boolOf v)) p = (r, q)) :
    exec (.zoneMute h n v) ⟨p, w⟩ = .next ⟨answered 0x24 h r [] (noteReports p q), w⟩ := by
  have hreport : reporting (onZone n fun z => zoneMute z (boolOf v)) p = { result := r, part := noteReports p q } := by
    simp only [reporting, answer, hz]
  refine (congrArg (fun q => Host.Outcome.next (⟨q, w⟩ : State)) (ringRequest_taken ht (by decide))).trans ?_
  rw [hreport]

/-- Settles O25: the refusals and the limit of `zoneVolume`, and the flag of `zoneMute`. -/
theorem zoneVolumeAndMuteSetTheRecord : Obligations.ZoneVolumeAndMuteSetTheRecord := by
  refine ⟨fun h z n p w ht => ?_, fun h z p w ht => ⟨fun v => ?_, fun n v hbad => ?_⟩, fun h z off p w ht h1 h2 _ => ?_⟩
  · have hsame : noteReports p p = p := noteReports_same fun _ => rfl
    split
    · rename_i hz
      rw [exec_zoneVolume (q := p) (r := .zoneRole) w ht (by simp [zoneVolume, hz]), hsame]
    · rename_i hz
      have hz' : z.ownSource = true := by simpa using hz
      split
      · rename_i hn
        rw [exec_zoneVolume (q := p) (r := .badValue) w ht (by simp [zoneVolume, hz', hn]), hsame]
      · rename_i hn
        have hstore : zoneVolume z n p = storeStep z n p := by simp [zoneVolume, hz', hn]
        cases hr : z.rearSeat? with
        | none => exact exec_zoneVolume w ht (hstore.trans (by simp only [storeStep, hr]))
        | some k =>
          refine exec_zoneVolume w ht (hstore.trans ?_)
          simp only [storeStep, hr]
          split
          · rename_i hlt
            rw [min_eq_right (by omega)]
          · rename_i hlt
            rw [min_eq_left (by omega)]
  · refine exec_zoneMute w ht ?_
    rw [onZone_zoneCode]
    cases v <;> rfl
  · rw [exec_zoneMute (q := p) (r := .badValue) w ht, noteReports_same fun _ => rfl]
    rcases hbad with hn | hv
    · exact onZone_unknown hn _ p
    · have hv' : boolOf v = none := by
        match v, hv with
        | v + 2, _ => rfl
      rw [hv']
      unfold onZone
      split <;> rfl
  · have hz : z.follows = false := by cases z <;> simp_all [ZoneId.follows]
    have hrole : onZone (zoneCode z) (fun z => zoneOffset z off) p = (.zoneRole, p) := by
      rw [onZone_zoneCode]
      simp [zoneOffset, hz]
    refine (congrArg (fun q => Host.Outcome.next (⟨q, w⟩ : State)) (ringRequest_taken ht (by decide))).trans ?_
    rw [answer, hrole]

end Sys2Proof.Machine
end

section
/-! PROOFS. TUNE for a zone that is OFF (O29), on a free tuner (O30), and by sharing or moving one (O31). -/

namespace Sys2Proof.Machine

/-! ### The station frequency of highest last quality -/

/-- One step of the search for the best item: the earlier one among equals (R71). -/
def betterItem (b : Option Item) (i : Item) : Option Item :=
  match b with
  | none => some i
  | some x => if qualityRank x.quality < qualityRank i.quality then some i else some x

theorem bestItem_eq (items : List Item) : bestItem items = items.foldl betterItem none := rfl

theorem betterItem_foldl {items : List Item} (b : Option Item) {it : Item} (h : items.foldl betterItem b = some it) :
    (it ∈ items ∨ b = some it) ∧ (∀ x ∈ items, qualityRank x.quality ≤ qualityRank it.quality)
      ∧ ∀ x, b = some x → qualityRank x.quality ≤ qualityRank it.quality := by
  induction items generalizing b with
  | nil => exact ⟨.inr h, nofun, fun x hx => by rw [show b = some it from h] at hx; cases hx; rfl⟩
  | cons i items ih =>
    cases b with
    | none =>
      obtain ⟨hmem, hall, hmax⟩ := ih (some i) h
      refine ⟨.inl ?_, ?_, nofun⟩
      · rcases hmem with hm | hm
        · exact List.mem_cons_of_mem _ hm
        · cases hm
          exact List.mem_cons_self
      · exact List.forall_mem_cons.mpr ⟨hmax i rfl, hall⟩
    | some y =>
      by_cases hlt : qualityRank y.quality < qualityRank i.quality
      · obtain ⟨hmem, hall, hmax⟩ := ih (some i) (by rw [← h]; simp [betterItem, hlt])
        refine ⟨.inl ?_, List.forall_mem_cons.mpr ⟨hmax i rfl, hall⟩, ?_⟩
        · rcases hmem with hm | hm
          · exact List.mem_cons_of_mem _ hm
          · cases hm
            exact List.mem_cons_self
        · intro x hx
          cases hx
          exact le_trans (le_of_lt hlt) (hmax i rfl)
      · obtain ⟨hmem, hall, hmax⟩ := ih (some y) (by rw [← h]; simp [betterItem, hlt])
        refine ⟨hmem.imp_left (List.mem_cons_of_mem _), ?_, hmax⟩
        exact List.forall_mem_cons.mpr ⟨le_trans (not_lt.mp hlt) (hmax y rfl), hall⟩

theorem bestItem_best {items : List Item} {it : Item} (h : bestItem items = some it) :
    it ∈ items ∧ ∀ x ∈ items, qualityRank x.quality ≤ qualityRank it.quality := by
  obtain ⟨hmem, hall, -⟩ := betterItem_foldl none (bestItem_eq items ▸ h)
  exact ⟨hmem.resolve_right nofun, hall⟩

/-! ### The request -/

/-- A TUNE whose effect leaves the Station Manager nothing to keep up. -/
theorem exec_tune_done {h : ReqHeader} {n s i f : Nat} {p q : Part} {r : Result} (w : List Instr)
    (ht : p.takes 0x30 h = true) (hz : tuneRequest n s i f p = (r, q)) (hq : q.quiet = true) :
    exec (.tune h n s i f) ⟨p, w⟩ = .next ⟨answered 0x30 h r [] (noteReports p q), w⟩ := by
  refine (congrArg (fun q => Host.Outcome.next (⟨q, w⟩ : State)) (ringRequest_taken ht (by decide))).trans ?_
  rw [settling_quiet hz hq]

/-- A TUNE that leaves the part as it is. -/
theorem exec_tune_refused {h : ReqHeader} {n s i f : Nat} {p : Part} {r : Result} (w : List Instr)
    (ht : p.takes 0x30 h = true) (hq : p.quiet = true) (hz : tuneRequest n s i f p = (r, p)) :
    exec (.tune h n s i f) ⟨p, w⟩ = .next ⟨answered 0x30 h r [] p, w⟩ := by
  rw [exec_tune_done w ht hz hq, noteReports_same fun _ => rfl]

/-- TUNE by a frequency that its band holds (R71). -/
theorem tuneRequest_freq {z : ZoneId} {a : Claimant} (b : Band) (i f : Nat) (p : Part) (ha : claimantOf z = some a) :
    tuneRequest (zoneCode z) (bandCode b + 1) i f p
      = if validFreq b f then tuneZone z ⟨b, f⟩ p else (.badValue, p) := by
  unfold tuneRequest
  rw [onZone_zoneCode]
  simp only [ha]
  cases b <;> rfl

/-- TUNE by a station index (R71, R84). -/
theorem tuneRequest_station {z : ZoneId} {a : Claimant} (i f : Nat) (p : Part) (ha : claimantOf z = some a) :
    tuneRequest (zoneCode z) 0 i f p = if 47 < i then (.badValue, p) else tuneStation z i p := by
  unfold tuneRequest
  rw [onZone_zoneCode]
  simp only [ha]
  rfl

/-- The channel that a station index is tuned to: its entry's frequency of highest last quality (R71). -/
def Part.stationChan (p : Part) (i : Nat) : Option Chan :=
  (p.station i).bind fun e => (bestItem e.items).map fun it => ⟨e.band, it.freq⟩

/-- With no error standing, TUNE by a station index reads the entry as it is. -/
theorem tuneStation_clean {z : ZoneId} {i : Nat} {p : Part} (hl : p.tst.latent = []) :
    tuneStation z i p = (p.stationChan i).elim (.notFound, p) fun c => tuneZone z c p := by
  have hpending : p.poisonPending tblStations i = false := by simp [Part.poisonPending, hl]
  unfold tuneStation Part.stationChan
  rw [checkStation_clean i hl, hpending, if_neg Bool.false_ne_true]
  cases (p.station i).bind fun e => (bestItem e.items).map fun it => (⟨e.band, it.freq⟩ : Chan) <;> rfl

theorem tuneZone_off {z : ZoneId} {a : Claimant} {p : Part} (c : Chan) (ha : claimantOf z = some a)
    (hoff : (p.zone z).state = .off) :
    tuneZone z c p = (.ok, p.setZone z { p.zone z with source := .radio, chan := some c }) := by
  simp only [tuneZone, ha, hoff, beq_self_eq_true, if_true]

theorem tuneZone_power {z : ZoneId} {a : Claimant} {p : Part} (c : Chan) (ha : claimantOf z = some a)
    (hon : (p.zone z).state ≠ .off) (hm : p.pwc.mode ≠ .active) : tuneZone z c p = (.power, p) := by
  simp [tuneZone, ha, hon, Part.isActive, hm]

theorem tuneZone_on {z : ZoneId} {a : Claimant} {p : Part} (c : Chan) (ha : claimantOf z = some a)
    (hon : (p.zone z).state ≠ .off) (hm : p.pwc.mode = .active) : tuneZone z c p = decideTune z a c p := by
  simp [tuneZone, ha, hon, Part.isActive, hm]

/-- Settles O29: the arguments' refusals in their order, and the record of a zone that is OFF. -/
theorem tuneStoresForZonesThatAreOff : Obligations.TuneStoresForZonesThatAreOff := by
  refine ⟨fun h z p w ht hq hl => ⟨fun s i f hs => ?_, fun hz s i f hs => ?_, fun hz => ?_⟩, fun _ _ => bestItem_best⟩
  · refine exec_tune_refused w ht hq ?_
    unfold tuneRequest
    rw [onZone_zoneCode]
    simp only [hs, if_true]
  · have hnone : claimantOf z = none := claimantOf_eq_none hz
    refine exec_tune_refused w ht hq ?_
    unfold tuneRequest
    rw [onZone_zoneCode]
    simp only [if_neg (not_lt.mpr hs), hnone]
    rfl
  · obtain ⟨a, ha⟩ := ownSource_iff.mp hz
    refine ⟨fun c i hv hoff => ?_, fun b i f hv => ?_, fun b i f hv hon hm => ?_, fun i f hi => ?_,
      fun i f hi hnone => ?_, fun i f e it hi he hit hoff => ?_⟩
    · refine exec_tune_done w ht ?_ hq
      rw [tuneRequest_freq c.band i c.freq p ha, if_pos hv, tuneZone_off c ha hoff]
    · refine exec_tune_refused w ht hq ?_
      rw [tuneRequest_freq b i f p ha, hv]
      rfl
    · refine exec_tune_refused w ht hq ?_
      rw [tuneRequest_freq b i f p ha, if_pos hv, tuneZone_power _ ha hon hm]
    · refine exec_tune_refused w ht hq ?_
      rw [tuneRequest_station i f p ha, if_pos hi]
    · refine exec_tune_refused w ht hq ?_
      rw [tuneRequest_station i f p ha, if_neg (not_lt.mpr hi), tuneStation_clean hl, Part.stationChan, hnone]
      rfl
    · refine exec_tune_done w ht ?_ hq
      rw [tuneRequest_station i f p ha, if_neg (not_lt.mpr hi), tuneStation_clean hl, Part.stationChan, he]
      simp only [Option.bind_some, hit, Option.map_some]
      exact tuneZone_off _ ha hoff

end Sys2Proof.Machine
end

section
/-! PROOFS. RADIO for a zone that is on: a free tuner taken (O30), a tuner shared, moved or refused (O31). -/

namespace Sys2Proof.Machine

/-! ### A free tuner taken -/

/-- A zone's record PENDING on RADIO for a channel (R72). -/
def Zone.awaiting (c : Chan) (r : Zone) : Zone := { r with source := .radio, chan := some c, state := .pending }

theorem zonePending_eq (z : ZoneId) (c : Chan) (p : Part) :
    zonePending z c p = nameStation z c (p.setZone z ((p.zone z).awaiting c)) := rfl

/-- The source and the state may be set after the station is named. -/
theorem awaiting_named {z : ZoneId} {c : Chan} {g m : Part} (hl : g.tst.latent = [])
    (hm : m = nameStation z c (g.setZone z { g.zone z with chan := some c })) :
    m.setZone z { m.zone z with source := .radio, state := .pending } = zonePending z c g := by
  obtain ⟨b, hb⟩ : ∃ b, b = g.setZone z { g.zone z with chan := some c } := ⟨_, rfl⟩
  have hbl : b.tst.latent = [] := by rw [hb]; exact hl
  have hml : (g.setZone z ((g.zone z).awaiting c)).tst.latent = [] := hl
  rw [hm, ← hb, nameStation_clean hbl, zonePending_eq, nameStation_clean hml, hb]
  simp only [Part.zone_setZone_self, setZone_setZone]
  rfl

theorem sourceRadio_granted {z : ZoneId} {p g : Part} {a : Claimant} {c : Chan} {t : TunerId}
    (hm : p.pwc.mode = .active) (hs : (p.zone z).source ≠ .radio ∨ (p.zone z).state = .lost)
    (hc : (p.zone z).chan = some c) (ha : claimantOf z = some a) (harb : p.arbitrate a c none true = some (t, false))
    (hg : g = grant a c t false (withdraw a p)) (hl : g.tst.latent = []) :
    sourceRadio z a p = (.ok, zonePending z c g) := by
  have hnew : ((p.zone z).source == .radio && (p.zone z).state != .lost) = false := by
    rcases hs with hs | hs <;> simp [hs]
  rw [← awaiting_named (z := z) (c := c) hl rfl]
  simp only [sourceRadio, Part.isActive, hm, hnew, hc, harb, grantZone, ha, ← hg]
  rfl

/-- A zone without a tuner of its own that is given a free one by TUNE (R72). -/
theorem decideTune_granted {z : ZoneId} {p : Part} {a : Claimant} {c : Chan} {t : TunerId} (hown : p.holding a = none)
    (harb : p.arbitrate a c none true = some (t, false)) :
    decideTune z a c p = (.ok, zonePending z c (grant a c t false (withdraw a p))) := by
  simp only [decideTune, hown, Option.any_none, Bool.false_eq_true, if_false, Option.filter_none, harb]

theorem holding_of_free {p : Part} (hf : p.tunersFree = true) (a : Claimant) : p.holding a = none :=
  holding_none_iff.mpr fun t c hc => by
    rw [((tunersFree_iff.mp hf).2 t).2.1] at hc
    cases hc

/-- A zone PENDING on a tuner that was free: what the part is then (R58, R68, R75). -/
theorem awaiting_free {z : ZoneId} {a : Claimant} {c : Chan} {t : TunerId} {p q : Part} (ha : claimantOf z = some a)
    (hf : p.tunersFree = true) (haddr : p.hasAddress t = true) (hl : p.tst.latent = []) (hq : p.quiet = true)
    (hlink : p.tuc.link = none) (hqueue : p.tuc.queue = [])
    (heq : q = zonePending z c (grant a c t false (withdraw a p))) :
    q.quiet = true
      ∧ q.tuner t = tunedRecord c (some z) false { p.tuner t with claims := [⟨a, false⟩] }
      ∧ q.tuner t.other = p.tuner t.other ∧ q.tuc.link = some (t, .tune c) ∧ q.tuc.queue = []
      ∧ q.zone z = p.naming c (((p.zone z).on t).awaiting c)
      ∧ (∀ x, x ≠ z → q.zone x = detached z x (p.zone x))
      ∧ q = { p with zmx := { p.zmx with zones := q.zmx.zones }, tuc := q.tuc, stm := q.stm } := by
  obtain ⟨tu, f, lb, e, htuners, -, hgo, hfollow⟩ :=
    named_grant_free (c := c) (t := t) (Zone.awaiting c) ha hf haddr hl rfl
  have hqeq := heq.trans ((zonePending_eq z c _).trans e)
  have htuner := tuners_of_grant (p := p) (q := q) (by rw [hqeq]; exact htuners)
  obtain ⟨h1, h2⟩ := hgo hlink hqueue
  have hzones (x : ZoneId) : q.zone x
      = if x = z then p.naming c (((p.zone z).on t).awaiting c) else detached z x (p.zone x) := by
    rw [hqeq, Part.zone, PerZone.get_of]
  refine ⟨quiet_of hq (by rw [hqeq]) (by rw [hqeq]) (by rw [hqeq]) (by rw [hqeq]) ?_ ?_, htuner.1, htuner.2,
    by rw [hqeq]; exact h1, by rw [hqeq]; exact h2, (hzones z).trans (if_pos rfl),
    fun x hx => (hzones x).trans (if_neg hx), by rw [hqeq]⟩
  · intro u d hd hwho
    rcases eq_or_other t u with rfl | rfl
    · rw [htuner.1] at hd
      obtain rfl := List.mem_singleton.mp hd
      cases z <;> cases ha <;> simp at hwho
    · rwa [htuner.2] at hd
  · intro u
    rw [hqeq]
    exact hfollow u

theorem detached_other {z x : ZoneId} (r : Zone) (hx : x ≠ z) (h : x.follows = false ∨ z ≠ .front) :
    detached z x r = r := by
  rw [detached, if_neg]
  rintro (heq | ⟨h1, h2, -⟩)
  · exact hx heq
  · rcases h with h | h
    · rw [h2] at h
      cases h
    · exact h h1

/-- Settles O30: both requests grant the zone's claim on the free tuner and have it PENDING there. -/
theorem zonesOnRadioTakeAFreeTuner : Obligations.ZonesOnRadioTakeAFreeTuner := by
  intro h z a c t cmd kind p w hcmd ht hq hl hv ha hon hm hf hlink hqueue haddr hb
  have harb := arbitrate_free hm hf haddr hb a c none true
  have hgl : (grant a c t false (withdraw a p)).tst.latent = [] := by
    obtain ⟨tu, f, lb, e, -⟩ := withdraw_grant_free (c := c) ha hf haddr
    rw [e]
    exact hl
  obtain ⟨q, hqdef⟩ : ∃ q, q = zonePending z c (grant a c t false (withdraw a p)) := ⟨_, rfl⟩
  obtain ⟨hquiet, h1, h2, h3, h4, h5, h6, h7⟩ := awaiting_free ha hf haddr hl hq hlink hqueue hqdef
  have hexec : exec cmd ⟨p, w⟩ = .next ⟨answered kind h .ok [] (noteReports p q), w⟩ := by
    rcases hcmd with ⟨rfl, rfl⟩ | ⟨rfl, rfl, hc, hs⟩
    · refine exec_tune_done w ht ?_ hquiet
      rw [tuneRequest_freq c.band 0 c.freq p ha, if_pos hv, tuneZone_on c ha hon hm,
        decideTune_granted (holding_of_free hf a) harb, hqdef]
    · refine exec_zoneSource_done (s := .radio) w ht ?_ hquiet
      rw [zoneSource_radio ha hon, sourceRadio_granted hm hs hc ha harb rfl hgl, hqdef]
  obtain ⟨rl, hrl⟩ := noteReports_eq p q
  refine ⟨noteReports p q, hexec, ?_⟩
  rw [hrl]
  refine ⟨h1, h2, h3, h4, h5, fun x hx hfx => (h6 x hx).trans (detached_other _ hx hfx), ?_⟩
  rw [h7]

/-! ### A tuner shared -/

theorem sortClaims_mem {gs : List ZoneId} {cs : List Claim} {k : Claim} : k ∈ sortClaims gs cs ↔ k ∈ cs := by
  have horder : k.who ∈ claimOrder gs := by
    simp only [claimOrder, List.mem_append, List.mem_filter, Bool.not_eq_true', List.contains_eq_mem,
      decide_eq_false_iff_not]
    by_cases hin : k.who ∈ gs.filterMap claimantOf
    · exact .inl (.inl (.inr hin))
    · cases hk : k.who with
      | front | bulletin | watch | scan | background => simp
      | hpLeft | hpRight => exact .inl (.inr ⟨by decide, hk ▸ hin⟩)
  simp only [sortClaims, List.mem_flatMap, List.mem_filter, beq_iff_eq]
  exact ⟨fun ⟨_, _, h, _⟩ => h, fun h => ⟨k.who, horder, h, rfl⟩⟩

/-- Of two tuners the one that plays a channel for a listener, the other IDLE, is shared (R68). -/
theorem arbitrate_shared {p : Part} {t : TunerId} {c : Chan} (a : Claimant) (hm : p.pwc.mode = .active)
    (hplays : p.playsOn t = true) (hidle : (p.tuner t.other).state = .idle) (hc : (p.tuner t).chan = some c)
    (hlisten : (p.tuner t).listened = true) : p.arbitrate a c none true = some (t, true) := by
  simp only [Part.playsOn, Bool.and_eq_true, beq_iff_eq, Bool.not_eq_true'] at hplays
  obtain ⟨⟨⟨⟨⟨⟨⟨⟨⟨hstate, -⟩, -⟩, -⟩, -⟩, -⟩, -⟩, -⟩, hswitch⟩, -⟩ := hplays
  have hclaims : (p.tuner t).claims.any (fun k => k.who.listens || k.who == .bulletin || k.who == .watch) = true := by
    obtain ⟨k, hk, hl⟩ := List.any_eq_true.mp hlisten
    exact List.any_eq_true.mpr ⟨k, hk, by simp [hl]⟩
  have hverify : (p.follow t.other).state ≠ .switchVerify := by
    rintro h
    simp [Part.switching, h] at hswitch
  have hserves : p.serves t c = true := by simp [Part.serves, hstate, hc, hclaims, hverify]
  have hnot : p.serves t.other c = false := by simp [Part.serves, hidle]
  have hactive : p.isActive = true := by simp [Part.isActive, hm]
  cases t with
  | a => simp [Part.arbitrate, hactive, hserves]
  | b => simp [Part.arbitrate, hactive, hserves, show p.serves .a c = false from hnot]

/-- A tuner's record that no claim of a claimant's is in. -/
theorem Tuner.without_none {w : Claimant} {r : Tuner} (hc : ∀ k ∈ r.claims, k.who ≠ w) (hn : r.note = none)
    (hs : r.seek = none) : r.without w = r := by
  have hfilter : r.claims.filter (fun c => c.who != w) = r.claims :=
    List.filter_eq_self.mpr fun k hk => by simpa using hc k hk
  unfold Tuner.without
  rw [hfilter]
  obtain ⟨⟩ := r
  simp_all

/-- A withdrawal for a zone that has no claim, while a tuner plays for others and the other is free: the zone is
detached. -/
theorem withdraw_unclaimed {w : Claimant} {z : ZoneId} {t : TunerId} {p : Part} (hw : w.zone? = some z)
    (hplays : p.playsOn t = true) (hidle : (p.tuner t.other).state = .idle) (hoc : (p.tuner t.other).claims = [])
    (hon : (p.tuner t.other).note = none) (hok : (p.tuner t.other).seek = none)
    (hno : ∀ k ∈ (p.tuner t).claims, k.who ≠ w) :
    withdraw w p = { p with zmx := { p.zmx with zones := .of fun x => detached z x (p.zone x) }
                            tuc := { p.tuc with grants := p.tuc.grants.erase z } } := by
  simp only [Part.playsOn, Bool.and_eq_true, beq_iff_eq, Bool.not_eq_true', Option.isNone_iff_eq_none] at hplays
  obtain ⟨⟨⟨⟨⟨⟨⟨⟨⟨hstate, -⟩, -⟩, hseek⟩, hnote⟩, -⟩, hclaims⟩, hmonitor⟩, hswitch⟩, -⟩ := hplays
  have hs (u : TunerId) : p.switching u = false := by
    rcases eq_or_other t u with rfl | rfl
    · rw [Part.switching, hmonitor]
      rfl
    · exact hswitch
  have hwithout : (p.tuner t).without w = p.tuner t := Tuner.without_none hno hnote hseek
  have hsame : (PerTuner.of fun u => (p.tuner u).without w) = p.tuc.tuners :=
    PerTuner.ext_get fun u => by
      rw [PerTuner.get_of]
      rcases eq_or_other t u with rfl | rfl
      · exact hwithout
      · exact Tuner.without_unclaimed hoc hon hok
  rw [withdraw_listener hw hs, hsame]
  have hkeep (u : TunerId) {q : Part} (hq : q.tuc.tuners = p.tuc.tuners) : idleIfFree u q = q := by
    have hu : q.tuner u = p.tuner u := by unfold Part.tuner; rw [hq]
    rcases eq_or_other t u with rfl | rfl
    · simp [idleIfFree, hu, hclaims]
    · exact idleIfFree_idle (by rw [hu]; exact hidle)
  rw [hkeep .a (by rfl), hkeep .b (by rfl)]

/-- A zone granted a tuner that plays for others joins its claims and is attached to it (R67, R70, R75). -/
theorem withdraw_grant_shared {z : ZoneId} {a : Claimant} {c : Chan} {t : TunerId} {p : Part}
    (ha : claimantOf z = some a)
    (hplays : p.playsOn t = true) (hidle : (p.tuner t.other).state = .idle) (hoc : (p.tuner t.other).claims = [])
    (hon : (p.tuner t.other).note = none) (hok : (p.tuner t.other).seek = none)
    (hno : ∀ k ∈ (p.tuner t).claims, k.who ≠ a) :
    ∃ zs gs cs, grant a c t true (withdraw a p) = { p with
        zmx := { p.zmx with zones := zs }
        tuc := { p.tuc with tuners := p.tuc.tuners.set t { p.tuner t with claims := cs }, grants := gs } }
      ∧ (zs.get z).att = some t ∧ ∀ k, k ∈ cs ↔ k = ⟨a, false⟩ ∨ k ∈ (p.tuner t).claims := by
  obtain ⟨hw, -⟩ := zone_of_claimant ha
  obtain ⟨q, hq⟩ : ∃ q, q = withdraw a p := ⟨_, rfl⟩
  have hqeq := hq.trans (withdraw_unclaimed hw hplays hidle hoc hon hok hno)
  simp only [Part.playsOn, Bool.and_eq_true, beq_iff_eq, Bool.not_eq_true'] at hplays
  obtain ⟨⟨-, hmonitor⟩, hswitch⟩ := hplays.1
  have hs : q.switching t = false := by
    rw [hqeq]
    show p.switching t = false
    rw [Part.switching, hmonitor]
    rfl
  have hfade : ((addClaim a t q).follow t).state ≠ .switchFade := by
    rw [addClaim_eq hs, hqeq]
    show (p.follow t).state ≠ _
    rw [hmonitor]
    decide
  have hg : grant a c t true q = attach z t none { q with tuc := { q.tuc with
      tuners := q.tuc.tuners.set t { q.tuner t with
        claims := sortClaims (grantsWith a q.tuc.grants) (⟨a, false⟩ :: (q.tuner t).claims) }
      grants := grantsWith a q.tuc.grants } } := by
    simp only [grant, if_true, hw, beq_iff_eq, if_neg hfade]
    rw [addClaim_eq hs]
  refine ⟨(PerZone.of fun x => detached z x (p.zone x)).set z
      { detached z z (p.zone z) with att := some t, att2 := none, held := none },
    grantsWith a (p.tuc.grants.erase z),
    sortClaims (grantsWith a (p.tuc.grants.erase z)) (⟨a, false⟩ :: (p.tuner t).claims), ?_, ?_, fun k => ?_⟩
  · rw [← hq, hg, hqeq]
    simp only [attach, Part.setZone, Part.zone, PerZone.get_of]
    rfl
  · rw [PerZone.get_set, if_pos rfl]
  · rw [sortClaims_mem, List.mem_cons]

/-! ### A tuner moved -/

/-- What a tuner that plays for one claim alone is. -/
theorem plays_alone {p : Part} {t : TunerId} {a : Claimant} (hplays : p.playsOn t = true)
    (hc : (p.tuner t).claims = [⟨a, false⟩]) (hoc : (p.tuner t.other).claims = []) :
    p.holding a = some t ∧ (∀ u, p.switching u = false) ∧ p.freeToMove a t = true ∧ (p.tuner t).seek = none
      ∧ (p.tuner t).retry = none := by
  simp only [Part.playsOn, Bool.and_eq_true, beq_iff_eq, Bool.not_eq_true', Option.isNone_iff_eq_none] at hplays
  obtain ⟨⟨⟨⟨⟨⟨⟨-, hseek⟩, -⟩, hretry⟩, -⟩, hmonitor⟩, hswitch⟩, -⟩ := hplays
  have hs (u : TunerId) : p.switching u = false := by
    rcases eq_or_other t u with rfl | rfl
    · rw [Part.switching, hmonitor]
      rfl
    · exact hswitch
  refine ⟨?_, hs, by simp [Part.freeToMove, hc, hs], hseek, hretry⟩
  cases t with
  | a => simp [Part.holding, TunerId.all, hc]
  | b => simp [Part.holding, TunerId.all, hc, show (p.tuner .a).claims = [] from hoc]

/-- The zone of a tuner's one claim retunes it: nothing else is displaced (R72). -/
theorem clearOwn_alone {p : Part} {t : TunerId} {a : Claimant} (hc : (p.tuner t).claims = [⟨a, false⟩])
    (hseek : (p.tuner t).seek = none) : clearOwn a t p = p.setFollow t (p.follow t).ended := by
  have hrecord : ({ p.tuner t with claims := (p.tuner t).claims.filter (fun c => c.who == a), seek := none } : Tuner)
      = p.tuner t := by
    rw [show (p.tuner t).claims.filter (fun c => c.who == a) = (p.tuner t).claims by simp [hc], ← hseek]
  have hnone : (p.tuner t).claims.filter (fun c => c.who != a) = [] := by simp [hc]
  unfold clearOwn
  rw [hrecord, Part.setTuner_same]
  simp only [hnone]
  rfl

theorem decideTune_moved {z : ZoneId} {p : Part} {t : TunerId} {a : Claimant} {c : Chan} (hplays : p.playsOn t = true)
    (hc : (p.tuner t).claims = [⟨a, false⟩]) (hoc : (p.tuner t.other).claims = []) (hch : (p.tuner t).chan ≠ some c) :
    decideTune z a c p = (.ok, zonePending z c
      (tuneStart t c (some z) false (attach z t none (p.setFollow t (p.follow t).ended)))) := by
  obtain ⟨hown, hs, hmove, hseek, -⟩ := plays_alone hplays hc hoc
  have hserves : p.serves t c = false := by simp [Part.serves, hch]
  simp only [decideTune, hown, abandonSwitch_none (hs t), Option.any_some, hserves, Bool.false_eq_true, if_false,
    Option.filter_some, hmove, if_true, clearOwn_alone hc hseek]

/-- Settles O31: the tuner is shared, moved for its one claim, or none is to be had. -/
theorem tuneSharesMovesOrIsRefused : Obligations.TuneSharesMovesOrIsRefused := by
  intro h z a c t p w ht hq hl hv ha hon hm
  have hrequest : tuneRequest (zoneCode z) (bandCode c.band + 1) 0 c.freq p = decideTune z a c p := by
    rw [tuneRequest_freq c.band 0 c.freq p ha, if_pos hv, tuneZone_on c ha hon hm]
  refine ⟨fun hown harb => ?_, fun hplays hidle hoc hon' hok => ⟨fun hown hc hlisten hno => ?_, fun hc hch haddr => ?_⟩⟩
  · refine exec_tune_refused w ht hq (hrequest.trans ?_)
    simp only [decideTune, hown, Option.any_none, Bool.false_eq_true, if_false, Option.filter_none, harb]
  · have harb := arbitrate_shared a hm hplays hidle hc hlisten
    obtain ⟨zs, gs, cs, e, hatt, hcs⟩ := withdraw_grant_shared (c := c) ha hplays hidle hoc hon' hok hno
    obtain ⟨g, hg⟩ : ∃ g, g = grant a c t true (withdraw a p) := ⟨_, rfl⟩
    have hgeq := hg.trans e
    have hpending : zonePending z c g = (g.setZone z ((g.zone z).awaiting c)).setZone z
        (p.naming c ((g.zone z).awaiting c)) := by
      have htst : (g.setZone z ((g.zone z).awaiting c)).tst = p.tst := by rw [hgeq]; rfl
      rw [zonePending_eq, nameStation_clean (by rw [htst]; exact hl), naming_of_tst htst, Part.zone_setZone_self]
    obtain ⟨q, hqdef⟩ : ∃ q, q = (zonePending z c g).post .tuneDone (zoneCode z) (some c.freq) := ⟨_, rfl⟩
    have hdecide : decideTune z a c p = (.ok, q) := by
      simp only [decideTune, hown, Option.any_none, Bool.false_eq_true, if_false, Option.filter_none, harb, if_true,
        hqdef, hg]
    rw [hpending, setZone_setZone, hgeq] at hqdef
    have hzone : q.zone z = p.naming c ((zs.get z).awaiting c) := by
      rw [hqdef]
      exact PerZone.get_set_self ..
    have htuner : q.tuner t = { p.tuner t with claims := cs } := by
      rw [hqdef]
      cases t <;> rfl
    have hquiet : q.quiet = true := by
      refine quiet_of hq (by rw [hqdef]; rfl) (by rw [hqdef]; rfl) (by rw [hqdef]; rfl) (by rw [hqdef]; rfl) ?_ ?_
      · intro u d hd hwho
        rcases eq_or_other t u with rfl | rfl
        · rw [htuner] at hd
          rcases (hcs d).mp hd with rfl | hd
          · cases z <;> cases ha <;> simp at hwho
          · exact hd
        · rw [hqdef] at hd
          cases t <;> exact hd
      · intro u
        rw [hqdef]
        exact .inl rfl
    obtain ⟨rl, hrl⟩ := noteReports_eq p q
    refine ⟨noteReports p q, exec_tune_done w ht (hrequest.trans hdecide) hquiet, ?_⟩
    rw [hrl]
    refine ⟨?_, ?_, fun k hk => ?_, ?_, ?_, ?_, ?_, ?_, ?_, ?_, ?_, ?_⟩
    · show q.tuner t = { p.tuner t with claims := (q.tuner t).claims }
      rw [htuner]
    · show _ ∈ (q.tuner t).claims
      rw [htuner]
      exact (hcs _).mpr (.inl rfl)
    · show _ ∈ (q.tuner t).claims
      rw [htuner]
      exact (hcs _).mpr (.inr hk)
    · rw [hqdef]
      cases t <;> rfl
    · rw [hqdef]; rfl
    · rw [hqdef]; rfl
    · exact congrArg Zone.state hzone
    · exact congrArg Zone.source hzone
    · exact congrArg Zone.chan hzone
    · exact (congrArg Zone.att hzone).trans hatt
    · rw [hqdef]; rfl
    · rw [hqdef]; rfl
  · obtain ⟨-, -, -, -, hretry⟩ := plays_alone hplays hc hoc
    obtain ⟨b, hb⟩ : ∃ b, b = attach z t none (p.setFollow t (p.follow t).ended) := ⟨_, rfl⟩
    have hbt (u : TunerId) : b.tuner u = p.tuner u := by rw [hb]; rfl
    obtain ⟨tu, lb, e, htuners, hmem, -⟩ := tuneStart_sent (t := t) (c := c) (note := some z) (p := b)
      (by rw [hb]; exact haddr) (by rw [hbt]; exact hretry)
    obtain ⟨g, hg⟩ : ∃ g, g = tuneStart t c (some z) false b := ⟨_, rfl⟩
    have hgeq := hg.trans e
    have htst : (g.setZone z ((g.zone z).awaiting c)).tst = p.tst := by rw [hgeq, hb]; rfl
    obtain ⟨q, hqdef⟩ : ∃ q, q = zonePending z c g := ⟨_, rfl⟩
    have hdecide : decideTune z a c p = (.ok, q) := by rw [decideTune_moved hplays hc hoc hch, hqdef, hg, hb]
    rw [zonePending_eq, nameStation_clean (by rw [htst]; exact hl), naming_of_tst htst, Part.zone_setZone_self,
      setZone_setZone] at hqdef
    have hgz : (g.zone z).att = some t := by
      rw [hgeq, hb]
      exact congrArg Zone.att (PerZone.get_set_self ..)
    have hzone : q.zone z = p.naming c ((g.zone z).awaiting c) := by
      rw [hqdef]
      exact PerZone.get_set_self ..
    have htuner : q.tuner t = tunedRecord c (some z) false (p.tuner t) := by
      rw [← hbt, hqdef, hgeq]
      show tu.tuners.get t = _
      rw [htuners]
      cases t <;> rfl
    have hother : q.tuner t.other = p.tuner t.other := by
      rw [← hbt, hqdef, hgeq]
      show tu.tuners.get t.other = _
      rw [htuners]
      cases t <;> rfl
    have hquiet : q.quiet = true := by
      refine quiet_of hq (by rw [hqdef, hgeq, hb]; rfl) (by rw [hqdef, hgeq, hb]; rfl) (by rw [hqdef, hgeq, hb]; rfl)
        (by rw [hqdef, hgeq, hb]; rfl) ?_ ?_
      · intro u d hd hwho
        rcases eq_or_other t u with rfl | rfl
        · rwa [htuner] at hd
        · rwa [hother] at hd
      · intro u
        rw [hqdef, hgeq, hb]
        rcases eq_or_other t u with rfl | rfl
        · exact .inr (congrArg Follow.lowTimer (PerTuner.get_set_self ..))
        · exact .inl (by cases t <;> rfl)
    obtain ⟨rl, hrl⟩ := noteReports_eq p q
    refine ⟨noteReports p q, exec_tune_done w ht (hrequest.trans hdecide) hquiet, ?_⟩
    rw [hrl]
    refine ⟨congrArg Tuner.state htuner, congrArg Tuner.chan htuner, (congrArg Tuner.claims htuner).trans hc,
      congrArg Tuner.note htuner, congrArg Tuner.s htuner, hother, ?_, congrArg Zone.state hzone,
      congrArg Zone.source hzone, congrArg Zone.chan hzone, (congrArg Zone.att hzone).trans hgz, ?_, ?_⟩
    · rw [hqdef, hgeq]
      exact hmem
    · rw [hqdef, hgeq, hb]
      rfl
    · rw [hqdef, hgeq, hb]
      rfl

end Sys2Proof.Machine
end

section
/-! PROOFS. POWER_DOWN and its ramp (O53), the ring time and the Call Processor's render block (O55). -/

namespace Sys2Proof.Machine

/-! ### POWER_DOWN -/

theorem exec_powerDown {h : ReqHeader} {p : Part} (w : List Instr) (ht : p.takes 0x70 h = true) :
    exec (.powerDown h) ⟨p, w⟩ = .next ⟨answered 0x70 h (powerDown p).1 [] (powerDown p).2, w⟩ :=
  congrArg (fun q => Host.Outcome.next (⟨q, w⟩ : State)) (ringRequest_taken ht (by decide))

theorem exec_powerDownRampEnd (p : Part) (w : List Instr) :
    exec .powerDownRampEnd ⟨p, w⟩ = .next ⟨noteReports p (stmSettle p (powerDownRampEnd p)), w⟩ := rfl

theorem Zone.silent_iff {r : Zone} :
    r.silent = true ↔ r.ent.applied = 384 ∧ r.prm.applied = 384 ∧ r.call.applied = 384 := by
  simp [Zone.silent, and_assoc]

theorem rampDone_iff {p : Part} {n : Nat} (h : p.pwc.ramp = some n) :
    rampDone p = true ↔ 1 ≤ n ∧ (100 ≤ n ∨ ∀ z, (p.zone z).silent = true) := by
  have hall : (ZoneId.all.all fun z => (p.zone z).silent) = true ↔ ∀ z, (p.zone z).silent = true := by
    simp only [List.all_eq_true]
    exact ⟨fun h z => h z (by cases z <;> decide), fun h z _ => h z⟩
  simp only [rampDone, h, Bool.and_eq_true, decide_eq_true_eq, Bool.or_eq_true, hall]

/-- Settles O53: the three refusals, and whether the ramp's end is due. -/
theorem powerDownRampsIntoDormant : Obligations.PowerDownRampsIntoDormant := by
  refine ⟨fun h p w ht => ?_, fun n p w hr hq hramp => ⟨fun hnot => ?_, fun h1 hdue => ?_⟩⟩
  · rw [exec_powerDown w ht]
    by_cases hm : p.pwc.mode = .active
    · rw [if_pos hm, show powerDown p = (.state, p) by simp [powerDown, Part.isActive, hm]]
    · rw [if_neg hm]
      by_cases hc : p.clp.state = .idle
      · rw [if_neg (not_not.mpr hc)]
        by_cases hn : p.pwc.ramp = none
        · rw [if_neg (not_not.mpr hn), show powerDown p = (.ok, { p with pwc := { p.pwc with ramp := some 0 } }) by
            simp [powerDown, Part.isActive, hm, hc, Part.ramping, hn]]
        · rw [if_pos hn, show powerDown p = (.busy, p) by
            simp [powerDown, Part.isActive, hm, hc, Part.ramping, Option.isSome_iff_ne_none.mpr hn]]
      · rw [if_pos hc, show powerDown p = (.callActive, p) by simp [powerDown, Part.isActive, hm, hc]]
  · have hdone : rampDone p = false := by
      rw [← Bool.not_eq_true, rampDone_iff hramp]
      rintro ⟨h1, hdue⟩
      rcases hnot with h0 | ⟨hlt, z, hz⟩
      · omega
      · rcases hdue with hdue | hdue
        · omega
        · obtain ⟨he, hp, hc⟩ := Zone.silent_iff.mp (hdue z)
          rcases hz with hz | hz | hz
          · exact hz he
          · exact hz hp
          · exact hz hc
    have hsame : powerDownRampEnd p = p := by simp [powerDownRampEnd, hdone]
    rw [exec_powerDownRampEnd, hsame, stmSettle_quiet hq, noteReports_same fun _ => rfl]
  · have hdone : rampDone p = true :=
      (rampDone_iff hramp).mpr ⟨h1, hdue.imp_right fun hz z => Zone.silent_iff.mpr (hz z)⟩
    obtain ⟨q, hqdef⟩ : ∃ q, q = enterDormant .powerDown
      { p with zmx := { p.zmx with zones := .of fun z => (p.zone z).silenced } } := ⟨_, rfl⟩
    have hend : powerDownRampEnd p = q := by
      rw [powerDownRampEnd, hr, hdone, hqdef]
      rfl
    have hquiet : q.quiet = true := by rw [hqdef]; exact hq
    obtain ⟨rl, hrl⟩ := noteReports_eq p q
    refine ⟨noteReports p q, by rw [exec_powerDownRampEnd, hend, stmSettle_quiet hquiet], ?_⟩
    rw [hrl, hqdef]
    refine ⟨rfl, fun z => ?_, rfl, rfl, rfl, rfl⟩
    show (PerZone.of fun z => (p.zone z).silenced).get z = _
    rw [PerZone.get_of]
    rfl

/-! ### The ring time -/

/-- A meter window begins where none runs, and an ERLE window where a context runs in a call that is ACTIVE (R141,
R146). -/
theorem openWindows_spec (active : Bool) (s : SeatRt) :
    (openWindows active s).meterOpen = true ∧ (openWindows active s).v = s.v
      ∧ (openWindows active s).windowOpen = (s.windowOpen || (active && s.context != .reset)) := by
  unfold openWindows
  cases hm : s.meterOpen <;> cases active <;> cases hc : s.context <;> cases ho : s.windowOpen <;>
    simp [hm, hc, ho, SeatRt.nextWindow]

/-- Settles O55: the broadcast and the tick. -/
theorem ringTimeIsSetAndCounts : Obligations.RingTimeIsSetAndCounts := by
  refine ⟨fun src n p w hn ht => ?_, fun p w => ⟨fun hr => ?_, fun hr hlt => ?_⟩⟩
  · have hexec : exec (.ringTime src n) ⟨p, w⟩ = .next ⟨ringTimeBroadcast src n p, w⟩ := rfl
    rw [hexec, ringTimeBroadcast, ht]
    by_cases hs : src = 0
    · simp [hs, Nat.mod_eq_of_lt hn]
    · simp [hs, ignoreBroadcast, count16]
  · have hexec : exec .ringTimeTick ⟨p, w⟩ = .next ⟨ringTimeTick p, w⟩ := rfl
    rw [hexec, ringTimeTick, hr]
    rfl
  · obtain ⟨q, hq⟩ : ∃ q, q = clpBlock { p with rif := { p.rif with ringTime := (p.rif.ringTime + 1) % 4294967296 } } :=
      ⟨_, rfl⟩
    refine ⟨q, ?_, ?_, ?_, fun k => ?_, ?_⟩
    · rw [hq]
      have hexec : exec .ringTimeTick ⟨p, w⟩ = .next ⟨ringTimeTick p, w⟩ := rfl
      rw [hexec, ringTimeTick, if_pos hr]
    · have htime : (p.rif.ringTime + 1) % 4294967296
          = if p.rif.ringTime = 4294967295 then 0 else p.rif.ringTime + 1 := by split <;> omega
      rw [hq, ← htime]
      rfl
    · rw [hq]
      simp only [clpBlock, beq_iff_eq]
      rfl
    · have hseat : q.seat k = openWindows (p.clp.state == .active) (p.seat k) := by
        rw [hq]
        cases k <;> rfl
      obtain ⟨h1, h2, h3⟩ := openWindows_spec (p.clp.state == .active) (p.seat k)
      refine ⟨by rw [hseat, h1], by rw [hseat, h2], ?_⟩
      rw [hseat, h3]
      cases p.clp.state <;> cases (p.seat k).context <;> rfl
    · rw [hq]
      rfl

end Sys2Proof.Machine
end

section
/-! PROOFS. VEHICLE_STATE: the mode, the tailgate, and what the entry to REDUCED leaves (O54). -/

namespace Sys2Proof.Machine

/-! ### What the release of the tuners keeps -/

/-- Of a part what the Station Manager and the Zone Mixer hold whatever the tuners do: errors standing, the radio's
configuration, the watch and the bulletin, the zones' states and sources, and the speed. -/
@[ext] structure Ground where
  latent : List Upset
  radio : RadioCfg
  watch : Option Nat
  bulletin : Bulletin
  zones : ZoneId → ZoneState × Source
  speed : Nat

/-- Of a part what stands whatever the tuners do. -/
def Part.ground (p : Part) : Ground :=
  { latent := p.tst.latent, radio := p.radioCfg, watch := p.stm.watch, bulletin := p.stm.bulletin
    zones := fun z => ((p.zone z).state, (p.zone z).source), speed := p.zmx.speed }

theorem ground_latent {p q : Part} (h : q.ground = p.ground) (hl : p.tst.latent = []) : q.tst.latent = [] :=
  (congrArg Ground.latent h).trans hl

@[simp] theorem ground_setTuner (p : Part) (t : TunerId) (r : Tuner) : (p.setTuner t r).ground = p.ground := rfl

@[simp] theorem ground_setFollow (p : Part) (t : TunerId) (f : Follow) : (p.setFollow t f).ground = p.ground := rfl

@[simp] theorem ground_post (p : Part) (k : NoticeKind) (i : Nat) (v : Option Nat) :
    (p.post k i v).ground = p.ground := rfl

@[simp] theorem ground_updStation (p : Part) (i : Nat) (f : StationSlot → StationSlot) :
    (p.updStation i f).ground = p.ground := rfl

/-- A zone's record changed neither in its state nor in its source. -/
theorem ground_setZone {p : Part} {z : ZoneId} {r : Zone} (h1 : r.state = (p.zone z).state)
    (h2 : r.source = (p.zone z).source) : (p.setZone z r).ground = p.ground := by
  have hz (x : ZoneId) : (((p.setZone z r).zone x).state, ((p.setZone z r).zone x).source)
      = ((p.zone x).state, (p.zone x).source) := by
    by_cases hx : x = z
    · rw [hx, Part.zone_setZone_self, h1, h2]
    · rw [Part.zone_setZone_of_ne _ _ _ _ hx]
  exact Ground.ext rfl rfl rfl rfl (funext hz) rfl

theorem ground_tuc (p : Part) (tu : Tuc) (f : PerTuner Follow) :
    ({ p with tuc := tu, stm := { p.stm with follow := f } } : Part).ground = p.ground := rfl

@[simp] theorem ground_idleTuner (t : TunerId) (p : Part) : (idleTuner t p).ground = p.ground := by
  obtain ⟨tu, f, e, -⟩ := idleTuner_only t p
  rw [e, ground_tuc]

@[simp] theorem ground_idleIfFree (t : TunerId) (p : Part) : (idleIfFree t p).ground = p.ground := by
  obtain ⟨tu, f, e, -⟩ := idleIfFree_only t p
  rw [e, ground_tuc]

theorem detached_shows (z x : ZoneId) (r : Zone) :
    (detached z x r).state = r.state ∧ (detached z x r).source = r.source := by
  unfold detached
  split <;> exact ⟨rfl, rfl⟩

theorem ground_detached (p : Part) (z : ZoneId) (tu : Tuc) :
    ({ p with zmx := { p.zmx with zones := .of fun x => detached z x (p.zone x) }, tuc := tu } : Part).ground
      = p.ground := by
  refine Ground.ext rfl rfl rfl rfl (funext fun x => ?_) rfl
  simp only [Part.ground, Part.zone, PerZone.get_of, (detached_shows z x _).1, (detached_shows z x _).2]

@[simp] theorem ground_detach (z : ZoneId) (p : Part) : (detach z p).ground = p.ground := by
  rw [detach_eq]
  exact ground_detached p z p.tuc

theorem ground_leaveFade (p : Part) : (leaveFade p).ground = p.ground := by
  refine foldl_keeps _ _ _ Part.ground fun q z => ?_
  split
  · rfl
  · exact ground_setZone rfl rfl

theorem ground_storeQuality {p : Part} (c : Chan) (n : Nat) (hl : p.tst.latent = []) :
    (storeQuality c n p).ground = p.ground := by
  unfold storeQuality
  rw [readHolder_clean c hl]
  dsimp only
  split <;> rfl

theorem ground_abandonSwitch {p : Part} (t : TunerId) (hl : p.tst.latent = []) :
    (abandonSwitch t p).ground = p.ground := by
  unfold abandonSwitch
  split
  · simp only [ground_idleIfFree, ground_setTuner, ground_setFollow, ground_leaveFade]
    split
    · exact ground_storeQuality _ _ hl
    · rfl
  · rfl

theorem ground_releaseAll (t : TunerId) (p : Part) : (releaseAll t p).ground = p.ground := by
  unfold releaseAll
  refine foldl_keeps _ _ _ Part.ground fun q c => ?_
  unfold detachClaimant
  split
  · exact ground_detach _ q
  · rfl

@[simp] theorem ground_endScan (b : Bool) (p : Part) : (endScan b p).ground = p.ground := by
  unfold endScan
  split <;> rfl

/-! ### The tuners released -/

/-- No tuner holds a claim, plays, switches or waits. -/
def Part.idleTuners (p : Part) : Prop :=
  ∀ t, (p.tuner t).claims = [] ∧ ((p.tuner t).state = .idle ∨ (p.tuner t).state = .fault)
    ∧ (p.follow t).lowTimer = false ∧ p.switching t = false

theorem idleIfFree_released {p : Part} (h : p.idleTuners) (t : TunerId) : idleIfFree t p = p := by
  obtain ⟨-, hstate, -⟩ := h t
  rcases hstate with hs | hs <;> simp [idleIfFree, hs]

theorem tuners_detachClaimant (w : Claimant) (p : Part) : (detachClaimant w p).tuc = p.tuc := by
  unfold detachClaimant
  split <;> simp

theorem releaseAll_claims (t u : TunerId) (p : Part) :
    ((releaseAll t p).tuner u).claims = if u = t then [] else (p.tuner u).claims := by
  have hfold : ∀ (cs : List Claim) (q : Part), (cs.foldl (fun q c => detachClaimant c.who q) q).tuc = q.tuc :=
    fun cs q => foldl_keeps _ _ _ Part.tuc fun q c => tuners_detachClaimant _ q
  unfold releaseAll Part.tuner
  rw [hfold]
  cases t <;> cases u <;> rfl

/-- The end of a tuner's work as its claims have gone. -/
def stopTuner (q : Part) (t : TunerId) : Part :=
  if (q.tuner t).state == .fault then q.setFollow t (q.follow t).ended else idleTuner t q

theorem releaseTuners_eq (p : Part) : releaseTuners p
    = endScan true (stopTuner (stopTuner (releaseAll .b
      (releaseAll .a (abandonSwitch .b (abandonSwitch .a p)))) .a) .b) :=
  rfl

theorem stopTuner_only (q : Part) (t : TunerId) :
    (stopTuner q t).ground = q.ground
      ∧ (∀ u, ((stopTuner q t).tuner u).claims = (q.tuner u).claims)
      ∧ (((stopTuner q t).tuner t).state = .idle ∨ ((stopTuner q t).tuner t).state = .fault)
      ∧ ((stopTuner q t).tuner t.other).state = (q.tuner t.other).state
      ∧ (stopTuner q t).follow t = (q.follow t).ended ∧ (stopTuner q t).follow t.other = q.follow t.other := by
  have hne : t.other ≠ t := by cases t <;> decide
  unfold stopTuner
  split
  · rename_i hf
    refine ⟨rfl, fun _ => rfl, .inr (by simpa using hf), rfl, Part.follow_setFollow_self .., ?_⟩
    cases t <;> rfl
  · have hfollow : (idleTuner t q).follow t = (q.follow t).ended ∧ (idleTuner t q).follow t.other
      = q.follow t.other := by
      unfold idleTuner Part.follow
      obtain ⟨tu, e, -⟩ := issue_only t .standby (Part.setFollow (q.setTuner t
        { q.tuner t with state := .idle, settle := false, adapter := flush (q.tuner t).adapter
                         acked := false, done := false, note := none, seek := none }) t (q.follow t).ended)
      dsimp only
      refine ⟨?_, ?_⟩
      · exact (congrArg (fun r : Part => r.stm.follow.get t) e).trans (by cases t <;> rfl)
      · exact (congrArg (fun r : Part => r.stm.follow.get t.other) e).trans (by cases t <;> rfl)
    obtain ⟨tu, f, e, hc, -⟩ := idleTuner_only t q
    refine ⟨ground_idleTuner t q, fun u => ?_, .inl ?_, ?_, hfollow⟩
    · rw [e]
      exact (hc u).1
    · rw [e]
      exact (hc t).2.trans (if_pos rfl)
    · rw [e]
      exact (hc t.other).2.trans (if_neg hne)

theorem releaseTuners_idle {p : Part} (hl : p.tst.latent = []) :
    (releaseTuners p).ground = p.ground ∧ (releaseTuners p).idleTuners ∧ (releaseTuners p).stm.scan = none := by
  obtain ⟨b, hb⟩ : ∃ b, b = releaseAll .b (releaseAll .a (abandonSwitch .b (abandonSwitch .a p))) := ⟨_, rfl⟩
  have hground : b.ground = p.ground := by
    have ha := ground_abandonSwitch .a hl
    rw [hb, ground_releaseAll, ground_releaseAll, ground_abandonSwitch .b (ground_latent ha hl), ha]
  have hclaims (u : TunerId) : (b.tuner u).claims = [] := by
    rw [hb, releaseAll_claims, releaseAll_claims]
    cases u <;> rfl
  obtain ⟨c, hc⟩ : ∃ c, c = stopTuner b .a := ⟨_, rfl⟩
  obtain ⟨d, hd⟩ : ∃ d, d = stopTuner c .b := ⟨_, rfl⟩
  obtain ⟨g1, c1, s1, o1, f1, fo1⟩ := stopTuner_only b .a
  obtain ⟨g2, c2, s2, o2, f2, fo2⟩ := stopTuner_only c .b
  rw [← hc] at g1 c1 s1 o1 f1 fo1
  rw [← hd] at g2 c2 s2 o2 f2 fo2
  have heq : releaseTuners p = endScan true d := by rw [releaseTuners_eq, hd, hc, hb]
  have hscan : (endScan true d).stm.scan = none := by
    unfold endScan
    split
    · assumption
    · rfl
  have hfollow (t : TunerId) : (endScan true d).follow t = d.follow t := by
    unfold endScan
    split <;> rfl
  have hended (t : TunerId) : ∃ f : Follow, d.follow t = f.ended := by
    cases t with
    | a => exact ⟨_, fo2.trans f1⟩
    | b => exact ⟨_, f2⟩
  rw [heq]
  refine ⟨by rw [ground_endScan, g2, g1, hground], fun t => ?_, hscan⟩
  obtain ⟨f, hf⟩ := hended t
  have htuner : (endScan true d).tuner t = d.tuner t := by unfold Part.tuner; simp
  refine ⟨by rw [htuner, c2, c1, hclaims], ?_, by rw [hfollow, hf]; rfl, ?_⟩
  · rw [htuner]
    cases t with
    | a => rw [show (d.tuner .a).state = (c.tuner .a).state from o2]; exact s1
    | b => exact s2
  · rw [Part.switching, hfollow, hf]
    rfl

/-! ### The entry to REDUCED -/

/-- A withdrawal while no tuner works detaches its zone at most. -/
theorem withdraw_idle {p : Part} (h : p.idleTuners) (w : Claimant) :
    (withdraw w p).ground = p.ground ∧ (withdraw w p).idleTuners ∧ (withdraw w p).stm = p.stm := by
  have hcases : ∃ zs gs, withdraw w p = idleIfFree .b (idleIfFree .a { p with
        zmx := { p.zmx with zones := zs }
        tuc := { p.tuc with tuners := .of fun u => (p.tuner u).without w, grants := gs } })
      ∧ ({ p with zmx := { p.zmx with zones := zs }
                  tuc := { p.tuc with tuners := .of fun u => (p.tuner u).without w, grants := gs } } : Part).ground
        = p.ground := by
    cases hz : w.zone? with
    | none =>
      refine ⟨p.zmx.zones, p.tuc.grants, ?_, rfl⟩
      rw [withdraw_only hz (h .a).2.2.2 (h .b).2.2.2, giveUp, dropClaim_both]
    | some z =>
      exact ⟨_, _, withdraw_listener hz fun t => (h t).2.2.2, ground_detached p z _⟩
  obtain ⟨zs, gs, e, hground⟩ := hcases
  obtain ⟨q, hq⟩ : ∃ q : Part, q = { p with
      zmx := { p.zmx with zones := zs }
      tuc := { p.tuc with tuners := .of fun u => (p.tuner u).without w, grants := gs } } := ⟨_, rfl⟩
  rw [← hq] at e hground
  have hidle : q.idleTuners := by
    intro t
    obtain ⟨hc, hs, hf, hw⟩ := h t
    have ht : q.tuner t = (p.tuner t).without w := by rw [hq]; exact PerTuner.get_of ..
    refine ⟨?_, ?_, by rw [hq]; exact hf, by rw [hq]; exact hw⟩
    · simp [ht, Tuner.without, hc]
    · simpa [ht, Tuner.without] using hs
  rw [e, idleIfFree_released hidle .a, idleIfFree_released hidle .b]
  exact ⟨hground, hidle, by rw [hq]⟩

/-- What stands, with a zone in another state. -/
def Ground.enter (g : Ground) (z : ZoneId) (s : ZoneState) : Ground :=
  { g with zones := fun x => if x = z then (s, (g.zones x).2) else g.zones x }

theorem ground_entered {p : Part} {z : ZoneId} {r : Zone} {s : ZoneState} (h1 : r.state = s)
    (h2 : r.source = (p.zone z).source) : (p.setZone z r).ground = p.ground.enter z s := by
  refine Ground.ext rfl rfl rfl rfl (funext fun x => ?_) rfl
  by_cases hx : x = z
  · simp [Part.ground, Ground.enter, hx, h1, h2]
  · simp [Part.ground, Ground.enter, hx, Part.zone_setZone_of_ne _ _ _ _ hx]

theorem enter_same {p : Part} {z : ZoneId} {s : ZoneState} (h : (p.zone z).state = s) :
    p.ground.enter z s = p.ground := by
  rw [← ground_entered (p := p) (z := z) (r := p.zone z) h rfl]
  exact ground_setZone rfl rfl

theorem enterState_only (z : ZoneId) (s : ZoneState) (p : Part) :
    (enterState z s p).ground = p.ground.enter z s ∧ (enterState z s p).tuc = p.tuc ∧ (enterState z s p).stm = p.stm
      ∧ (enterState z s p).clp = p.clp := by
  have hset : (p.setZone z { p.zone z with state := s }).ground = p.ground.enter z s := ground_entered rfl rfl
  unfold enterState
  dsimp only
  split
  · exact ⟨hset, rfl, rfl, rfl⟩
  · exact ⟨hset, rfl, rfl, rfl⟩

theorem idleTuners_of {p q : Part} (h : p.idleTuners) (ht : q.tuc = p.tuc) (hs : q.stm = p.stm) : q.idleTuners := by
  intro t
  have := h t
  unfold Part.switching Part.tuner Part.follow at *
  rwa [ht, hs]

theorem leaveCall_only {z : ZoneId} {p : Part} (hl : p.tst.latent = []) :
    (leaveCall z p).ground = p.ground ∧ (leaveCall z p).tuc = p.tuc ∧ (leaveCall z p).stm = p.stm
      ∧ (leaveCall z p).clp.state = p.clp.state := by
  unfold leaveCall
  split
  · obtain ⟨q, e, hq, -, hs, -⟩ := setCallZones_follows (zs := p.clp.zones.set z false) hl
    rw [e]
    exact ⟨by rw [hq]; rfl, by rw [hq], by rw [hq], hs⟩
  · exact ⟨rfl, rfl, rfl, rfl⟩

/-- A zone switched off while no tuner works. -/
theorem powerOff_idle {z : ZoneId} {p : Part} (h : p.idleTuners) (hl : p.tst.latent = []) :
    (powerOff z p).ground = p.ground.enter z .off ∧ (powerOff z p).idleTuners ∧ (powerOff z p).stm = p.stm
      ∧ (powerOff z p).clp.state = p.clp.state := by
  unfold powerOff
  split
  · rename_i hoff
    exact ⟨(enter_same (by simpa using hoff)).symm, h, rfl, rfl⟩
  · obtain ⟨b, hb⟩ : ∃ b, b = p.setZone z { p.zone z with state := .off, autoOn := false } := ⟨_, rfl⟩
    have hbg : b.ground = p.ground.enter z .off := by rw [hb]; exact ground_entered rfl rfl
    have hbi : b.idleTuners := idleTuners_of h (by rw [hb]; rfl) (by rw [hb]; rfl)
    obtain ⟨c, hc⟩ : ∃ c, c = withdrawZone z b := ⟨_, rfl⟩
    have hcs : c.ground = b.ground ∧ c.idleTuners ∧ c.stm = b.stm := by
      rw [hc]
      unfold withdrawZone
      split
      · exact withdraw_idle hbi _
      · exact ⟨rfl, hbi, rfl⟩
    obtain ⟨hcg, hci, hcst⟩ := hcs
    have hclp : c.clp = p.clp := by rw [hc, hb]; simp
    have hstm : c.stm = p.stm := by rw [hcst, hb]; rfl
    rw [← hb, ← hc]
    dsimp only
    split
    · obtain ⟨h1, h2, h3, h4⟩ := leaveCall_only (z := z) (p := c) ((congrArg Ground.latent (hcg.trans hbg)).trans hl)
      exact ⟨by rw [h1, hcg, hbg], idleTuners_of hci h2 h3, by rw [h3, hstm], by rw [h4, hclp]⟩
    · exact ⟨by rw [hcg, hbg], hci, hstm, by rw [hclp]⟩

/-- The zones' records at the entry to REDUCED (R38). -/
def Ground.reduced (g : Ground) : Ground :=
  let off := ((g.enter .hpLeft .off).enter .hpRight .off).enter .cargo .off
  let onAir (x : ZoneState × Source) : Bool := x.2 == .radio && (x.1 == .pending || x.1 == .playing)
  let front := onAir (off.zones .front)
  let cabin := onAir (off.zones .rearCabin) || front && (off.zones .rearCabin).1 != .off
  let g := if front then off.enter .front .lost else off
  if cabin then g.enter .rearCabin .lost else g

theorem zonesReduced_idle {p : Part} (h : p.idleTuners) (hl : p.tst.latent = []) :
    (zonesReduced p).ground = p.ground.reduced ∧ (zonesReduced p).idleTuners ∧ (zonesReduced p).stm = p.stm
      ∧ (zonesReduced p).clp.state = p.clp.state := by
  obtain ⟨b, hb⟩ : ∃ b, b = powerOff .hpLeft p := ⟨_, rfl⟩
  obtain ⟨c, hc⟩ : ∃ c, c = powerOff .hpRight b := ⟨_, rfl⟩
  obtain ⟨d, hd⟩ : ∃ d, d = powerOff .cargo c := ⟨_, rfl⟩
  obtain ⟨g1, i1, s1, k1⟩ := powerOff_idle (z := .hpLeft) h hl
  rw [← hb] at g1 i1 s1 k1
  obtain ⟨g2, i2, s2, k2⟩ := powerOff_idle (z := .hpRight) i1 ((congrArg Ground.latent g1).trans hl)
  rw [← hc] at g2 i2 s2 k2
  obtain ⟨g3, i3, s3, k3⟩ := powerOff_idle (z := .cargo) i2 ((congrArg Ground.latent (g2.trans (by rw [g1]))).trans hl)
  rw [← hd] at g3 i3 s3 k3
  have hoff : d.ground = ((p.ground.enter .hpLeft .off).enter .hpRight .off).enter .cargo .off := by rw [g3, g2, g1]
  obtain ⟨e, he⟩ : ∃ e, e = if (d.zone .front).onAir then enterState .front .lost d else d := ⟨_, rfl⟩
  obtain ⟨q, hq⟩ : ∃ q, q = if (d.zone .rearCabin).onAir || (d.zone .front).onAir && (d.zone .rearCabin).state != .off
    then enterState .rearCabin .lost e else e := ⟨_, rfl⟩
  have hdef : zonesReduced p = q := by rw [hq, he, hd, hc, hb]; rfl
  have hes : e.ground = (if (d.zone .front).onAir then d.ground.enter .front .lost else d.ground) ∧ e.tuc = d.tuc
      ∧ e.stm = d.stm ∧ e.clp = d.clp := by
    rw [he]
    split
    · exact enterState_only _ _ _
    · exact ⟨rfl, rfl, rfl, rfl⟩
  have hqs : q.ground = (if (d.zone .rearCabin).onAir || (d.zone .front).onAir && (d.zone .rearCabin).state != .off
      then e.ground.enter .rearCabin .lost else e.ground) ∧ q.tuc = e.tuc ∧ q.stm = e.stm ∧ q.clp = e.clp := by
    rw [hq]
    split
    · exact enterState_only _ _ _
    · exact ⟨rfl, rfl, rfl, rfl⟩
  obtain ⟨eg, et, es, ec⟩ := hes
  obtain ⟨qg, qt, qs, qc⟩ := hqs
  rw [hdef]
  refine ⟨?_, idleTuners_of i3 (qt.trans et) (qs.trans es), by rw [qs, es, s3, s2, s1], by rw [qc, ec, k3, k2, k1]⟩
  rw [qg, eg, Ground.reduced, ← hoff]
  rfl

/-- With no bulletin prompted, the BULLETIN records that go change the Announcement Unit alone, with their notices. -/
theorem dropBulletins_quiet {p : Part} (h : p.stm.bulletin.latch ≠ .prompted) :
    ∃ an nf, dropBulletins p = { p with anu := an, nfu := nf } := by
  have hstep : ∀ (l : List Prompt) (q : Part), q.stm.bulletin.latch ≠ .prompted →
      ∃ an nf, l.foldl dropBulletin q = { q with anu := an, nfu := nf } := by
    intro l
    induction l with
    | nil => exact fun q _ => ⟨q.anu, q.nfu, rfl⟩
    | cons r l ih =>
      intro q hq
      have hone : ∃ an nf, dropBulletin q r = { q with anu := an, nfu := nf } := by
        unfold dropBulletin
        split
        · rename_i hr
          have hgone : ∀ x : Part, x.stm = q.stm → tellPrompt r x = x := by
            intro x hx
            have hcls : r.cls = .bulletin := by simpa using hr
            simp [tellPrompt, hcls, bulletinGone, hx, hq]
          rw [hgone _ (by simp)]
          unfold removePrompt
          dsimp only
          split <;> exact ⟨_, _, rfl⟩
        · exact ⟨q.anu, q.nfu, rfl⟩
      obtain ⟨an, nf, e⟩ := hone
      obtain ⟨an', nf', e'⟩ := ih (dropBulletin q r) (by rw [e]; exact hq)
      exact ⟨an', nf', by rw [List.foldl_cons, e', e]⟩
  exact hstep _ p h

end Sys2Proof.Machine
end

section
/-! PROOFS. VEHICLE_STATE moves the mode and the tailgate (O54). -/

namespace Sys2Proof.Machine

/-! ### The notices of a change -/

/-- A kind that has been posted stays posted under later notices and faults. -/
theorem Posts.keeps_kind {k : NoticeKind} {n m : Nfu} (h : Posts n m)
    (hn : (n.notices.any fun x => x.kind == k) = true) :
    (m.notices.any fun x => x.kind == k) = true := by
  have hpost (m : Nfu) (k' : NoticeKind) (i : Nat) (v : Option Nat)
      (hm : (m.notices.any fun x => x.kind == k) = true) :
      ((m.post k' i v).notices.any fun x => x.kind == k) = true := by
    unfold Nfu.post
    split
    · have hkind : ∀ x, (updateNotice k' i v x).kind = x.kind := by
        intro x
        unfold updateNotice
        split <;> rfl
      simpa [hkind] using hm
    · split
      · simp [hm]
      · exact hm
  induction h with
  | refl => exact hn
  | post k' i v _ ih => exact hpost _ k' i v ih
  | fault k' i e t _ ih =>
    unfold Nfu.fault
    dsimp only
    split
    · split
      · exact hpost _ _ _ _ ih
      · exact ih
    · exact ih

theorem post_has_kind {n : Nfu} (k : NoticeKind) (i : Nat) (v : Option Nat) (h : n.notices.length < 32) :
    ((n.post k i v).notices.any fun x => x.kind == k) = true := by
  unfold Nfu.post
  split
  · rename_i hany
    obtain ⟨x, hx, his⟩ := List.any_eq_true.mp hany
    refine List.any_eq_true.mpr ⟨updateNotice k i v x, List.mem_map_of_mem hx, ?_⟩
    simp only [Notice.is, Bool.and_eq_true] at his
    unfold updateNotice
    split <;> exact his.1
  · simp

/-! ### The entry to REDUCED -/

theorem enterReduced_idle {p : Part} (hl : p.tst.latent = []) (hb : p.stm.bulletin.latch ≠ .prompted) :
    (enterReduced p).ground = p.ground.reduced ∧ (enterReduced p).idleTuners ∧ (enterReduced p).stm.scan = none
      ∧ (enterReduced p).stm.watchState = .inactive ∧ (enterReduced p).clp.state = p.clp.state
      ∧ Posts (p.nfu.post .modeChanged 0 none) (enterReduced p).nfu := by
  obtain ⟨a, ha⟩ : ∃ a, a = (setMode .reduced p).post .modeChanged := ⟨_, rfl⟩
  have hag : a.ground = p.ground := by rw [ha]; rfl
  obtain ⟨g1, i1, s1⟩ := releaseTuners_idle (ground_latent hag hl)
  obtain ⟨b, hbdef⟩ : ∃ b, b = releaseTuners a := ⟨_, rfl⟩
  rw [← hbdef] at g1 i1 s1
  obtain ⟨g2, i2, s2, k2⟩ := zonesReduced_idle i1 (ground_latent (g1.trans hag) hl)
  obtain ⟨c, hc⟩ : ∃ c, c = zonesReduced b := ⟨_, rfl⟩
  rw [← hc] at g2 i2 s2 k2
  obtain ⟨d, hd⟩ : ∃ d : Part, d = { c with stm := { c.stm with watchState := .inactive } } := ⟨_, rfl⟩
  have hbulletin : d.stm.bulletin = p.stm.bulletin := by
    rw [hd]
    show c.stm.bulletin = _
    rw [s2]
    exact congrArg Ground.bulletin (g1.trans hag)
  obtain ⟨an, nf, e⟩ := dropBulletins_quiet (p := d) (by rwa [hbulletin])
  have hq : enterReduced p = dropBulletins d := by rw [hd, hc, hbdef, ha]; rfl
  have hposts : Posts a.nfu (enterReduced p).nfu := by
    have hbp : Posts a.nfu b.nfu := by rw [hbdef]; exact releaseTuners_posts a .refl
    have hcp : Posts a.nfu c.nfu := by rw [hc]; exact zonesReduced_posts b hbp
    rw [hq]
    exact dropBulletins_posts d (by rw [hd]; exact hcp)
  refine ⟨?_, ?_, ?_, ?_, ?_, by rw [ha] at hposts; exact hposts⟩
  · have hdg : d.ground = c.ground := by rw [hd]; rfl
    rw [hq, e, ← hag, ← g1, ← g2, ← hdg]
    rfl
  · rw [hq, e, hd]
    exact i2
  · rw [hq, e, hd]
    exact (congrArg Stm.scan s2).trans s1
  · rw [hq, e, hd]
  · rw [hq, e, hd]
    show c.clp.state = _
    rw [k2, hbdef, ha]
    simp

/-- What the Station Manager keeps up stays nothing in REDUCED. -/
theorem quiet_of_idle {p q : Part} (h : p.quiet = true) (hg : q.ground.radio = p.ground.radio)
    (hw : q.ground.watch = p.ground.watch) (hb : q.ground.bulletin = p.ground.bulletin) (hi : q.idleTuners)
    (hs : q.stm.watchState = .inactive) : q.quiet = true := by
  obtain ⟨h1, h2, -, -, -, h6, -⟩ := quiet_iff.mp h
  have hnone (w : Claimant) : q.holding w = none :=
    holding_none_iff.mpr fun t c hc => by rw [(hi t).1] at hc; cases hc
  exact quiet_iff.mpr ⟨by rwa [show q.stm.bulletin = _ from hb], by rwa [show q.stm.watch = _ from hw], hs, hnone _,
    hnone _, by rwa [show q.radioCfg = _ from hg], fun t => (hi t).2.2.1⟩

/-! ### The tailgate as it stands -/

theorem takeTailgate_same {p : Part} {o : Bool} (h : p.rmx.tailgateOpen = o) : takeTailgate o p = p := by
  simp [takeTailgate, h]

/-- A VEHICLE_STATE of the head unit's, in range. -/
theorem exec_vehicleState {ig speed : Nat} {g : Ignition} {o : Bool} {p q : Part} (w : List Instr)
    (ht : p.takesBroadcasts = true) (hg : ignitionOf ig = some g) (hq : takeVehicle g speed o p = q)
    (hquiet : q.quiet = true) :
    exec (.vehicleState 0 ig speed (codeOfBool o)) ⟨p, w⟩ = .next ⟨noteReports p q, w⟩ := by
  have ho : boolOf (codeOfBool o) = some o := by cases o <;> rfl
  have hexec : exec (.vehicleState 0 ig speed (codeOfBool o)) ⟨p, w⟩
      = .next ⟨vehicleState 0 ig speed (codeOfBool o) p, w⟩ := rfl
  have hvehicle : vehicleState 0 ig speed (codeOfBool o) p = noteReports p (stmSettle p (takeVehicle g speed o p)) := by
    simp [vehicleState, ht, hg, ho]
  rw [hexec, hvehicle, hq, stmSettle_quiet hquiet]

/-- Both seats see a change: a report is queued for each (R126). -/
theorem noteReports_both {p q : Part} (h : ∀ r, reportView p r ≠ reportView q r) (r : RearSeat) :
    ((noteReports p q).rlu.pending.get r).isSome = true := by
  have hright : reportView (q.queueReport .left none) .right = reportView q .right := rfl
  have hsome (o : Option RearResult) : (queuedResult (q.rlu.pending.get r) o).isSome = true := by
    cases o <;> cases hp : q.rlu.pending.get r <;> rfl
  unfold noteReports
  dsimp only
  rw [if_neg (h .left), hright, if_neg (h .right)]
  cases r <;> exact hsome _

/-! ### A change of the tailgate -/

/-- The zones after a change of tailgate to `o`, which switches CARGO by itself (R33). -/
def Part.zonesAtTailgate (p : Part) (o : Bool) : PerZone Zone :=
  let r := p.zone .cargo
  let front := p.zone .front
  if o && p.cargoAuto && r.state == .off && p.pwc.mode == .active then p.zmx.zones.set .cargo { r with
      source := front.source, chan := front.chan, station := front.station, code := front.code
      step := front.step, att := front.att, att2 := front.att2, held := front.held, autoOn := true
      state := if front.state = .off then .silent else front.state }
  else if !o && r.autoOn && r.state != .off then p.zmx.zones.set .cargo { r with state := .off, autoOn := false }
  else p.zmx.zones

theorem followerState_eq (s : ZoneState) : followerState s = if s = .off then .silent else s := by cases s <;> rfl

theorem cargoAuto_eq (o : Bool) (p : Part) : cargoAuto o p = { p with
    zmx := { p.zmx with zones := p.zonesAtTailgate o }
    nfu := if o && p.cargoAuto && (p.zone .cargo).state == .off && p.pwc.mode == .active
        && (p.zone .front).state == .lost then p.nfu.post .zoneLost 4 none else p.nfu } := by
  unfold cargoAuto Part.zonesAtTailgate
  cases o with
  | true =>
    by_cases hon : (p.cargoAuto && (p.zone .cargo).state == .off && p.pwc.mode == .active) = true
    · have hoff : (p.zone .cargo).state = .off := by
        simp only [Bool.and_eq_true, beq_iff_eq] at hon
        exact hon.1.2
      have hpower : powerOnZone .cargo p = followFront .cargo p := rfl
      simp only [if_true, Part.isActive, hon, Bool.true_and, hpower, followFront_off hoff, beq_iff_eq]
      rw [← followerState_eq]
      by_cases hlost : (p.zone .front).state = .lost
      · rw [if_pos hlost, if_pos hlost]
        rfl
      · rw [if_neg hlost, if_neg hlost]
        rfl
    · have hnot : (p.cargoAuto && (p.zone .cargo).state == .off && p.pwc.mode == .active) = false := by simpa using hon
      simp only [if_true, Part.isActive, hnot, Bool.true_and, Bool.false_and, Bool.not_true, Bool.false_eq_true,
        if_false]
  | false =>
    cases hauto : (p.zone .cargo).autoOn with
    | false => simp only [Bool.false_eq_true, if_false, hauto, Bool.false_and, Bool.and_false]
    | true =>
      by_cases hoff : (p.zone .cargo).state = .off
      · simp only [Bool.false_eq_true, if_false, if_true, hauto, powerOff, hoff, beq_self_eq_true, Bool.false_and,
          bne_self_eq_false, Bool.and_false]
      · have hne : ((p.zone .cargo).state != .off) = true := by simpa using hoff
        simp only [Bool.false_eq_true, if_false, if_true, hauto, powerOff, beq_iff_eq, hoff, Bool.false_and,
          Bool.not_false, Bool.true_and, hne]
        rfl

theorem setSignature_reset {sig : Signature} {p : Part} (hl : p.tst.latent = [])
    (h : ∀ k, (p.seat k).context = .reset) : (setSignature sig p).nfu = p.nfu := by
  unfold setSignature
  split
  · rfl
  · have hfold : ∀ (l : List Seat) (q : Part), (∀ k, (q.seat k).context = .reset) →
        l.foldl (retrain sig) q = q := by
      intro l
      induction l with
      | nil => exact fun q _ => rfl
      | cons k l ih =>
        intro q hq
        rw [List.foldl_cons, show retrain sig q k = q by simp [retrain, hq k], ih q hq]
    obtain ⟨b, hb⟩ : ∃ b : Part, b = { p with clp := { p.clp with sig := sig } } := ⟨_, rfl⟩
    show (setUplink (Seat.all.foldl (retrain sig) _)).nfu = _
    rw [← hb, hfold _ b (by rw [hb]; exact h), setUplink_clean (by rw [hb]; exact hl), hb]
    rfl

/-- A change of the tailgate: CARGO, then the column and the path signature (R33, R45, R145). -/
theorem takeTailgate_changed {p : Part} {o : Bool} (h : p.rmx.tailgateOpen ≠ o) (hl : p.tst.latent = []) :
    ∃ cl nf, takeTailgate o p = { p with
        rmx := { p.rmx with tailgateOpen := o }
        zmx := { p.zmx with zones := p.zonesAtTailgate o }, clp := cl, nfu := nf }
      ∧ cl.sig = { p.clp.sig with openCol := o }
      ∧ ((∀ k, (p.seat k).context = .reset) → nf = if o && p.cargoAuto && (p.zone .cargo).state == .off
            && p.pwc.mode == .active && (p.zone .front).state == .lost
          then p.nfu.post .zoneLost 4 none else p.nfu) := by
  obtain ⟨a, ha⟩ : ∃ a, a = cargoAuto o { p with rmx := { p.rmx with tailgateOpen := o } } := ⟨_, rfl⟩
  have haeq := ha.trans (cargoAuto_eq o _)
  have htake : takeTailgate o p = setSignature { a.clp.sig with openCol := o } a := by
    rw [takeTailgate, if_neg (by simpa using h), ha]
  obtain ⟨u, n, gate, e⟩ := setSignature_seats (sig := { a.clp.sig with openCol := o }) (p := a)
    (by rw [haeq]; exact hl)
  obtain ⟨q, hq⟩ : ∃ q, q = takeTailgate o p := ⟨_, rfl⟩
  have hqeq := (hq.trans htake).trans e
  refine ⟨q.clp, n, ?_, ?_, fun hreset => ?_⟩
  rotate_left 2
  · have hn : n = a.nfu := (congrArg Part.nfu e).symm.trans
      (setSignature_reset (by rw [haeq]; exact hl) (by rw [haeq]; exact hreset))
    rw [hn, haeq]
    rfl
  · rw [← hq, hqeq, haeq]
    rfl
  · rw [hqeq, haeq]

/-- The zones' states at the entry to REDUCED, one by one (R38). -/
theorem reduced_zones (p : Part) :
    (p.ground.reduced.zones .hpLeft).1 = .off ∧ (p.ground.reduced.zones .hpRight).1 = .off
      ∧ (p.ground.reduced.zones .cargo).1 = .off
      ∧ (p.ground.reduced.zones .front).1 = (if (p.zone .front).onAir then .lost else (p.zone .front).state)
      ∧ (p.ground.reduced.zones .rearCabin).1
          = if (p.zone .rearCabin).onAir || (p.zone .front).onAir && (p.zone .rearCabin).state != .off then .lost
            else (p.zone .rearCabin).state := by
  have hfront (z : ZoneId) : ((p.ground.zones z).2 == .radio
      && ((p.ground.zones z).1 == .pending || (p.ground.zones z).1 == .playing)) = (p.zone z).onAir := rfl
  have hcabin : ((p.ground.zones .rearCabin).1 != .off) = ((p.zone .rearCabin).state != .off) := rfl
  unfold Ground.reduced Ground.enter
  simp only [reduceCtorEq, if_false, hfront, hcabin]
  cases (p.zone .front).onAir <;> cases (p.zone .rearCabin).onAir <;>
    cases (p.zone .rearCabin).state != .off <;> exact ⟨rfl, rfl, rfl, rfl, rfl⟩

theorem onAir_iff {r : Zone} : r.onAir = true ↔ r.source = .radio ∧ (r.state = .pending ∨ r.state = .playing) := by
  simp [Zone.onAir]

/-- Ignition OFF in ACTIVE: the part enters REDUCED (R38, R70, R173). -/
theorem exec_vehicleState_off {ig speed : Nat} {p : Part} (w : List Instr) (ht : p.takesBroadcasts = true)
    (hq : p.quiet = true) (hl : p.tst.latent = []) (hg : ignitionOf ig = some .off) (hm : p.pwc.mode = .active) :
    ∃ q, exec (.vehicleState 0 ig speed (codeOfBool p.rmx.tailgateOpen)) ⟨p, w⟩ = .next ⟨q, w⟩
      ∧ q.pwc = { p.pwc with ignition := .off, mode := .reduced } ∧ q.zmx.speed = min 300 speed
      ∧ (∀ t, (q.tuner t).claims = []) ∧ q.stm.scan = none
      ∧ (q.zone .hpLeft).state = .off ∧ (q.zone .hpRight).state = .off ∧ (q.zone .cargo).state = .off
      ∧ ((q.zone .front).state = (if (p.zone .front).onAir = true then .lost else (p.zone .front).state)
        ∧ (q.zone .rearCabin).state = if (p.zone .rearCabin).onAir = true
            ∨ ((p.zone .front).onAir = true ∧ (p.zone .rearCabin).state ≠ .off) then .lost
            else (p.zone .rearCabin).state)
      ∧ q.clp.state = p.clp.state
      ∧ (p.nfu.notices.length < 32 → (q.nfu.notices.any fun m => m.kind == .modeChanged) = true) := by
  obtain ⟨a, ha⟩ : ∃ a : Part, a = { p with pwc := { p.pwc with ignition := .off } } := ⟨_, rfl⟩
  have hag : a.ground = p.ground := by rw [ha]; rfl
  have hbulletin : a.stm.bulletin.latch ≠ .prompted := by rw [ha]; exact (quiet_iff.mp hq).1
  obtain ⟨g1, i1, s1, w1, c1, n1⟩ := enterReduced_idle (ground_latent hag hl) hbulletin
  have hpwc := enterReduced_pwc a
  have hrmx : (enterReduced a).rmx = a.rmx := by simp
  have hignition : takeIgnition .off p = enterReduced a := by
    rw [ha]
    simp only [takeIgnition, hm, beq_self_eq_true, if_true]
  obtain ⟨b, hb⟩ : ∃ b, b = enterReduced a := ⟨_, rfl⟩
  rw [← hb] at g1 i1 s1 w1 c1 n1 hpwc hrmx hignition
  obtain ⟨q, hqdef⟩ : ∃ q, q = takeSpeed speed b := ⟨_, rfl⟩
  have htake : takeVehicle .off speed p.rmx.tailgateOpen p = q := by
    rw [takeVehicle, hignition, ← hqdef, takeTailgate_same]
    rw [hqdef]
    show b.rmx.tailgateOpen = _
    rw [hrmx, ha]
  have hidle : q.idleTuners := idleTuners_of i1 (by rw [hqdef]; rfl) (by rw [hqdef]; rfl)
  have hreduced : q.ground = { p.ground.reduced with speed := min 300 speed } := by
    rw [← hag, ← g1, hqdef]
    rfl
  have hkept : p.ground.reduced.radio = p.ground.radio ∧ p.ground.reduced.watch = p.ground.watch
      ∧ p.ground.reduced.bulletin = p.ground.bulletin := by
    unfold Ground.reduced
    dsimp only
    split <;> split <;> exact ⟨rfl, rfl, rfl⟩
  have hquiet : q.quiet = true := by
    refine quiet_of_idle hq ?_ ?_ ?_ hidle (by rw [hqdef]; exact w1)
    · rw [hreduced]; exact hkept.1
    · rw [hreduced]; exact hkept.2.1
    · rw [hreduced]; exact hkept.2.2
  have hzone (z : ZoneId) : (q.zone z).state = (p.ground.reduced.zones z).1 := by
    have hzones := congrFun (congrArg Ground.zones hreduced) z
    exact congrArg Prod.fst hzones
  obtain ⟨z1, z2, z3, z4, z5⟩ := reduced_zones p
  obtain ⟨rl, hrl⟩ := noteReports_eq p q
  refine ⟨noteReports p q, exec_vehicleState w ht hg htake hquiet, ?_⟩
  rw [hrl]
  refine ⟨?_, ?_, fun t => (hidle t).1, ?_, (hzone _).trans z1, (hzone _).trans z2, (hzone _).trans z3,
    ⟨(hzone _).trans z4, ?_⟩, ?_, fun hn => ?_⟩
  · rw [hqdef]
    show b.pwc = _
    rw [hpwc, ha]
  · rw [hqdef]
    rfl
  · rw [hqdef]
    exact s1
  · refine (hzone _).trans (z5.trans ?_)
    simp only [Bool.or_eq_true, Bool.and_eq_true, bne_iff_ne]
  · rw [hqdef]
    show b.clp.state = _
    rw [c1, ha]
  · rw [hqdef]
    refine n1.keeps_kind (post_has_kind _ _ _ ?_)
    rw [ha]
    exact hn

/-- Settles O54: what is ignored, the mode as it stays or moves, and a change of the tailgate. -/
theorem vehicleStateMovesTheMode : Obligations.VehicleStateMovesTheMode := by
  refine ⟨fun src ig speed tg p w ht hbad => ?_, fun src ig speed tg p w ht => ?_,
    fun g ig speed p w ht hq hl hig => ?_, fun ig speed p w ht hq hl hig hmode => ?_⟩
  · have hexec : exec (.vehicleState src ig speed tg) ⟨p, w⟩ = .next ⟨vehicleState src ig speed tg p, w⟩ := rfl
    have hignore : vehicleState src ig speed tg p = ignoreBroadcast p := by
      unfold vehicleState
      rw [ht]
      by_cases hs : src = 0
      · have hnone : ignitionOf ig = none ∨ boolOf tg = none := by
          rcases hbad with h | h | h
          · exact absurd hs h
          · exact .inl (by match ig, h with | n + 3, _ => rfl)
          · exact .inr (by match tg, h with | n + 2, _ => rfl)
        rcases hnone with h | h
        · simp [hs, h]
        · simp only [hs, h]
          cases ignitionOf ig <;> rfl
      · simp [hs]
    rw [hexec, hignore]
    rfl
  · have hexec : exec (.vehicleState src ig speed tg) ⟨p, w⟩ = .next ⟨vehicleState src ig speed tg p, w⟩ := rfl
    rw [hexec, vehicleState, ht]
    rfl
  · have hg : ignitionOf ig = some g := by rcases hig with ⟨rfl, rfl⟩ | ⟨rfl, rfl⟩ | ⟨rfl, rfl⟩ <;> rfl
    refine ⟨fun hstay => ?_, fun hm hon => ?_, fun hm hoff => ?_⟩
    · obtain ⟨q, hqdef⟩ : ∃ q : Part, q = { p with
          pwc := { p.pwc with ignition := g }, zmx := { p.zmx with speed := min 300 speed } } := ⟨_, rfl⟩
      have htake : takeVehicle g speed p.rmx.tailgateOpen p = q := by
        have hignition : takeIgnition g p = { p with pwc := { p.pwc with ignition := g } } := by
          rcases hstay with ⟨hm, rfl⟩ | ⟨hm, hon⟩
          · simp only [takeIgnition, hm, beq_self_eq_true, if_true]
          · simp only [takeIgnition, hm, beq_iff_eq, hon, if_false]
        rw [takeVehicle, hignition, takeTailgate_same (by rfl), hqdef]
        rfl
      rw [exec_vehicleState w ht hg htake (by rw [hqdef]; exact hq), noteReports_same fun r => by
        rw [hqdef]; rfl, hqdef]
    · obtain ⟨q, hqdef⟩ : ∃ q : Part, q = takeSpeed speed
        (enterActive { p with pwc := { p.pwc with ignition := g } }) :=
        ⟨_, rfl⟩
      have htake : takeVehicle g speed p.rmx.tailgateOpen p = q := by
        have hignition : takeIgnition g p = enterActive { p with pwc := { p.pwc with ignition := g } } := by
          simp only [takeIgnition, hm, beq_iff_eq, hon, if_false]
        rw [takeVehicle, hignition, takeTailgate_same (by rfl), hqdef]
      obtain ⟨rl, hrl⟩ := noteReports_eq p q
      refine ⟨noteReports p q, exec_vehicleState w ht hg htake (by rw [hqdef]; exact hq), ?_, ?_, ?_, ?_, ?_⟩
      · rw [hrl, hqdef]; rfl
      · rw [hrl, hqdef]; rfl
      · rw [hrl, hqdef]; rfl
      · refine noteReports_both fun r heq => ?_
        have hmode : (reportView p r).mode = (reportView q r).mode := congrArg RearView.mode heq
        rw [hqdef] at hmode
        have : p.pwc.mode = .active := hmode
        rw [hm] at this
        cases this
      · rw [hrl, hqdef]; rfl
    · have hend := exec_vehicleState_off (speed := speed) w ht hq hl (by rw [hg, hoff]) hm
      simpa only [onAir_iff] using hend
  · obtain ⟨g, hg⟩ : ∃ g, ignitionOf ig = some g := by
      match ig, hig with
      | 0, _ | 1, _ | 2, _ => exact ⟨_, rfl⟩
    obtain ⟨b, hb⟩ : ∃ b : Part, b = { p with
      pwc := { p.pwc with ignition := g }, zmx := { p.zmx with speed := min 300 speed } } := ⟨_, rfl⟩
    have hignition : takeIgnition g p = { p with pwc := { p.pwc with ignition := g } } := by
      rcases hmode with ⟨hm, hne⟩ | ⟨hm, rfl⟩
      · have hon : (g == .off) = false := by
          match ig, hig, hg with
          | 0, _, _ => exact absurd rfl hne
          | 1, _, hg | 2, _, hg => cases hg; rfl
        simp only [takeIgnition, hm, hon, Bool.false_eq_true, if_false]
      · cases hg
        simp only [takeIgnition, hm, beq_self_eq_true, if_true]
    have hchange : b.rmx.tailgateOpen ≠ !p.rmx.tailgateOpen := by
      rw [hb]
      show p.rmx.tailgateOpen ≠ !p.rmx.tailgateOpen
      cases p.rmx.tailgateOpen <;> decide
    obtain ⟨cl, nf, e, hsig, hnf⟩ := takeTailgate_changed hchange (by rw [hb]; exact hl)
    obtain ⟨q, hqdef⟩ : ∃ q, q = takeTailgate (!p.rmx.tailgateOpen) b := ⟨_, rfl⟩
    have hqeq := hqdef.trans e
    have htake : takeVehicle g speed (!p.rmx.tailgateOpen) p = q := by
      rw [takeVehicle, hignition, hqdef, hb]
      rfl
    obtain ⟨rl, hrl⟩ := noteReports_eq p q
    refine ⟨noteReports p q, exec_vehicleState w ht hg htake (by rw [hqeq, hb]; exact hq), ?_⟩
    rw [hrl, hqeq]
    refine ⟨by rw [hb], by rw [hb] at hsig; exact hsig, ?_, fun hreset => ?_, ?_⟩
    · rw [hb]
      unfold Part.zonesAtTailgate
      rw [Bool.not_not]
      rfl
    · refine (hnf (by rw [hb]; exact hreset)).trans ?_
      rw [hb]
      rfl
    · rw [hb]
      exact ⟨rfl, rfl, rfl, rfl⟩

end Sys2Proof.Machine
end

section
/-! PROOFS. The call zones and the seats (O50). -/

namespace Sys2Proof.Machine

/-! ### The call's zones -/

/-- What a request that sets the call's zones leaves. -/
theorem callZones_set {zs : ZoneSet} {p : Part} (hl : p.tst.latent = [])
    (hc : p.clp.state = .active ∨ p.clp.state = .held)
    {q : Part} (hq : q = setCallZones zs p) : q = { p with clp := q.clp, nfu := q.nfu } ∧ q.clp.zones = zs
      ∧ q.clp.state = p.clp.state ∧ q.clp.isPrivate = p.clp.isPrivate ∧ p.seatsFollow q
      ∧ q.clp.admitted = if p.clp.isPrivate = true then ⟨true, false, false, false⟩ else
          ⟨zs.front || zs.driver, zs.front, zs.hpLeft || zs.rearCabin, zs.hpRight || zs.rearCabin⟩ := by
  obtain ⟨q', e, hframe, hzones, hstate, hprivate, -, -, hadmitted, hseats⟩ := setCallZones_follows (zs := zs) hl
  rw [e] at hq
  subst hq
  have hcall : ({ p with clp := { p.clp with zones := zs } } : Part).clp.state = .active
      ∨ ({ p with clp := { p.clp with zones := zs } } : Part).clp.state = .held := hc
  exact ⟨hframe, hzones, hstate, hprivate, hseats, hadmitted.trans (admittedOf_call hcall)⟩

theorem connectZones_get (p : Part) (z : ZoneId) : (connectZones p).get z =
    (p.callCfg.defaultZones.get z && !((z = .hpLeft ∨ z = .hpRight) && (p.zone z).state == .off)) := by
  unfold connectZones
  rw [PerZone.get_of]
  cases z <;> rfl

/-! ### The requests -/

section
variable {h : ReqHeader} {p q : Part} {r : Result} {n : Nat} (w : List Instr)

theorem exec_callPrivate (ht : p.takes 0x55 h = true) (hz : callPrivate (boolOf n) p = (r, q)) :
    exec (.callPrivate h n) ⟨p, w⟩ = .next ⟨answered 0x55 h r [] (noteReports p q), w⟩ := by
  have hreport : reporting (callPrivate (boolOf n)) p = { result := r, part := noteReports p q } := by
    simp only [reporting, answer, hz]
  refine (congrArg (fun q => Host.Outcome.next (⟨q, w⟩ : State)) (ringRequest_taken ht (by decide))).trans ?_
  rw [hreport]

theorem exec_callPrivate_same (ht : p.takes 0x55 h = true) (hz : callPrivate (boolOf n) p = (r, p)) :
    exec (.callPrivate h n) ⟨p, w⟩ = .next ⟨answered 0x55 h r [] p, w⟩ := by
  rw [exec_callPrivate w ht hz, noteReports_same fun _ => rfl]

theorem exec_callZones (ht : p.takes 0x56 h = true) (hz : callZones (zoneSetOf n) p = (r, q)) :
    exec (.callZones h n) ⟨p, w⟩ = .next ⟨answered 0x56 h r [] (noteReports p q), w⟩ := by
  have hreport : reporting (callZones (zoneSetOf n)) p = { result := r, part := noteReports p q } := by
    simp only [reporting, answer, hz]
  refine (congrArg (fun q => Host.Outcome.next (⟨q, w⟩ : State)) (ringRequest_taken ht (by decide))).trans ?_
  rw [hreport]

theorem exec_callZones_same (ht : p.takes 0x56 h = true) (hz : callZones (zoneSetOf n) p = (r, p)) :
    exec (.callZones h n) ⟨p, w⟩ = .next ⟨answered 0x56 h r [] p, w⟩ := by
  rw [exec_callZones w ht hz, noteReports_same fun _ => rfl]

end

/-- A call stands: it is ACTIVE or HELD. -/
theorem stands_iff {p : Part} : (p.clp.state == .active || p.clp.state == .held) = true
    ↔ p.clp.state = .active ∨ p.clp.state = .held := by simp

/-- CALL_PRIVATE of a call that stands (R135). -/
theorem callPrivate_stands {p : Part} (v : Bool) (hl : p.tst.latent = [])
    (hc : p.clp.state = .active ∨ p.clp.state = .held) (hv : p.clp.isPrivate ≠ v) :
    callPrivate (some v) p = (.ok, setCallZones (if v then ZoneSet.single .driver else connectZones p)
      { p with clp := { p.clp with isPrivate := v } }) := by
  have hon := stands_iff.mpr hc
  have hne : (p.clp.isPrivate == v) = false := by simpa using hv
  cases v with
  | true => simp only [callPrivate, hon, Bool.not_true, Bool.false_eq_true, if_false, hne, if_true]
  | false =>
    simp only [callPrivate, hon, Bool.not_true, Bool.false_eq_true, if_false, hne, ownerReads_clean _ hl]

/-! ### The rear requests -/

/-- A rear request that needs no argument and is admitted, in ACTIVE, acts at once (R117, R121). -/
theorem rearRequest_admitted {s : RearSeat} {k : RearKind} {p q : Part} {res : RearResult}
    (ha : p.rif.addressValid = true) (hl : p.tst.latent = []) (hn : p.rlu.assembler ≠ .handling)
    (hp : p.admissionPoisoned s = false) (hm : p.pwc.mode = .active) (hk : k = .join ∨ k = .leave)
    (hf : (p.tst.admission.get s).flags.getLsbD (admissionBit k) = true) (ho : handOff s k 0 p = (res, q)) :
    rearRequest s k 0 p = (rearChange s k res (noteReports p q)).queueReport s (some res) := by
  have hread : readAdmission s p = p := readAdmission_clean s hl
  have hflags : p.admissionFlags s = (p.tst.admission.get s).flags := by
    unfold Part.admissionFlags
    rw [hp]
    rfl
  have hnot : (p.rlu.assembler == .handling) = false := by simpa using hn
  have hactive : p.isActive = true := by simp [Part.isActive, hm]
  have hok : argOk k 0 = true := by rcases hk with rfl | rfl <;> rfl
  have hdecide : rearDecide (takenNow s k 0 p) p = (res, q) := by
    have hquery : (k == .query) = false := by rcases hk with rfl | rfl <;> rfl
    have hsource : sourceDenied (takenNow s k 0 p) = false := by rcases hk with rfl | rfl <;> rfl
    have hbit : (takenNow s k 0 p).flags.getLsbD (admissionBit (takenNow s k 0 p).kind) = true := by
      show (p.admissionFlags s).getLsbD _ = true
      rw [hflags]
      exact hf
    rw [rearDecide, hbit, hsource, hactive]
    simp only [takenNow, hquery, Bool.false_eq_true, if_false, Bool.not_true]
    exact ho
  have hkept : keptUp k p q = q := by rcases hk with rfl | rfl <;> rfl
  rw [rearRequest, ha, hnot, hok, takeRear, hread, decideTaken, hdecide]
  simp only [Bool.not_true, Bool.false_eq_true, if_false, if_true, takenNow, hkept]

/-- What a rear request answered DONE leaves beside its effect: REAR_CHANGE and the seat's report. -/
theorem rearDone_only {s : RearSeat} {k : RearKind} (p q : Part) :
    ∃ rl nf, (rearChange s k .done (noteReports p q)).queueReport s (some .done) = { q with rlu := rl, nfu := nf }
      ∧ rl.pending.get s = some .done := by
  obtain ⟨rl, hrl⟩ := noteReports_eq p q
  rw [hrl]
  unfold rearChange
  split
  · exact ⟨_, _, rfl, by cases s <;> rfl⟩
  · exact ⟨_, _, rfl, by cases s <;> rfl⟩

/-- A rear seat's headphone zone put into the call or taken out of it, answered DONE (R137). -/
theorem exec_rear_zones {s : RearSeat} {k : RearKind} {p : Part} {zs : ZoneSet} (ha : p.rif.addressValid = true)
    (hl : p.tst.latent = []) (hn : p.rlu.assembler ≠ .handling) (hp : p.admissionPoisoned s = false)
    (hm : p.pwc.mode = .active) (hk : k = .join ∨ k = .leave)
    (hf : (p.tst.admission.get s).flags.getLsbD (admissionBit k) = true)
    (hc : p.clp.state = .active ∨ p.clp.state = .held)
    (hprivate : p.clp.isPrivate = false) (ho : handOff s k 0 p = (.done, setCallZones zs p)) :
    ∃ q, rearRequest s k 0 p = q ∧ q.clp.zones = zs ∧ q.rlu.pending.get s = some .done ∧ q.clp.state = p.clp.state
      ∧ q.clp.isPrivate = false
      ∧ q.clp.admitted = ⟨zs.front || zs.driver, zs.front, zs.hpLeft || zs.rearCabin, zs.hpRight || zs.rearCabin⟩
      ∧ p.seatsFollow q ∧ q = { p with clp := q.clp, nfu := q.nfu, rlu := q.rlu } := by
  obtain ⟨b, hb⟩ : ∃ b, b = setCallZones zs p := ⟨_, rfl⟩
  obtain ⟨hframe, h1, h2, h3, h4, h5⟩ := callZones_set hl hc hb
  obtain ⟨rl, nf, e, hpending⟩ := rearDone_only (s := s) (k := k) p b
  refine ⟨_, rearRequest_admitted ha hl hn hp hm hk hf (ho.trans (congrArg (Prod.mk _) hb.symm)), ?_⟩
  rw [e]
  rw [hprivate] at h3 h5
  refine ⟨h1, hpending, h2, h3, h5, h4, ?_⟩
  rw [hframe]

/-- Settles O50: the call's zones as each request sets them, and the seats that follow. -/
theorem callZonesDecideTheSeats : Obligations.CallZonesDecideTheSeats := by
  refine ⟨fun h p w ht hl => ⟨fun n hn => ?_, fun v h1 h2 => ?_, fun v hc => ?_⟩, fun h n p w ht hl => ⟨fun hbad => ?_,
    fun hn h4 => ⟨fun h1 h2 => ?_, fun hc => ⟨fun hprivate => ?_, fun hprivate =>
      ⟨fun hoff => ?_, fun hl2 hr2 => ?_⟩⟩⟩⟩,
    fun r p w ha hl hn hp hm hc hprivate hon => ⟨fun hf => ?_, fun hf hin => ?_⟩⟩
  · refine exec_callPrivate_same w ht ?_
    rw [show boolOf n = none by match n, hn with | n + 2, _ => rfl]
    rfl
  · have hv : boolOf (codeOfBool v) = some v := by cases v <;> rfl
    refine exec_callPrivate_same w ht ?_
    rw [hv]
    simp [callPrivate, h1, h2]
  · have hv : boolOf (codeOfBool v) = some v := by cases v <;> rfl
    by_cases hsame : p.clp.isPrivate = v
    · refine ⟨p, exec_callPrivate_same w ht ?_, hsame, rfl, fun _ => rfl, fun h1 h2 => ?_, fun h1 h2 => ?_, rfl⟩
      · rw [hv]
        simp only [callPrivate, stands_iff.mpr hc, hsame, Bool.not_true, Bool.false_eq_true, if_false,
          beq_self_eq_true, if_true]
      · rw [hsame, h1] at h2
        cases h2
      · rw [hsame, h1] at h2
        cases h2
    · obtain ⟨b, hb⟩ : ∃ b : Part, b = { p with clp := { p.clp with isPrivate := v } } := ⟨_, rfl⟩
      obtain ⟨q, hq⟩ : ∃ q, q = setCallZones (if v then ZoneSet.single .driver else connectZones p) b := ⟨_, rfl⟩
      obtain ⟨hframe, h1, h2, h3, h4, h5⟩ := callZones_set (by rw [hb]; exact hl) (by rw [hb]; exact hc) hq
      obtain ⟨rl, hrl⟩ := noteReports_eq p q
      have hbp : b.clp.isPrivate = v := by rw [hb]
      have hseats : p.seatsFollow q := by rw [hb] at h4; exact h4
      refine ⟨noteReports p q, exec_callPrivate w ht ?_, ?_⟩
      · rw [hv, callPrivate_stands v hl hc hsame, ← hb, hq]
      · rw [hrl]
        refine ⟨h3.trans hbp, by rw [hb] at h2; exact h2, fun h => absurd h hsame, fun ht' _ => ⟨?_, ?_, hseats⟩,
          fun hf' _ => ⟨fun z => ?_, ?_, hseats⟩, ?_⟩
        · refine h1.trans ?_
          rw [ht', if_pos rfl]
          rfl
        · refine h5.trans ?_
          rw [hbp, ht', if_pos rfl]
        · show q.clp.zones.get z = _
          rw [h1, hf', if_neg Bool.false_ne_true, connectZones_get]
        · refine h5.trans ?_
          rw [hbp, hf', if_neg Bool.false_ne_true, h1, hf', if_neg Bool.false_ne_true]
        · rw [hframe, hb]
  · refine exec_callZones_same w ht ?_
    rcases hbad with hbig | hcargo
    · rw [zoneSetOf, if_neg (by omega)]
      rfl
    · unfold zoneSetOf
      split
      · have hbit : (PerZone.of fun z => n.testBit (zoneCode z)).cargo = true := hcargo
        simp only [callZones, hbit, if_true]
      · rfl
  · refine exec_callZones_same w ht ?_
    have hbit : (PerZone.of fun z => n.testBit (zoneCode z)).cargo = false := h4
    simp [callZones, zoneSetOf, hn, hbit, h1, h2]
  · refine exec_callZones_same w ht ?_
    have hbit : (PerZone.of fun z => n.testBit (zoneCode z)).cargo = false := h4
    simp [callZones, zoneSetOf, hn, hbit, stands_iff.mpr hc, hprivate]
  · refine exec_callZones_same w ht ?_
    have hbit : (PerZone.of fun z => n.testBit (zoneCode z)).cargo = false := h4
    have hclosed : (((PerZone.of fun z => n.testBit (zoneCode z)).hpLeft && (p.zone .hpLeft).state == .off)
        || ((PerZone.of fun z => n.testBit (zoneCode z)).hpRight && (p.zone .hpRight).state == .off)) = true := by
      rw [Bool.or_eq_true, Bool.and_eq_true, Bool.and_eq_true, beq_iff_eq, beq_iff_eq]
      exact hoff
    simp [callZones, zoneSetOf, hn, hbit, stands_iff.mpr hc, hprivate, hclosed]
  · obtain ⟨zs, hzs⟩ : ∃ zs : ZoneSet, zs = .of fun z => n.testBit (zoneCode z) := ⟨_, rfl⟩
    have hbit : zs.cargo = false := by rw [hzs]; exact h4
    have hopen : ((zs.hpLeft && (p.zone .hpLeft).state == .off)
        || (zs.hpRight && (p.zone .hpRight).state == .off)) = false := by
      rw [← Bool.not_eq_true, Bool.or_eq_true, Bool.and_eq_true, Bool.and_eq_true, beq_iff_eq, beq_iff_eq, hzs]
      rintro (⟨h1, h2⟩ | ⟨h1, h2⟩)
      · exact hl2 h1 h2
      · exact hr2 h1 h2
    have hrequest : callZones (zoneSetOf n) p = if zs = p.clp.zones then (.ok, p) else (.ok, setCallZones zs p) := by
      rw [zoneSetOf, if_pos hn, ← hzs]
      simp only [callZones, hbit, stands_iff.mpr hc, hprivate, hopen, Bool.false_eq_true, if_false, Bool.not_true]
    rw [← hzs]
    by_cases hsame : zs = p.clp.zones
    · rw [if_pos hsame] at hrequest
      exact ⟨p, exec_callZones_same w ht hrequest, hsame.symm, rfl, hprivate, fun _ => rfl, fun h => absurd rfl h, rfl⟩
    · rw [if_neg hsame] at hrequest
      obtain ⟨q, hq⟩ : ∃ q, q = setCallZones zs p := ⟨_, rfl⟩
      obtain ⟨hframe, h1, h2, h3, h4, h5⟩ := callZones_set hl hc hq
      obtain ⟨rl, hrl⟩ := noteReports_eq p q
      refine ⟨noteReports p q, exec_callZones w ht (hrequest.trans (by rw [hq])), ?_⟩
      rw [hrl]
      refine ⟨h1, h2, h3.trans hprivate, fun h => absurd (h1.symm.trans h) hsame, fun _ => ⟨?_, h4⟩, ?_⟩
      · refine h5.trans ?_
        rw [hprivate, if_neg Bool.false_ne_true, h1]
      · rw [hframe]
  · by_cases hin : p.clp.zones.get r.zone = true
    · have ho : handOff r .join 0 p = (.done, p) := by
        simp [handOff, callJoin, hprivate, stands_iff.mpr hc, hon, hin]
      obtain ⟨rl, nf, e, hpending⟩ := rearDone_only (s := r) (k := .join) p p
      refine ⟨_, congrArg (fun q => Host.Outcome.next (⟨q, w⟩ : State))
        (rearRequest_admitted ha hl hn hp hm (.inl rfl) hf ho), ?_⟩
      rw [e]
      refine ⟨?_, hpending, rfl, hprivate, fun _ => rfl, fun h => ?_, rfl⟩
      · rw [← hin]
        exact (PerZone.set_get ..).symm
      · rw [hin] at h
        cases h
    · have ho : handOff r .join 0 p = (.done, setCallZones (p.clp.zones.set r.zone true) p) := by
        simp [handOff, callJoin, hprivate, stands_iff.mpr hc, hon, hin]
      obtain ⟨q, e, h1, h2, h3, h4, h5, h6, h7⟩ := exec_rear_zones ha hl hn hp hm (.inl rfl) hf hc hprivate ho
      exact ⟨q, congrArg (fun q => Host.Outcome.next (⟨q, w⟩ : State)) e, h1, h2, h3, h4, fun h => absurd h hin,
        fun _ => ⟨by rw [h5, h1], h6⟩, h7⟩
  · have ho : handOff r .leave 0 p = (.done, setCallZones (p.clp.zones.set r.zone false) p) := by
      simp [handOff, callLeave, hin]
    obtain ⟨q, e, h1, h2, h3, h4, h5, h6, h7⟩ := exec_rear_zones ha hl hn hp hm (.inr rfl) hf hc hprivate ho
    exact ⟨q, congrArg (fun q => Host.Outcome.next (⟨q, w⟩ : State)) e, h1, h2, h3, h4, by rw [h5, h1], h6, h7⟩

end Sys2Proof.Machine
end

section
/-! PROOFS. Calls held, resumed and ended (O49), and calls that alert and connect (O48). -/

namespace Sys2Proof.Machine

/-! ### CALL_HOLD, CALL_RESUME and CALL_END -/

section
variable {h : ReqHeader} {p q : Part} {r : Result} (w : List Instr)

theorem exec_callHold (ht : p.takes 0x52 h = true) (hz : callHold p = (r, q)) :
    exec (.callHold h) ⟨p, w⟩ = .next ⟨answered 0x52 h r [] (noteReports p q), w⟩ := by
  have hreport : reporting callHold p = { result := r, part := noteReports p q } := by simp only [reporting, answer, hz]
  refine (congrArg (fun q => Host.Outcome.next (⟨q, w⟩ : State)) (ringRequest_taken ht (by decide))).trans ?_
  rw [hreport]

theorem exec_callResume (ht : p.takes 0x53 h = true) (hz : callResume p = (r, q)) (hq : q.quiet = true) :
    exec (.callResume h) ⟨p, w⟩ = .next ⟨answered 0x53 h r [] (noteReports p q), w⟩ := by
  refine (congrArg (fun q => Host.Outcome.next (⟨q, w⟩ : State)) (ringRequest_taken ht (by decide))).trans ?_
  rw [settling_quiet hz hq]

theorem exec_callEnd (ht : p.takes 0x54 h = true) (hz : callEnd p = (r, q)) :
    exec (.callEnd h) ⟨p, w⟩ = .next ⟨answered 0x54 h r [] (noteReports p q), w⟩ := by
  have hreport : reporting callEnd p = { result := r, part := noteReports p q } := by simp only [reporting, answer, hz]
  refine (congrArg (fun q => Host.Outcome.next (⟨q, w⟩ : State)) (ringRequest_taken ht (by decide))).trans ?_
  rw [hreport]

end

theorem uplinkOf_rest {p : Part} (h : p.clp.state ≠ .active) : uplinkOf p = 384 := by simp [uplinkOf, h]

/-- Outside ACTIVE the uplink code is 384, and nothing is read for it (R148). -/
theorem setUplink_rest {p : Part} (h : p.clp.state ≠ .active) :
    setUplink p = { p with clp := { p.clp with uplinkCode := 384 } } := by
  have hno : (p.clp.state == .active) = false := by simpa using h
  rw [setUplink, hno, if_neg Bool.false_ne_true, recodeUplink, uplinkOf_rest h]

/-- Every seat's record changed by itself. -/
theorem foldl_setSeat (g : SeatRt → SeatRt) (p : Part) : Seat.all.foldl (fun q k => q.setSeat k (g (q.seat k))) p
    = { p with clp := { p.clp with seats := .of fun k => g (p.seat k) } } := by
  simp only [Seat.all, List.foldl_cons, List.foldl_nil, Part.setSeat, Part.seat, PerSeat.set, PerSeat.get, PerSeat.of]

theorem dropWindows_eq (p : Part) :
    dropWindows p = { p with clp := { p.clp with seats := .of fun k => (p.seat k).noWindow } } :=
  foldl_setSeat SeatRt.noWindow p

/-- A CALL_HOLD of a call that is ACTIVE (R133). -/
theorem callHold_active {p : Part} (hc : p.clp.state = .active) : callHold p = (.ok, { p with clp := { p.clp with
    state := .held, uplinkCode := 384, seats := .of fun k => (p.seat k).noWindow } }) := by
  have hon : (p.clp.state == .active) = true := by simpa using hc
  have hheld : (dropWindows { p with clp := { p.clp with state := .held } }).clp.state ≠ .active := by
    rw [dropWindows_eq]
    show CallState.held ≠ .active
    decide
  rw [callHold, hon, if_pos rfl, setUplink_rest hheld, dropWindows_eq]
  rfl

/-- What a part's contexts are while all are RESET. -/
theorem setSignature_rest {sig : Signature} {p : Part} (h : ∀ k, (p.seat k).context = .reset)
    (hc : p.clp.state ≠ .active) : ∃ u, setSignature sig p
      = { p with clp := { p.clp with sig := sig, uplinkCode := u } }
      ∧ (u = 384 ∨ u = p.clp.uplinkCode ∧ p.clp.sig = sig) := by
  unfold setSignature
  split
  · rename_i hsame
    exact ⟨p.clp.uplinkCode, by rw [← hsame], .inr ⟨rfl, hsame⟩⟩
  · have hfold : ∀ (l : List Seat) (q : Part), (∀ k, (q.seat k).context = .reset) → l.foldl (retrain sig) q = q := by
      intro l
      induction l with
      | nil => exact fun q _ => rfl
      | cons k l ih =>
        intro q hq
        rw [List.foldl_cons, show retrain sig q k = q by simp [retrain, hq k], ih q hq]
    obtain ⟨b, hb⟩ : ∃ b : Part, b = { p with clp := { p.clp with sig := sig } } := ⟨_, rfl⟩
    refine ⟨384, ?_, .inl rfl⟩
    show setUplink (Seat.all.foldl (retrain sig) _) = _
    rw [← hb, hfold _ b (by rw [hb]; exact h), setUplink_rest (by rw [hb]; exact hc), hb]

/-- Every context RESET, whatever it was. -/
theorem clearContexts_eq (p : Part) : ∃ n, Seat.all.foldl (fun q k => changeContext k SeatRt.cleared q) p
    = { p with clp := { p.clp with seats := .of fun k => (p.seat k).cleared }, nfu := n } := by
  have hsteps : StepsSeats p.clp.sig (fun q k => changeContext k SeatRt.cleared q) (fun _ => SeatRt.cleared)
      fun _ => false := by
    intro q k _
    obtain ⟨n, e⟩ := changeContext_nfu k SeatRt.cleared q
    refine ⟨n, q.clp.aboveGate, ?_⟩
    dsimp only
    rw [filter_kept, e]
    rfl
  have hgate : (Seat.all.foldl (fun q k => changeContext k SeatRt.cleared q) p).clp.aboveGate = p.clp.aboveGate := by
    refine foldl_keeps _ _ _ (fun q => q.clp.aboveGate) fun q k => ?_
    obtain ⟨n, e⟩ := changeContext_nfu k SeatRt.cleared q
    rw [e]
    rfl
  obtain ⟨n, gate, e⟩ := hsteps.all rfl
  have htalker : (p.clp.talker.filter fun _ => !false) = p.clp.talker := by cases p.clp.talker <;> rfl
  rw [e] at hgate
  have hsame : gate = p.clp.aboveGate := hgate
  refine ⟨n, ?_⟩
  rw [e, htalker, hsame]

theorem endRing_anu (p : Part) : ∃ an nf, endRing p = { p with anu := an, nfu := nf }
    ∧ ∀ r, an.playing = some r → p.anu.playing = some r := by
  unfold endRing
  split
  · exact ⟨p.anu, p.nfu, rfl, fun _ h => h⟩
  · rw [removePrompt_post]
    refine ⟨_, _, rfl, fun r hr => ?_⟩
    exact (Option.filter_eq_some_iff.mp hr).1

/-- The end of a call, whatever its state (R134, R143). -/
theorem endCall_eq (p : Part) : ∃ an nf, endCall p = { p with
      anu := an, nfu := nf
      clp := { p.clp with
        state := .idle, isPrivate := false, zones := ZoneSet.empty, admitted := .of fun _ => false
        ringTag := none, talker := none, lastTalker := .driver, aboveGate := none, uplinkCode := 384
        sig := { p.clp.sig with zones := ZoneSet.empty }, seats := .of fun k => (p.seat k).cleared } }
    ∧ ∀ r, an.playing = some r → p.anu.playing = some r := by
  obtain ⟨an, nf, e1, hplay⟩ := endRing_anu p
  obtain ⟨a, ha⟩ : ∃ a, a = endRing p := ⟨_, rfl⟩
  obtain ⟨n, e2⟩ := clearContexts_eq a
  obtain ⟨b, hb⟩ : ∃ b, b = Seat.all.foldl (fun q k => changeContext k SeatRt.cleared q) a := ⟨_, rfl⟩
  obtain ⟨c, hc⟩ : ∃ c, c = if b.clp.talker.isSome then b.post .callTalker else b := ⟨_, rfl⟩
  obtain ⟨n', e3⟩ : ∃ n', c = { b with nfu := n' } := by
    rw [hc]
    split
    · exact ⟨_, rfl⟩
    · exact ⟨b.nfu, rfl⟩
  obtain ⟨d, hd⟩ : ∃ d : Part, d = { c with clp := { c.clp with
      state := .idle, isPrivate := false, zones := ZoneSet.empty, admitted := .of fun _ => false
      ringTag := none, talker := none, lastTalker := .driver, aboveGate := none } } := ⟨_, rfl⟩
  have hend : endCall p = setUplink (setSignature { d.clp.sig with zones := ZoneSet.empty } d) := by
    rw [hd, hc, hb, ha]
    rfl
  have hdeq : d = { p with
      anu := an, nfu := n'
      clp := { p.clp with
        state := .idle, isPrivate := false, zones := ZoneSet.empty, admitted := .of fun _ => false
        ringTag := none, talker := none, lastTalker := .driver, aboveGate := none
        seats := .of fun k => (p.seat k).cleared } } := by
    rw [hd, e3, hb, e2, ha, e1]
    rfl
  obtain ⟨u, e4, -⟩ := setSignature_rest (sig := { d.clp.sig with zones := ZoneSet.empty }) (p := d)
    (fun k => by rw [hdeq]; cases k <;> rfl) (by rw [hdeq]; exact nofun)
  have hidle : (setSignature { d.clp.sig with zones := ZoneSet.empty } d).clp.state ≠ .active := by
    rw [e4, hdeq]
    exact nofun
  refine ⟨an, n', ?_, hplay⟩
  rw [hend, setUplink_rest hidle, e4, hdeq]

/-- Settles O49: each request by the call's state. -/
theorem callsAreHeldResumedAndEnded : Obligations.CallsAreHeldResumedAndEnded := by
  refine ⟨fun h p w ht => ⟨fun hc => ?_, fun hc => ?_⟩, fun h p w ht hq hl => ⟨fun hc => ?_, fun hc hplay => ?_⟩,
    fun h p w ht => ⟨fun hc => ?_, fun hc => ?_⟩⟩
  · rw [exec_callHold (q := p) (r := .state) w ht (by simp [callHold, hc]), noteReports_same fun _ => rfl]
  · obtain ⟨q, hq⟩ : ∃ q : Part, q = { p with clp := { p.clp with
        state := .held, uplinkCode := 384, seats := .of fun k => (p.seat k).noWindow } } := ⟨_, rfl⟩
    have hsame : noteReports p q = q := by
      refine noteReports_call (by rw [hq]) (by rw [hq]) (by rw [hq]) fun r => ?_
      rw [hq]
      simp [membership, hc, Part.zone]
    rw [exec_callHold w ht ((callHold_active hc).trans (congrArg (Prod.mk _) hq.symm)), hsame, hq]
    rfl
  · rw [exec_callResume (q := p) (r := .state) w ht (by simp [callResume, hc]) hq, noteReports_same fun _ => rfl]
  · obtain ⟨b, hb⟩ : ∃ b : Part, b = { p with clp := { p.clp with state := .active } } := ⟨_, rfl⟩
    have hback : setBackBulletin b = b := by
      have hb' : b.anu.playing = none := by rw [hb]; exact hplay
      unfold setBackBulletin
      rw [hb']
    have hresume : callResume p = (.ok, recodeUplink b) := by
      have hon : (p.clp.state == .held) = true := by simpa using hc
      rw [callResume, hon, if_pos rfl, ← hb, hback, setUplink_clean (by rw [hb]; exact hl)]
    rw [exec_callResume w ht hresume (by rw [hb]; exact hq), noteReports_call (by rw [hb]; rfl) (by rw [hb]; rfl)
      (by rw [hb]; rfl)]
    · have hcode : uplinkOf b = if p.clp.admitted.get (p.clp.talker.getD p.clp.lastTalker) = true then
          codeSum [p.callCfg.uplinkBase, suppression (p.seat (p.clp.talker.getD p.clp.lastTalker)).context,
            if p.clp.talker = none then p.callCfg.gateAtt else 0] else 384 := by
        rw [hb]
        simp only [uplinkOf, beq_self_eq_true, Bool.true_and, Option.isNone_iff_eq_none]
        rfl
      rw [recodeUplink, hcode, hb]
      dsimp only
      cases (p.seat (p.clp.talker.getD p.clp.lastTalker)).context <;> rfl
    · intro r
      rw [hb]
      simp [recodeUplink, membership, hc, Part.zone]
  · rw [exec_callEnd (q := p) (r := .ok) w ht (by simp [callEnd, hc]), noteReports_same fun _ => rfl]
  · obtain ⟨an, nf, e, hplay⟩ := endCall_eq p
    obtain ⟨q, hq⟩ : ∃ q, q = endCall p := ⟨_, rfl⟩
    have hqeq := hq.trans e
    have hend : callEnd p = (.ok, q) := by
      have hno : (p.clp.state == .idle) = false := by simpa using hc
      rw [callEnd, hno, if_neg Bool.false_ne_true, hq]
    obtain ⟨rl, hrl⟩ := noteReports_eq p q
    refine ⟨noteReports p q, exec_callEnd w ht hend, ?_⟩
    rw [hrl, hqeq]
    refine ⟨rfl, rfl, fun z => by cases z <;> rfl, fun k => ⟨by cases k <;> rfl, ?_, ?_⟩, rfl, rfl, rfl, rfl, rfl,
      hplay, rfl⟩
    · cases k <;> rfl
    · cases k <;> rfl

end Sys2Proof.Machine
end

section
/-! PROOFS. Calls that alert and connect (O48). -/

namespace Sys2Proof.Machine

/-! ### What is at rest, settled -/

theorem still_of_quiet {p : Part} (h : p.quiet = true) : p.still = true := by
  simp only [Part.quiet, Part.calm, Bool.and_eq_true, bne_iff_ne, beq_iff_eq, Option.isNone_iff_eq_none,
    Bool.not_eq_true'] at h
  obtain ⟨⟨⟨⟨⟨⟨⟨h1, h2⟩, h3⟩, h4⟩, h5⟩, h6⟩, h7⟩, h8⟩ := h
  simp [Part.still, h1, h2, h3, h4, h5, h6, h7, h8]

/-! ### CALL_ALERT -/

theorem zoneSetOf_some {n : Nat} (h : n < 64) : zoneSetOf n = some (.of fun z => n.testBit (zoneCode z)) := if_pos h

theorem zoneSet_nonempty {n : Nat} (h0 : 0 < n) (h : n < 64) :
    ZoneSet.isEmpty (.of fun z => n.testBit (zoneCode z)) = false := by
  rw [← Bool.not_eq_true, ZoneSet.isEmpty, beq_iff_eq]
  intro heq
  have hbit (z : ZoneId) : n.testBit (zoneCode z) = false := by
    have := congrArg (fun m : ZoneSet => m.get z) heq
    simpa [ZoneSet.empty] using this
  have hall (i : Nat) : n.testBit i = false := by
    match i with
    | 0 => exact hbit .front
    | 1 => exact hbit .rearCabin
    | 2 => exact hbit .hpLeft
    | 3 => exact hbit .hpRight
    | 4 => exact hbit .cargo
    | 5 => exact hbit .driver
    | i + 6 => exact Nat.testBit_lt_two_pow (lt_of_lt_of_le h (Nat.pow_le_pow_right (n := 2) (i := 6) (by decide)
      (by omega)))
  have : n = 0 := Nat.eq_of_testBit_eq fun i => by rw [hall, Nat.zero_testBit]
  omega

/-- A CALL_ALERT answered, with nothing left to keep up. -/
theorem exec_callAlert {h : ReqHeader} {n : Nat} {p q : Part} {r : Result} {tag : Option Nat} (w : List Instr)
    (ht : p.takes 0x50 h = true) (hz : callAlert (zoneSetOf n) p = (r, tag, q)) (hq : q.still = true)
    (hl : q.tst.latent = []) : exec (.callAlert h n) ⟨p, w⟩
      = .next ⟨answered 0x50 h r (tag.elim [] byte2) (noteReports p q), w⟩ := by
  have hanswer : settled p (callAlertAnswer n p)
      = { result := r, body := tag.elim [] byte2, part := noteReports p q } := by
    simp only [settled, callAlertAnswer, hz, stmSettle_still hq hl]
    cases tag <;> rfl
  refine (congrArg (fun q => Host.Outcome.next (⟨q, w⟩ : State)) (ringRequest_taken ht (by decide))).trans ?_
  rw [hanswer]

/-- A CALL_ALERT refused. -/
theorem exec_callAlert_refused {h : ReqHeader} {n : Nat} {p : Part} {r : Result} (w : List Instr)
    (ht : p.takes 0x50 h = true) (hp : p.still = true) (hl : p.tst.latent = [])
    (hz : callAlert (zoneSetOf n) p = (r, none, p)) :
    exec (.callAlert h n) ⟨p, w⟩ = .next ⟨answered 0x50 h r [] p, w⟩ := by
  rw [exec_callAlert w ht hz hp hl, noteReports_same fun _ => rfl]
  rfl

/-- The RING prompt of a call (R103). -/
def ringPrompt (p : Part) (zs : ZoneSet) : Prompt :=
  { tag := p.anu.tagCounter, cls := .ring, source := .pattern p.callCfg.ringPattern, zones := zs
    level := p.callCfg.level, maxDuration := none, front := true }

/-- A CALL_ALERT that is taken: the bulletin set back, then the RING prompt placed under the next tag (R103, R131). -/
theorem callAlert_taken {n : Nat} {p b x : Part} (h0 : 0 < n) (hn : n < 64) (hl : p.tst.latent = [])
    (hc : p.clp.state = .idle) (hr : p.pwc.ramp = none)
    (hb : setBackBulletin { p with clp := { p.clp with state := .alerting } } = b) (htst : b.tst = p.tst)
    (hcount : b.anu.tagCounter = p.anu.tagCounter) (hfree : b.anu.tagHeld p.anu.tagCounter = false)
    (hx : placePrompt (ringPrompt p (.of fun z => n.testBit (zoneCode z)))
      { b with anu := { b.anu with tagCounter := nextTag p.anu.tagCounter } } = x) :
    callAlert (zoneSetOf n) p
      = (.ok, some p.anu.tagCounter, { x with clp := { x.clp with ringTag := some p.anu.tagCounter } }) := by
  have hassign : assignTag b.anu = (p.anu.tagCounter, { b.anu with tagCounter := nextTag p.anu.tagCounter }) := by
    have hfirst : freeTag b.anu 14 p.anu.tagCounter = p.anu.tagCounter := by
      rw [freeTag, hfree]
      rfl
    rw [assignTag, hcount, hfirst]
  have hcfg : b.callCfg = p.callCfg := by unfold Part.callCfg Part.unitPoisoned; rw [htst]
  have hidle : (p.clp.state != .idle) = false := by simp [hc]
  have hramp : p.ramping = false := by simp [Part.ramping, hr]
  rw [zoneSetOf_some hn, ← hx]
  simp only [callAlert, zoneSet_nonempty h0 hn, hidle, hramp, ownerReads_clean _ hl, hb, hassign, hcfg,
    Bool.false_eq_true,
    if_false]
  rfl

/-- A CALL_ALERT that is taken, answered with its tag. -/
theorem exec_callAlert_taken {h : ReqHeader} {n : Nat} {p b : Part} {an : Anu} {nf : Nfu} (w : List Instr)
    (ht : p.takes 0x50 h = true) (hs : p.still = true) (h0 : 0 < n) (hn : n < 64) (hl : p.tst.latent = [])
    (hc : p.clp.state = .idle) (hr : p.pwc.ramp = none)
    (hb : setBackBulletin { p with clp := { p.clp with state := .alerting } } = b) (htst : b.tst = p.tst)
    (hcount : b.anu.tagCounter = p.anu.tagCounter) (hfree : b.anu.tagHeld p.anu.tagCounter = false)
    (hx : placePrompt (ringPrompt p (.of fun z => n.testBit (zoneCode z)))
      { b with anu := { b.anu with tagCounter := nextTag p.anu.tagCounter } }
      = { p with clp := { p.clp with state := .alerting }, anu := an, nfu := nf }) :
    exec (.callAlert h n) ⟨p, w⟩ = .next ⟨answered 0x50 h .ok (byte2 p.anu.tagCounter) { p with
      clp := { p.clp with state := .alerting, ringTag := some p.anu.tagCounter }, anu := an, nfu := nf }, w⟩ := by
  obtain ⟨q, hq⟩ : ∃ q : Part, q = { p with
      clp := { p.clp with state := .alerting, ringTag := some p.anu.tagCounter }, anu := an, nfu := nf } := ⟨_, rfl⟩
  have hsame : noteReports p q = q := by
    refine noteReports_call (by rw [hq]) (by rw [hq]) (by rw [hq]) fun s => ?_
    rw [hq]
    simp [membership, hc, Part.zone]
  have htaken := callAlert_taken h0 hn hl hc hr hb htst hcount hfree hx
  rw [exec_callAlert (q := q) w ht (htaken.trans (by rw [hq])) (by rw [hq]; exact hs) (by rw [hq]; exact hl), hsame, hq]
  rfl

theorem joinQueue_room {r : Prompt} {p : Part} (h : p.anu.waiting.length < 12) :
    joinQueue r true p = { p with anu := { p.anu with waiting := r :: p.anu.waiting } } := by
  simp only [joinQueue, if_true, dropBack_under (show p.anu.waiting.length ≤ 11 by omega)]

/-! ### CALL_CONNECT -/

/-- The call's record as it becomes ACTIVE, before its zones are set (R132). -/
def Clp.connected (c : Clp) : Clp :=
  { c with state := .active, ringTag := none, isPrivate := false, talker := none, aboveGate := none }

/-- What a CALL_CONNECT leaves, the prompts as `an` and the notices before the seats' as `nf`. -/
def Part.Connected (p : Part) (an : Anu) (nf : Nfu) (q : Part) : Prop :=
  q.clp.state = .active ∧ q.clp.isPrivate = false ∧ q.clp.talker = none ∧ q.clp.ringTag = none
    ∧ (∀ z, q.clp.zones.get z =
        (p.callCfg.defaultZones.get z && !((z = .hpLeft ∨ z = .hpRight) && (p.zone z).state == .off)))
    ∧ q.clp.admitted = ⟨q.clp.zones.front || q.clp.zones.driver, q.clp.zones.front,
        q.clp.zones.hpLeft || q.clp.zones.rearCabin, q.clp.zones.hpRight || q.clp.zones.rearCabin⟩
    ∧ (∀ k, q.clp.admitted.get k = true → (q.seat k).context = .training ∧ (q.seat k).sig = some q.clp.sig)
    ∧ q.clp.sig = { p.clp.sig with zones := q.clp.zones } ∧ q.clp.lastTalker = p.clp.lastTalker ∧ q.anu = an
    ∧ ((∀ k, (p.seat k).context = .reset) →
        q.nfu = if q.clp.admitted.get p.clp.lastTalker = true then
          nf.post .canceller (seatCode p.clp.lastTalker) none else nf)

/-- The seats of a call that connects, none admitted before (R132, R139). -/
theorem setCallZones_connected {p d : Part} {an : Anu} {nf : Nfu} (hl : p.tst.latent = [])
    (ha : p.clp.admitted = .of fun _ => false) (hd : d = { p with clp := p.clp.connected, anu := an, nfu := nf })
    {q : Part} (hq : q = setCallZones (connectZones p) d) :
    p.Connected an nf q ∧ q = { p with clp := q.clp, anu := q.anu, nfu := q.nfu } := by
  obtain ⟨zs, hzs⟩ : ∃ zs, zs = connectZones p := ⟨_, rfl⟩
  obtain ⟨e, he⟩ : ∃ e : Part, e = { d with clp := { d.clp with zones := zs } } := ⟨_, rfl⟩
  have heq : e = { p with clp := { p.clp.connected with zones := zs }, anu := an, nfu := nf } := by rw [he, hd]
  obtain ⟨s, u, n, e1, hkept⟩ := setSignature_only (sig := { e.clp.sig with zones := zs }) (p := e)
    (by rw [heq]; exact hl)
  obtain ⟨f, hf⟩ : ∃ f, f = setSignature { e.clp.sig with zones := zs } e := ⟨_, rfl⟩
  have hfeq := hf.trans e1
  obtain ⟨s', u', n', e2, htrained, hnotice⟩ := readmit_only (p := f) (by rw [hfeq, heq]; exact hl)
    (by rw [hfeq, heq]; exact ha)
  have hqf : q = readmit f := by rw [hq, ← hzs, hf, he]; rfl
  have hqeq := hqf.trans e2
  have hadmitted : admittedOf f = ⟨zs.front || zs.driver, zs.front, zs.hpLeft || zs.rearCabin,
      zs.hpRight || zs.rearCabin⟩ := by
    rw [admittedOf_call (.inl (by rw [hfeq, heq]; rfl)), hfeq, heq]
    rfl
  have hcarried : f.carried = p.clp.lastTalker := by rw [hfeq, heq]; rfl
  rw [hadmitted] at hqeq htrained hnotice
  rw [hcarried] at hnotice
  have hzones : q.clp.zones = zs := by rw [hqeq, hfeq, heq]
  have hsig : q.clp.sig = f.clp.sig := by rw [hqeq]
  refine ⟨⟨by rw [hqeq, hfeq, heq]; rfl, by rw [hqeq, hfeq, heq]; rfl, by rw [hqeq, hfeq, heq]; rfl,
    by rw [hqeq, hfeq, heq]; rfl, fun z => by rw [hzones, hzs, connectZones_get], by rw [hzones, hqeq], fun k hk => ?_,
    by rw [hzones, hsig, hfeq, heq]; rfl, by rw [hqeq, hfeq, heq]; rfl, by rw [hqeq, hfeq, heq], fun hreset => ?_⟩,
    by rw [hqeq, hfeq, heq]⟩
  · rw [hqeq] at hk
    rw [hsig, hqeq]
    exact htrained k hk
  · have hereset (k : Seat) : (e.seat k).context = .reset := by rw [heq]; exact hreset k
    obtain ⟨hs, hn⟩ := hkept hereset
    have hfreset (k : Seat) : (f.seat k).context = .reset := by
      rw [hfeq, hs]
      exact hereset k
    have hfn : f.nfu = nf := by rw [hfeq, hn, heq]
    rw [hqeq]
    show n' = _
    rw [hnotice hfreset, hfn]

/-- A CALL_CONNECT of a call that is IDLE or ALERTING, by what it does to the prompts. -/
theorem callConnect_taken {p : Part} {an : Anu} {nf : Nfu} (hl : p.tst.latent = []) (hr : p.pwc.ramp = none)
    (hc : p.clp.state = .idle ∨ p.clp.state = .alerting)
    (hb : setBackBulletin { endRing p with clp := p.clp.connected }
      = { p with clp := p.clp.connected, anu := an, nfu := nf }) :
    callConnect p = (.ok, setCallZones (connectZones p) { p with clp := p.clp.connected, anu := an, nfu := nf }) := by
  have hon : (p.clp.state == .idle || p.clp.state == .alerting) = true := by simpa using hc
  have hramp : p.ramping = false := by simp [Part.ramping, hr]
  have hclp : (endRing p).clp = p.clp := by simp
  have hzones : connectZones { endRing p with clp := p.clp.connected } = connectZones p := by
    obtain ⟨an', nf', e, -⟩ := endRing_anu p
    rw [e]
    rfl
  rw [← hb, ← hzones]
  simp only [callConnect, hon, hramp, ownerReads_clean _ hl, hclp, if_true, Bool.false_eq_true, if_false]
  rfl

theorem exec_callConnect {h : ReqHeader} {p q : Part} {r : Result} (w : List Instr) (ht : p.takes 0x51 h = true)
    (hz : callConnect p = (r, q)) (hq : q.still = true) (hl : q.tst.latent = []) :
    exec (.callConnect h) ⟨p, w⟩ = .next ⟨answered 0x51 h r [] (noteReports p q), w⟩ := by
  have hanswer : settling callConnect p = { result := r, part := noteReports p q } := by
    simp only [settling, settled, answer, hz, stmSettle_still hq hl]
  refine (congrArg (fun q => Host.Outcome.next (⟨q, w⟩ : State)) (ringRequest_taken ht (by decide))).trans ?_
  rw [hanswer]

/-- A CALL_CONNECT that is taken. -/
theorem exec_callConnect_taken {h : ReqHeader} {p : Part} {an : Anu} {nf : Nfu} (w : List Instr)
    (ht : p.takes 0x51 h = true) (hs : p.still = true) (hl : p.tst.latent = []) (hr : p.pwc.ramp = none)
    (ha : p.clp.admitted = .of fun _ => false) (hc : p.clp.state = .idle ∨ p.clp.state = .alerting)
    (hb : setBackBulletin { endRing p with clp := p.clp.connected }
      = { p with clp := p.clp.connected, anu := an, nfu := nf }) :
    ∃ q, exec (.callConnect h) ⟨p, w⟩ = .next ⟨answered 0x51 h .ok [] q, w⟩ ∧ p.Connected an nf q
      ∧ q = { p with clp := q.clp, anu := q.anu, nfu := q.nfu, rlu := q.rlu } := by
  obtain ⟨q, hq⟩ : ∃ q, q = setCallZones (connectZones p) { p with clp := p.clp.connected, anu := an, nfu := nf } :=
    ⟨_, rfl⟩
  obtain ⟨hconnected, hframe⟩ := setCallZones_connected hl ha rfl hq
  obtain ⟨rl, hrl⟩ := noteReports_eq p q
  refine ⟨noteReports p q, exec_callConnect w ht ((callConnect_taken hl hr hc hb).trans (congrArg (Prod.mk _) hq.symm))
    (by rw [hframe]; exact hs) (by rw [hframe]; exact hl), ?_⟩
  rw [hrl]
  exact ⟨hconnected, by rw [hframe]⟩

/-! ### The prompts at a connection -/

theorem endRing_none {p : Part} (h : ∀ x, p.anu.playing = some x ∨ x ∈ p.anu.waiting → x.cls ≠ .ring) :
    endRing p = p := by
  have hnone : (p.anu.playing.toList ++ p.anu.waiting).find? (fun r => r.cls == .ring) = none := by
    rw [List.find?_eq_none]
    intro x hx
    have hwhere : p.anu.playing = some x ∨ x ∈ p.anu.waiting := by simpa using hx
    simpa using h x hwhere
  unfold endRing
  rw [hnone]

/-- The one RING prompt ends, playing or waiting (R109). -/
theorem endRing_some {p : Part} {r : Prompt} (hfind : (p.anu.playing.toList ++ p.anu.waiting).find?
    (fun r => r.cls == .ring) = some r) : endRing p = { p with
      anu := { p.anu with
        playing := p.anu.playing.filter fun x => x.tag != r.tag
        waiting := p.anu.waiting.filter fun x => x.tag != r.tag
        chime := if p.anu.playing.any fun x => x.tag == r.tag then {} else p.anu.chime }
      nfu := p.nfu.post .promptEnded r.tag none } := by
  unfold endRing
  rw [hfind, ← removePrompt_post]

theorem find_mem {a : Anu} {tag : Nat} {r : Prompt} (h : a.find tag = some r) : a.playing = some r ∨ r ∈ a.waiting := by
  unfold Anu.find at h
  split at h
  · rename_i x hx
    split at h
    · exact .inl (hx.trans h)
    · exact .inr (List.mem_of_find?_eq_some h)
  · exact .inr (List.mem_of_find?_eq_some h)

theorem setBack_none {p : Part} (h : ∀ x, p.anu.playing = some x → x.cls ≠ .bulletin) : setBackBulletin p = p := by
  unfold setBackBulletin
  split
  · rename_i r hr
    rw [if_neg (by simpa using h r hr)]
  · rfl

/-- A BULLETIN that plays goes back to the head of the queue (R105). -/
theorem setBack_bulletin {p : Part} {r : Prompt} (h : p.anu.playing = some r) (hr : r.cls = .bulletin) :
    setBackBulletin p = dropBack 12 { p with
      anu := { p.anu with playing := none, chime := {}, waiting := r.rewound :: p.anu.waiting } } := by
  have hcls : (r.cls == .bulletin) = true := by simpa using hr
  unfold setBackBulletin
  rw [h]
  simp only [hcls, if_true]
  rfl

/-- The playing prompt that is kept past a RING's end is the one that plays. -/
theorem kept_playing {a : Anu} {tag : Nat} (h : ∀ x, a.playing = some x → x.cls ≠ .bulletin) (x : Prompt)
    (hx : (a.playing.filter fun x => x.tag != tag) = some x) : x.cls ≠ .bulletin :=
  h x (Option.filter_eq_some_iff.mp hx).1

/-- Settles O48: CALL_ALERT's refusals and its queue, and what becomes of the prompts as the call connects. -/
theorem callsAlertAndConnect : Obligations.CallsAlertAndConnect := by
  refine ⟨fun h n p w ht hq hl => ⟨fun hn => ?_, fun h0 hn hc => ?_, fun h0 hn hc hr => ?_,
      fun h0 hn hc hr hplay hroom hfree => ?_⟩,
    fun h n r front lost p w ht hs hl h0 hn hc hr hplay hcls hw hf hlo hor hlost hfree => ?_,
    fun h p w an nf ht hs hl hr ha hcases => ?_,
    fun h p w ht hq hl => ⟨fun hc => ?_, fun hc hr => ?_, fun hc hr hplay hnodup ha => ?_⟩⟩
  · refine exec_callAlert_refused w ht (still_of_quiet hq) hl ?_
    rcases hn with rfl | hn
    · rfl
    · rw [zoneSetOf, if_neg (by omega)]
      rfl
  · refine exec_callAlert_refused w ht (still_of_quiet hq) hl ?_
    have hon : (p.clp.state != .idle) = true := by simpa using hc
    rw [zoneSetOf_some hn]
    simp only [callAlert, zoneSet_nonempty h0 hn, hon, Bool.false_eq_true, if_false, if_true]
  · refine exec_callAlert_refused w ht (still_of_quiet hq) hl ?_
    have hidle : (p.clp.state != .idle) = false := by simp [hc]
    have hramp : p.ramping = true := by simpa [Part.ramping, Option.isSome_iff_ne_none] using hr
    rw [zoneSetOf_some hn]
    simp only [callAlert, zoneSet_nonempty h0 hn, hidle, hramp, Bool.false_eq_true, if_false, if_true]
  · refine exec_callAlert_taken w ht (still_of_quiet hq) h0 hn hl hc hr
      (b := { p with clp := { p.clp with state := .alerting } }) (setBack_none hplay) rfl rfl hfree ?_
    exact joinQueue_room hroom
  · obtain ⟨a, ha⟩ : ∃ a : Part, a = { p with
        clp := { p.clp with state := .alerting }
        anu := { p.anu with playing := none, chime := {}, waiting := r.rewound :: p.anu.waiting } } := ⟨_, rfl⟩
    have hback : setBackBulletin { p with clp := { p.clp with state := .alerting } } = dropBack 12 a := by
      rw [ha]
      exact setBack_bulletin hplay hcls
    obtain ⟨lost', nf, e, hsub, hplace⟩ := setBack_join (r := r.rewound) (p := a) (front := front) (lost := lost)
      (x := ringPrompt p (.of fun z => n.testBit (zoneCode z))) (nextTag p.anu.tagCounter) rfl (by exact nofun)
      (by rw [ha]; show _ :: p.anu.waiting = _; rw [hw]; rfl) hf hlo hor hlost
    have hfree' : (dropBack 12 a).anu.tagHeld p.anu.tagCounter = false := by
      simp only [Anu.tagHeld, hplay, hw, Bool.or_eq_false_iff, List.any_eq_false, beq_iff_eq, List.mem_append,
        Option.any_some] at hfree
      obtain ⟨hnone, hr'⟩ := hfree
      rw [e, ha]
      simp only [Anu.tagHeld, Bool.or_eq_false_iff, List.any_eq_false, Option.any_none, and_true, beq_iff_eq,
        List.cons_append, List.mem_cons, List.mem_append]
      rintro x (rfl | hx | hx)
      · simpa [Prompt.rewound] using hr'
      · exact hnone x (.inl hx)
      · exact hnone x (.inr (hsub x hx))
    refine exec_callAlert_taken w ht hs h0 hn hl hc hr hback (by rw [e, ha]) (by rw [e, ha]) hfree' (hplace.trans ?_)
    rw [ha]
    rfl
  · rcases hcases with ⟨hc, hring, hbulletin, rfl, rfl⟩ | ⟨hc, r, hfind, hring, hone, hbulletin, rfl, rfl⟩
      | ⟨hc, hring, hroom, r, hplay, hcls, rfl, rfl⟩
    · obtain ⟨q, e, ⟨h1, h2, h3, h4, h5, h6, h7, h8, h9, h10, h11⟩, hframe⟩ :=
        exec_callConnect_taken w ht hs hl hr ha hc
        (an := p.anu) (nf := p.nfu) (by rw [endRing_none hring]; exact setBack_none hbulletin)
      exact ⟨q, e, h1, h2, h3, h4, h5, h6, h7, h8, h9, h10, h11, hframe⟩
    · have hfound : (p.anu.playing.toList ++ p.anu.waiting).find? (fun r => r.cls == .ring) = some r := by
        cases hf : (p.anu.playing.toList ++ p.anu.waiting).find? (fun r => r.cls == .ring) with
        | none =>
          have hmem : r ∈ p.anu.playing.toList ++ p.anu.waiting := by simpa using find_mem hfind
          have := List.find?_eq_none.mp hf r hmem
          simp [hring] at this
        | some x =>
          have hx : p.anu.playing = some x ∨ x ∈ p.anu.waiting := by simpa using List.mem_of_find?_eq_some hf
          rw [hone x hx (by simpa using List.find?_some hf)]
      obtain ⟨q, e, ⟨h1, h2, h3, h4, h5, h6, h7, h8, h9, h10, h11⟩, hframe⟩ := exec_callConnect_taken w ht hs hl hr ha
        (.inr hc) (by rw [endRing_some hfound]; exact setBack_none (kept_playing hbulletin))
      exact ⟨q, e, h1, h2, h3, h4, h5, h6, h7, h8, h9, h10, h11, hframe⟩
    · have hnoring : endRing p = p := by
        refine endRing_none fun x hx => ?_
        rcases hx with hx | hx
        · rw [hplay] at hx
          cases hx
          rw [hcls]
          decide
        · exact hring x hx
      obtain ⟨q, e, ⟨h1, h2, h3, h4, h5, h6, h7, h8, h9, h10, h11⟩, hframe⟩ := exec_callConnect_taken w ht hs hl hr ha
        (.inl hc) (an := { p.anu with playing := none, chime := {}, waiting := r.rewound :: p.anu.waiting })
        (nf := p.nfu)
        (by
          rw [hnoring, setBack_bulletin (by exact hplay) hcls, dropBack_under]
          show p.anu.waiting.length + 1 ≤ 12
          omega)
      exact ⟨q, e, h1, h2, h3, h4, h5, h6, h7, h8, h9, h10, h11, hframe⟩
  · have hno : (p.clp.state == .idle || p.clp.state == .alerting) = false := by rcases hc with hc | hc <;> simp [hc]
    rw [exec_callConnect (q := p) (r := .state) w ht (by simp [callConnect, hno]) (still_of_quiet hq) hl,
      noteReports_same fun _ => rfl]
  · have hon : (p.clp.state == .idle || p.clp.state == .alerting) = true := by simpa using hc
    have hramp : p.ramping = true := by simpa [Part.ramping, Option.isSome_iff_ne_none] using hr
    rw [exec_callConnect (q := p) (r := .power) w ht (by simp [callConnect, hon, hramp]) (still_of_quiet hq) hl,
      noteReports_same fun _ => rfl]
  · have hbulletin : ∀ x, p.anu.playing = some x → x.cls ≠ .bulletin := fun x hx => by rw [hplay] at hx; cases hx
    have hs := still_of_quiet hq
    cases hf : (p.anu.playing.toList ++ p.anu.waiting).find? (fun r => r.cls == .ring) with
    | none =>
      have hnoring : endRing p = p := by
        unfold endRing
        rw [hf]
      obtain ⟨q, e, ⟨h1, h2, h3, h4, h5, h6, h7, h8, h9, h10, h11⟩, hframe⟩ :=
        exec_callConnect_taken w ht hs hl hr ha hc
        (an := p.anu) (nf := p.nfu) (by rw [hnoring]; exact setBack_none hbulletin)
      exact ⟨q, e, h1, h2, h3, h4, h5, h6, h7, h8, fun r hr _ => by rw [h10]; exact hr, hframe⟩
    | some r =>
      have hmem : r ∈ p.anu.waiting := by
        have := List.mem_of_find?_eq_some hf
        rwa [hplay] at this
      have hring : r.cls = .ring := by simpa using List.find?_some hf
      obtain ⟨q, e, ⟨h1, h2, h3, h4, h5, h6, h7, h8, h9, h10, h11⟩, hframe⟩ :=
        exec_callConnect_taken w ht hs hl hr ha hc
        (by rw [endRing_some hf]; exact setBack_none (kept_playing hbulletin))
      refine ⟨q, e, h1, h2, h3, h4, h5, h6, h7, h8, fun x hx hne => ?_, hframe⟩
      rw [h10]
      refine List.mem_filter.mpr ⟨hx, ?_⟩
      rw [bne_iff_ne]
      intro htag
      exact hne (List.inj_on_of_nodup_map hnodup hx hmem htag ▸ hring)

end Sys2Proof.Machine
end

section
/-! PROOFS. The meters, the talker and the cancellers' windows (O51). -/

namespace Sys2Proof.Machine

/-! ### The best candidate for the talker -/

/-- One step of the search for the best candidate: the earlier one among equals (R142). -/
def betterSeat (p : Part) (b : Option Seat) (k : Seat) : Option Seat :=
  match b with
  | none => some k
  | some j => if (p.seat k).v < (p.seat j).v then some k else some j

/-- The candidates for the talker, in the order of their seats (R142). -/
def Part.candidates (p : Part) : List Seat :=
  Seat.all.filter fun k => p.clp.admitted.get k && (p.seat k).v ≤ p.callCfg.gateLevel

theorem bestTalker_eq (p : Part) : bestTalker p = p.candidates.foldl (betterSeat p) none := rfl

theorem mem_candidates {p : Part} {k : Seat} :
    k ∈ p.candidates ↔ p.clp.admitted.get k = true ∧ (p.seat k).v ≤ p.callCfg.gateLevel := by
  have hall : k ∈ Seat.all := by cases k <;> decide
  simp [Part.candidates, List.mem_filter, hall]

/-- Seat `b` comes before seat `j` as the talker: it is louder, or the lower one of two as loud. -/
def Part.louder (p : Part) (b j : Seat) : Prop :=
  (p.seat b).v < (p.seat j).v ∨ ((p.seat b).v = (p.seat j).v ∧ seatCode b ≤ seatCode j)

theorem louder_trans {p : Part} {a b c : Seat} (h1 : p.louder a b) (h2 : p.louder b c) : p.louder a c := by
  unfold Part.louder at *
  omega

/-- The search from a candidate on, over seats that come after it. -/
theorem betterSeat_foldl (p : Part) (l : List Seat) (x : Seat) (hl : (x :: l).Pairwise fun a b =>
    seatCode a < seatCode b) :
    ∃ b ∈ x :: l, l.foldl (betterSeat p) (some x) = some b ∧ ∀ j ∈ x :: l, p.louder b j := by
  induction l generalizing x with
  | nil => exact ⟨x, List.mem_cons_self, rfl, fun j hj => by
      rw [List.mem_singleton.mp hj]
      exact .inr ⟨rfl, le_refl _⟩⟩
  | cons y l ih =>
    obtain ⟨hx, hyl⟩ := List.pairwise_cons.mp hl
    by_cases hlt : (p.seat y).v < (p.seat x).v
    · obtain ⟨b, hb, e, hall⟩ := ih y hyl
      refine ⟨b, List.mem_cons_of_mem _ hb, ?_, List.forall_mem_cons.mpr ⟨?_, hall⟩⟩
      · rw [List.foldl_cons, betterSeat, if_pos hlt, e]
      · rcases hall y List.mem_cons_self with h | ⟨h, -⟩
        · exact .inl (lt_trans h hlt)
        · exact .inl (h ▸ hlt)
    · have hxl : (x :: l).Pairwise fun a b => seatCode a < seatCode b :=
        List.pairwise_cons.mpr ⟨fun j hj => hx j (List.mem_cons_of_mem _ hj), (List.pairwise_cons.mp hyl).2⟩
      obtain ⟨b, hb, e, hall⟩ := ih x hxl
      obtain ⟨hbx, hrest⟩ := List.forall_mem_cons.mp hall
      have hy : p.louder x y := by
        rcases Nat.lt_or_eq_of_le (not_lt.mp hlt) with h | h
        · exact .inl h
        · exact .inr ⟨h, le_of_lt (hx y List.mem_cons_self)⟩
      refine ⟨b, ?_, ?_, List.forall_mem_cons.mpr ⟨hbx, List.forall_mem_cons.mpr ⟨louder_trans hbx hy, hrest⟩⟩⟩
      · rcases List.mem_cons.mp hb with rfl | hmem
        · exact List.mem_cons_self
        · exact List.mem_cons_of_mem _ (List.mem_cons_of_mem _ hmem)
      · rw [List.foldl_cons, betterSeat, if_neg hlt, e]

theorem seatCode_injective : Function.Injective seatCode := by
  intro a b h
  cases a <;> cases b <;> simp [seatCode] at h ⊢

theorem louder_antisymm {p : Part} {a b : Seat} (h1 : p.louder a b) (h2 : p.louder b a) : a = b := by
  have hcode : seatCode a = seatCode b := by
    unfold Part.louder at h1 h2
    omega
  exact seatCode_injective hcode

/-- The candidates come in the order of their seats. -/
theorem candidates_pairwise (p : Part) : p.candidates.Pairwise fun a b => seatCode a < seatCode b := by
  refine List.Pairwise.filter _ ?_
  decide

/-- The best candidate, if there is one. -/
theorem bestTalker_cases (p : Part) :
    (bestTalker p = none ∧ p.candidates = [])
      ∨ ∃ b ∈ p.candidates, bestTalker p = some b ∧ ∀ j ∈ p.candidates, p.louder b j := by
  have hpair := candidates_pairwise p
  rw [bestTalker_eq]
  cases hc : p.candidates with
  | nil => exact .inl ⟨rfl, rfl⟩
  | cons x l =>
    rw [hc] at hpair
    exact .inr (betterSeat_foldl p l x hpair)

theorem bestTalker_some {p : Part} {b : Seat} (h : p.bestSeat b) : bestTalker p = some b := by
  obtain ⟨hadmitted, hgate, hall⟩ := h
  have hb : b ∈ p.candidates := mem_candidates.mpr ⟨hadmitted, hgate⟩
  rcases bestTalker_cases p with ⟨-, hnil⟩ | ⟨x, hx, e, hmin⟩
  · rw [hnil] at hb
    cases hb
  · rw [e, louder_antisymm (hmin b hb) (hall x (mem_candidates.mp hx).1)]

theorem bestTalker_none {p : Part} (h : ∀ j, p.clp.admitted.get j = true → p.callCfg.gateLevel < (p.seat j).v) :
    bestTalker p = none := by
  rcases bestTalker_cases p with ⟨e, -⟩ | ⟨x, hx, -⟩
  · exact e
  · obtain ⟨ha, hg⟩ := mem_candidates.mp hx
    exact absurd (h x ha) (not_lt.mpr hg)

/-- What the search finds is quieter than no admitted seat. -/
theorem bestSeat_of_bestTalker {p : Part} {b : Seat} (h : bestTalker p = some b) : p.bestSeat b := by
  rcases bestTalker_cases p with ⟨e, -⟩ | ⟨x, hx, e, hmin⟩
  · rw [e] at h
    cases h
  · obtain rfl := Option.some.inj (e.symm.trans h)
    obtain ⟨ha, hg⟩ := mem_candidates.mp hx
    refine ⟨ha, hg, fun j hj => ?_⟩
    by_cases hjg : (p.seat j).v ≤ p.callCfg.gateLevel
    · exact hmin j (mem_candidates.mpr ⟨hj, hjg⟩)
    · exact .inl (by omega)

/-! ### The judgement of the talker -/

/-- The above-gate time has reached talker_hold (R142). -/
def gateHeld (hold : Nat) (time : Option Nat) : Prop := ∃ n, time = some n ∧ hold ≤ n

/-- The above-gate time at a meter update of seat `k` (R142). -/
def Part.timeAt (p : Part) (k t : Seat) : Option Nat :=
  if t = k then gateTime (p.seat t).v p.callCfg.gateLevel p.clp.aboveGate else p.clp.aboveGate

/-- The talker's above-gate time as it stands after a meter update. -/
def Part.timed (p : Part) (k t : Seat) : Part := { p with clp := { p.clp with aboveGate := p.timeAt k t } }

theorem judgeTalker_vacant {p : Part} (k : Seat) (h : p.clp.talker = none) :
    judgeTalker k p = (bestTalker p).elim p fun b => setTalker (some b) p := by
  unfold judgeTalker
  rw [h]
  cases bestTalker p <;> rfl

theorem judgeTalker_nobody {p : Part} {k t : Seat} (h : p.clp.talker = some t) (hb : bestTalker p = none) :
    (gateHeld p.callCfg.talkerHold (p.timeAt k t) → judgeTalker k p = setTalker none (p.timed k t))
      ∧ (¬gateHeld p.callCfg.talkerHold (p.timeAt k t) → judgeTalker k p = p.timed k t) := by
  have hb' : bestTalker (p.timed k t) = none := hb
  unfold Part.timed at *
  unfold judgeTalker
  rw [h]
  dsimp only
  rw [show (if t = k then gateTime (p.seat t).v p.callCfg.gateLevel p.clp.aboveGate else p.clp.aboveGate)
    = p.timeAt k t from rfl, hb']
  cases p.timeAt k t with
  | none => exact ⟨fun ⟨_, h, _⟩ => (by cases h), fun _ => rfl⟩
  | some n =>
    refine ⟨fun ⟨m, hm, hle⟩ => ?_, fun hnot => ?_⟩
    · cases hm
      simp [hle]
    · have : ¬p.callCfg.talkerHold ≤ n := fun hle => hnot ⟨n, rfl, hle⟩
      simp [this]

theorem judgeTalker_best {p : Part} {k t b : Seat} (h : p.clp.talker = some t) (hb : bestTalker p = some b) :
    (b ≠ t → ((p.seat b).v + p.callCfg.switchMargin ≤ (p.seat t).v ∨ gateHeld p.callCfg.talkerHold (p.timeAt k t)) →
        judgeTalker k p = setTalker (some b) (p.timed k t))
      ∧ (b = t ∨ ¬(p.seat b).v + p.callCfg.switchMargin ≤ (p.seat t).v
          ∧ ¬gateHeld p.callCfg.talkerHold (p.timeAt k t) → judgeTalker k p = p.timed k t) := by
  have hb' : bestTalker (p.timed k t) = some b := hb
  unfold Part.timed at *
  unfold judgeTalker
  rw [h]
  dsimp only
  rw [show (if t = k then gateTime (p.seat t).v p.callCfg.gateLevel p.clp.aboveGate else p.clp.aboveGate)
    = p.timeAt k t from rfl, hb']
  have hv (x : Seat) (c : Clp) (hc : c.seats = p.clp.seats) :
    (({ p with clp := c } : Part).seat x).v = (p.seat x).v := by
    unfold Part.seat
    rw [hc]
  cases p.timeAt k t with
  | none =>
    refine ⟨fun hne hor => ?_, fun hor => ?_⟩
    · have hm : (p.seat b).v + p.callCfg.switchMargin ≤ (p.seat t).v := hor.resolve_right fun ⟨_, h, _⟩ => by cases h
      simp [hne, hm, hv]
    · rcases hor with rfl | ⟨hm, -⟩
      · simp
      · simp [hm, hv]
  | some n =>
    refine ⟨fun hne hor => ?_, fun hor => ?_⟩
    · rcases hor with hm | ⟨m, hm, hle⟩
      · simp [hne, hm, hv]
      · cases hm
        simp [hne, hle]
    · rcases hor with rfl | ⟨hm, hnot⟩
      · simp
      · have : ¬p.callCfg.talkerHold ≤ n := fun hle => hnot ⟨n, rfl, hle⟩
        simp [hm, this, hv]

theorem judgeTalker_only (k : Seat) (p : Part) : ∃ t l g n, judgeTalker k p = { p with
    clp := { p.clp with talker := t, lastTalker := l, aboveGate := g }, nfu := n } := by
  have hset (o : Option Seat) (c : Clp) : ∃ t l g n, setTalker o { p with clp := c } = { p with
      clp := { c with talker := t, lastTalker := l, aboveGate := g }, nfu := n } := ⟨_, _, _, _, rfl⟩
  have hself (c : Clp) : ∃ t l g n, ({ p with clp := c } : Part) = { p with
      clp := { c with talker := t, lastTalker := l, aboveGate := g }, nfu := n } :=
    ⟨c.talker, c.lastTalker, c.aboveGate, p.nfu, rfl⟩
  cases ht : p.clp.talker with
  | none =>
    rw [judgeTalker_vacant k ht]
    cases bestTalker p with
    | none => exact hself p.clp
    | some b => exact hset _ p.clp
  | some t =>
    cases hb : bestTalker p with
    | none =>
      by_cases hheld : gateHeld p.callCfg.talkerHold (p.timeAt k t)
      · rw [(judgeTalker_nobody ht hb).1 hheld]
        exact hset _ _
      · rw [(judgeTalker_nobody ht hb).2 hheld]
        exact hself _
    | some b =>
      by_cases hkeep : b = t ∨ ¬(p.seat b).v + p.callCfg.switchMargin ≤ (p.seat t).v
          ∧ ¬gateHeld p.callCfg.talkerHold (p.timeAt k t)
      · rw [(judgeTalker_best ht hb).2 hkeep]
        exact hself _
      · rw [not_or, not_and_or, not_not, not_not] at hkeep
        rw [(judgeTalker_best ht hb).1 hkeep.1 hkeep.2]
        exact hset _ _

/-! ### METER_UPDATE -/

/-- A seat's record at the end of its meter window (R141). -/
def Part.metered (p : Part) (k : Seat) : Part :=
  p.setSeat k { p.seat k with v := meterLevel (p.seat k).meterSum (p.seatCfg k).window, meterSum := 0 }

theorem meterUpdate_open {k : Seat} {p : Part} (hl : p.tst.latent = []) (hr : p.running = true)
    (ho : (p.seat k).meterOpen = true) : meterUpdate k p = recodeUplink
      (if p.clp.state = .active ∧ p.clp.admitted.get k = true then judgeTalker k (p.metered k) else p.metered k) := by
  have hopen : (!(p.running && (p.seat k).meterOpen)) = false := by simp [hr, ho]
  have hcond : ((p.metered k).clp.state == .active && (p.metered k).clp.admitted.get k) = true
      ↔ p.clp.state = .active ∧ p.clp.admitted.get k = true := by
    rw [Bool.and_eq_true, beq_iff_eq]
    rfl
  obtain ⟨b, hb⟩ : ∃ b, b = p.metered k := ⟨_, rfl⟩
  have hdef : meterUpdate k p = if (b.clp.state == .active && b.clp.admitted.get k) = true then
      setUplink (judgeTalker k b) else setUplink b := by
    simp only [meterUpdate, hopen, ownerReads_clean _ hl, Bool.false_eq_true, if_false, hb]
    rfl
  rw [← hb] at hcond ⊢
  obtain ⟨t, l, g, n, e⟩ := judgeTalker_only k b
  rw [hdef]
  by_cases hc : p.clp.state = .active ∧ p.clp.admitted.get k = true
  · rw [if_pos hc, if_pos (hcond.mpr hc), setUplink_clean]
    rw [e, hb]
    exact hl
  · rw [if_neg hc, if_neg (fun h => hc (hcond.mp h)), setUplink_clean]
    rw [hb]
    exact hl

/-! ### ERLE_WINDOW_END -/

/-- A context's record at the end of a counting window, its figure stored (R146). -/
def SeatRt.judged (cfg : CallCfg) (e : Nat) (r : SeatRt) : SeatRt := contextStep cfg e { r.nextWindow with erle := e }

theorem judged_sums (cfg : CallCfg) (e : Nat) (r : SeatRt) : (r.judged cfg e).erle = e ∧ (r.judged cfg e).micSum = 0
    ∧ (r.judged cfg e).resSum = 0 ∧ (r.judged cfg e).refSum = 0 := by
  unfold SeatRt.judged contextStep
  dsimp only
  repeat' split
  all_goals exact ⟨rfl, rfl, rfl, rfl⟩

/-- A context in TRAINING (Table 8.8). -/
theorem judged_training {cfg : CallCfg} {e : Nat} {r : SeatRt} (h : r.context = .training) :
    (e < cfg.convErle → (r.judged cfg e).context = .training ∧ (r.judged cfg e).convTimer = 0)
      ∧ (cfg.convErle ≤ e → r.convTimer + 16 < 256 →
          (r.judged cfg e).context = .training ∧ (r.judged cfg e).convTimer = r.convTimer + 16)
      ∧ (cfg.convErle ≤ e → 256 ≤ r.convTimer + 16 →
          (r.judged cfg e).context = .converged ∧ (r.judged cfg e).convTimer = 0) := by
  have hc : ({ r.nextWindow with erle := e } : SeatRt).context = .training := h
  have hstep : r.judged cfg e = if cfg.convErle ≤ e then
      (if 256 ≤ r.convTimer + 16 then { r.nextWindow with
          erle := e, context := .converged, convTimer := 0, divTimer := 0 }
        else { r.nextWindow with
          erle := e, context := .training, convTimer := r.convTimer + 16 })
      else { r.nextWindow with
          erle := e, context := .training, convTimer := 0 } := by
    unfold SeatRt.judged contextStep
    rw [hc]
    rfl
  rw [hstep]
  refine ⟨fun h1 => ?_, fun h1 h2 => ?_, fun h1 h2 => ?_⟩
  · rw [if_neg (not_le.mpr h1)]
    exact ⟨rfl, rfl⟩
  · rw [if_pos h1, if_neg (not_le.mpr h2)]
    exact ⟨rfl, rfl⟩
  · rw [if_pos h1, if_pos h2]
    exact ⟨rfl, rfl⟩

/-- A context that has CONVERGED (Table 8.8). -/
theorem judged_converged {cfg : CallCfg} {e : Nat} {r : SeatRt} (h : r.context = .converged) :
    (cfg.divErle ≤ e → (r.judged cfg e).context = .converged ∧ (r.judged cfg e).divTimer = 0)
      ∧ (e < cfg.divErle → r.divTimer + 16 < 128 →
          (r.judged cfg e).context = .converged ∧ (r.judged cfg e).divTimer = r.divTimer + 16)
      ∧ (e < cfg.divErle → 128 ≤ r.divTimer + 16 → (r.judged cfg e).context = .training
          ∧ (r.judged cfg e).filterClear = true ∧ (r.judged cfg e).divCount = min 65535 (r.divCount + 1)) := by
  have hc : ({ r.nextWindow with erle := e } : SeatRt).context = .converged := h
  have hstep : r.judged cfg e = if e < cfg.divErle then
      (if 128 ≤ r.divTimer + 16 then { ({ r.nextWindow with erle := e } : SeatRt).noWindow with
          context := .training, filterClear := true, convTimer := 0, divTimer := 0, divCount := count16 r.divCount 1 }
        else { r.nextWindow with
          erle := e, context := .converged, divTimer := r.divTimer + 16 })
      else { r.nextWindow with
          erle := e, context := .converged, divTimer := 0 } := by
    unfold SeatRt.judged contextStep
    rw [hc]
    rfl
  rw [hstep]
  refine ⟨fun h1 => ?_, fun h1 h2 => ?_, fun h1 h2 => ?_⟩
  · rw [if_neg (not_lt.mpr h1)]
    exact ⟨rfl, rfl⟩
  · rw [if_pos h1, if_neg (not_le.mpr h2)]
    exact ⟨rfl, rfl⟩
  · rw [if_pos h1, if_pos h2]
    exact ⟨rfl, rfl, rfl⟩

/-- What the parts of a meter update hold of the call, whatever the talker. -/
theorem bestSeat_of_clp {b q : Part} (h : q.tst = b.tst) (ha : q.clp.admitted = b.clp.admitted)
    (hs : q.clp.seats = b.clp.seats) {x : Seat} (hq : q.bestSeat x) : b.bestSeat x := by
  have hcfg : q.callCfg = b.callCfg := by unfold Part.callCfg Part.unitPoisoned; rw [h]
  unfold Part.bestSeat Part.seat at *
  rwa [hcfg, ha, hs] at hq

/-- Settles O51: the update and the window by whether they complete, and the talker by its state and the best seat. -/
theorem metersAndCancellersJudgeTheirWindows : Obligations.MetersAndCancellersJudgeTheirWindows := by
  refine ⟨fun k p w hl => ⟨fun hno => ?_, fun hr ho => ?_⟩, fun k p w hl => ⟨fun hno => ?_, fun hr ho hc hctx => ?_⟩⟩
  · have hclosed : (!(p.running && (p.seat k).meterOpen)) = true := by rcases hno with h | h <;> simp [h]
    have hexec : exec (.meterUpdate k) ⟨p, w⟩ = .next ⟨meterUpdate k p, w⟩ := rfl
    rw [hexec, meterUpdate, hclosed]
    rfl
  · obtain ⟨b, hb⟩ : ∃ b, b = p.metered k := ⟨_, rfl⟩
    obtain ⟨j, hj⟩ : ∃ j, j = if p.clp.state = .active ∧ p.clp.admitted.get k = true then judgeTalker k b else b :=
      ⟨_, rfl⟩
    obtain ⟨t, l, g, n, e⟩ : ∃ t l g n, j = { b with
        clp := { b.clp with talker := t, lastTalker := l, aboveGate := g }, nfu := n } := by
      rw [hj]
      split
      · exact judgeTalker_only k b
      · exact ⟨b.clp.talker, b.clp.lastTalker, b.clp.aboveGate, b.nfu, rfl⟩
    obtain ⟨q, hq⟩ : ∃ q, q = recodeUplink j := ⟨_, rfl⟩
    have htalker : q.clp.talker = j.clp.talker := by rw [hq]; rfl
    have hlast : q.clp.lastTalker = j.clp.lastTalker := by rw [hq]; rfl
    have hgate : q.clp.aboveGate = j.clp.aboveGate := by rw [hq]; rfl
    have hnfu : q.nfu = j.nfu := by rw [hq]; rfl
    have hseats : q.clp.seats = b.clp.seats := by rw [hq, e]; rfl
    have hadmitted : q.clp.admitted = p.clp.admitted := by rw [hq, e, hb]; rfl
    have hbest {x : Seat} (h : q.bestSeat x) : bestTalker b = some x :=
      bestTalker_some (bestSeat_of_clp (by rw [hq, e]; rfl) (by rw [hadmitted, hb]; rfl) hseats h)
    have hbestq {x : Seat} (h : bestTalker b = some x) : q.bestSeat x :=
      bestSeat_of_clp (by rw [hq, e]; rfl) (by rw [hadmitted, hb]; rfl) hseats.symm (bestSeat_of_bestTalker h)
    have hnone (h : ∀ j, q.clp.admitted.get j = true → p.callCfg.gateLevel < (q.seat j).v) : bestTalker b = none := by
      refine bestTalker_none fun j hj => ?_
      have := h j (by rw [hadmitted]; rw [hb] at hj; exact hj)
      unfold Part.seat at this
      rw [hseats] at this
      rw [hb] at this ⊢
      exact this
    refine ⟨q, ?_, ?_, fun x hx => ?_, ⟨fun hnot => ?_, fun hc ha => ⟨fun hv => ⟨fun x hx => ?_, fun hnobody => ?_⟩,
      fun t' ht' => ?_⟩⟩, ?_⟩
    · have hexec : exec (.meterUpdate k) ⟨p, w⟩ = .next ⟨meterUpdate k p, w⟩ := rfl
      rw [hexec, meterUpdate_open hl hr ho, ← hb, ← hj, hq]
    · unfold Part.seat
      rw [hseats, hb]
      exact PerSeat.get_set_self ..
    · unfold Part.seat
      rw [hseats, hb]
      exact PerSeat.get_set_of_ne _ _ _ _ hx
    · have hkept : j = b := by
        rw [hj, if_neg]
        rintro ⟨h1, h2⟩
        rcases hnot with h | h
        · exact h h1
        · rw [h] at h2; cases h2
      rw [htalker, hlast, hnfu, hgate, hkept, hb]
      exact ⟨⟨rfl, rfl, rfl⟩, rfl⟩
    · have hjx : j = setTalker (some x) b := by
        rw [hj, if_pos ⟨hc, ha⟩, judgeTalker_vacant k (by rw [hb]; exact hv), hbest hx]
        rfl
      rw [htalker, hlast, hgate, hnfu, hjx, hb]
      exact ⟨rfl, rfl, rfl, rfl⟩
    · have hjb : j = b := by
        rw [hj, if_pos ⟨hc, ha⟩, judgeTalker_vacant k (by rw [hb]; exact hv), hnone hnobody]
        rfl
      rw [htalker, hlast, hnfu, hgate, hjb, hb]
      exact ⟨⟨rfl, rfl, rfl⟩, rfl⟩
    · have hbt : b.clp.talker = some t' := by rw [hb]; exact ht'
      have hjudge : j = judgeTalker k b := by rw [hj, if_pos ⟨hc, ha⟩]
      have hv (x : Seat) : (q.seat x).v = (b.seat x).v := by unfold Part.seat; rw [hseats]
      have htime : b.timeAt k t' = if t' ≠ k then p.clp.aboveGate
          else if (q.seat t').v ≤ p.callCfg.gateLevel then none else some (p.clp.aboveGate.getD 0) := by
        rw [Part.timeAt, gateTime, hv, ite_not, hb]
        rfl
      have hcfg : b.callCfg = p.callCfg := by rw [hb]; rfl
      have htimed : (b.timed k t').clp.talker = p.clp.talker ∧ (b.timed k t').clp.lastTalker = p.clp.lastTalker
          ∧ (b.timed k t').nfu = p.nfu ∧ (b.timed k t').clp.aboveGate = b.timeAt k t' := by
        rw [hb]
        exact ⟨rfl, rfl, rfl, rfl⟩
      dsimp only
      rw [← htime, htalker, hlast, hgate, hnfu, hjudge]
      refine ⟨fun x hx hne hor => ?_, fun hnobody hheld => ?_, fun hnot hfar => ?_, fun hx => ?_⟩
      · rw [hv, hv, ← hcfg] at hor
        rw [(judgeTalker_best hbt (hbest hx)).1 hne hor, ← htimed.2.2.1]
        exact ⟨rfl, rfl, rfl, rfl⟩
      · rw [← hcfg] at hheld
        rw [(judgeTalker_nobody hbt (hnone hnobody)).1 hheld, ← htimed.2.1, ← htimed.2.2.1]
        exact ⟨rfl, rfl, rfl, rfl⟩
      · rw [← hcfg] at hnot
        have hstays : judgeTalker k b = b.timed k t' := by
          cases hx : bestTalker b with
          | none => exact (judgeTalker_nobody hbt hx).2 hnot
          | some x =>
            refine (judgeTalker_best hbt hx).2 ((hfar x (hbestq hx)).imp_right fun hlt => ⟨?_, hnot⟩)
            rw [hv, hv, ← hcfg] at hlt
            omega
        rw [hstays]
        exact ⟨⟨htimed.1, htimed.2.1, htimed.2.2.1⟩, htimed.2.2.2⟩
      · rw [(judgeTalker_best hbt (hbest hx)).2 (.inl rfl)]
        exact ⟨⟨htimed.1, htimed.2.1, htimed.2.2.1⟩, htimed.2.2.2⟩
    · rw [hq, e, hb]
      rfl
  · have hno' : (!(p.running && (p.seat k).windowOpen && p.clp.state == .active && (p.seat k).context != .reset))
      = true := by
      rcases hno with h | h | h | h <;> simp [h]
    have hexec : exec (.erleWindowEnd k) ⟨p, w⟩ = .next ⟨erleWindowEnd k p, w⟩ := rfl
    rw [hexec, erleWindowEnd, hno']
    rfl
  · have hopen : (!(p.running && (p.seat k).windowOpen && p.clp.state == .active && (p.seat k).context != .reset))
      = false := by
      simp [hr, ho, hc, hctx]
    have hexec : exec (.erleWindowEnd k) ⟨p, w⟩ = .next ⟨erleWindowEnd k p, w⟩ := rfl
    refine ⟨fun hcounts => ?_, fun hcounts => ?_⟩
    · rw [hexec, erleWindowEnd]
      simp only [hopen, ownerReads_clean _ hl, hcounts, Bool.false_eq_true, if_false]
      rfl
    · obtain ⟨e, he⟩ : ∃ e, e = erleOf (p.seat k).micSum (p.seat k).resSum := ⟨_, rfl⟩
      obtain ⟨b, hb⟩ : ∃ b, b = changeContext k (SeatRt.judged p.callCfg e) p := ⟨_, rfl⟩
      have hbeq := hb.trans (changeContext_only k _ p)
      obtain ⟨q, hq⟩ : ∃ q, q = recodeUplink b := ⟨_, rfl⟩
      have hrun : erleWindowEnd k p = q := by
        unfold erleWindowEnd
        simp only [hopen, ownerReads_clean _ hl, hcounts, Bool.false_eq_true, if_false, if_true, ← he]
        show setUplink (changeContext k (SeatRt.judged p.callCfg e) p) = q
        rw [← hb, setUplink_clean (by rw [hbeq]; exact hl), hq]
      have hseat : q.seat k = (p.seat k).judged p.callCfg e := by
        rw [hq, hbeq]
        exact PerSeat.get_set_self ..
      have hcarried : p.carried = p.clp.talker.getD p.clp.lastTalker := rfl
      obtain ⟨h1, h2, h3, h4⟩ := judged_sums p.callCfg e (p.seat k)
      dsimp only
      rw [← he]
      refine ⟨q, by rw [hexec, hrun], ?_⟩
      rw [hseat]
      refine ⟨h1, h2, h3, h4, fun j hj => ?_, fun h => (judged_training h).1, fun h => (judged_training h).2.1,
        fun h => (judged_training h).2.2, fun h => (judged_converged h).1, fun h => (judged_converged h).2.1,
        fun h => (judged_converged h).2.2, ?_, ?_⟩
      · rw [hq, hbeq]
        exact PerSeat.get_set_of_ne _ _ _ _ hj
      · rw [hq, hbeq, ← hcarried]
        simp only [recodeUplink, Bool.and_eq_true, bne_iff_ne, beq_iff_eq, ne_comm]
      · rw [hq, hbeq]
        rfl

end Sys2Proof.Machine
end

section
/-! PROOFS. The rear panel link: line errors (O57) and reports (O58). -/

namespace Sys2Proof.Machine

/-! ### Line errors -/

theorem exec_rearByteReceived (b : Byte) (stop : Bool) (p : Part) (w : List Instr) :
    exec (.rearByteReceived b stop) ⟨p, w⟩ = .next ⟨rearByteReceived b stop p, w⟩ := rfl

theorem exec_rearIdleTimeout (p : Part) (w : List Instr) :
    exec .rearIdleTimeout ⟨p, w⟩ = .next ⟨rearIdleTimeout p, w⟩ := rfl

theorem abandonFrame_open {p : Part} (h : p.rlu.assembler ≠ .handling) : abandonFrame p = hunt p := by
  simp [abandonFrame, h]

theorem abandonFrame_handling {p : Part} (h : p.rlu.assembler = .handling) : abandonFrame p = p := by
  simp [abandonFrame, h]

/-- An assembler in HANDLING takes no bytes. -/
theorem drainFifo_handling {p : Part} (h : p.rlu.assembler = .handling) (n : Nat) : drainFifo n p = p := by
  cases n with
  | zero => rfl
  | succ n =>
    unfold drainFifo
    split
    · rfl
    · rfl
    · rename_i hno
      exact absurd h hno

theorem drain_empty {p : Part} (h : p.rlu.fifo = []) : drain p = p := by
  unfold drain
  rw [h]
  rfl

/-- A byte that joins an empty FIFO is taken at once, but in HANDLING (R115). -/
theorem drain_one {b : Byte} {p : Part} (h : p.rlu.fifo = [b]) (hn : p.rlu.assembler ≠ .handling) :
    drain p = takeByte b { p with rlu := { p.rlu with fifo := [] } } := by
  unfold drain
  rw [h]
  show drainFifo 1 p = _
  unfold drainFifo
  rw [h]
  split
  · rename_i hh
    exact absurd hh hn
  · rename_i hnil _
    cases hnil
  · rename_i hcons _
    cases hcons
    rfl

/-- The part with a byte in its empty FIFO, and the FIFO emptied again. -/
theorem fifo_emptied {p : Part} (h : p.rlu.fifo = []) : { p with rlu := { p.rlu with fifo := [] } } = p := by
  rw [← h]

/-- In HUNT a byte that is not SYNC is dropped (R115). -/
theorem takeByte_hunt {b : Byte} {p : Part} (h : p.rlu.assembler = .hunt) (hb : b ≠ syncByte) : takeByte b p = p := by
  have hsync : (b == syncByte) = false := by simpa using hb
  unfold takeByte
  dsimp only
  rw [h]
  simp only [hsync, Bool.false_eq_true, if_false]

/-- A length outside the frames' is a frame error (R115). -/
theorem takeByte_badLength {b : Byte} {p : Part} (h : p.rlu.assembler = .length) (hb : b.toNat < 4 ∨ 16 < b.toNat) :
    takeByte b p = frameError (hunt p) := by
  have hlen : (decide (4 ≤ b.toNat) && decide (b.toNat ≤ 16)) = false := by
    rw [← Bool.not_eq_true, Bool.and_eq_true, decide_eq_true_eq, decide_eq_true_eq]
    omega
  unfold takeByte
  dsimp only
  rw [h]
  simp only [hlen, Bool.false_eq_true, if_false]

/-- Settles O57: the byte and the idle line, by the assembler's state. -/
theorem rearLineErrorsAreCounted : Obligations.RearLineErrorsAreCounted := by
  intro b p w
  refine ⟨fun ha stop => ?_, fun ha => ⟨fun hn => ⟨?_, fun hfull => ?_⟩, fun hh => ⟨?_, ?_⟩, fun hf hh hb => ?_,
    fun hf hh hb => ?_⟩, fun _ hf hh => ?_, fun hh => ?_⟩
  · rw [exec_rearByteReceived, rearByteReceived, ha]
    rfl
  · rw [exec_rearByteReceived, rearByteReceived, ha]
    simp only [Bool.not_true, Bool.false_eq_true, if_false, Bool.not_false, if_true]
    rw [abandonFrame_open (by exact hn)]
    rfl
  · rw [exec_rearByteReceived, rearByteReceived, ha]
    simp only [Bool.not_true, Bool.false_eq_true, if_false, hfull, if_true]
    rw [abandonFrame_open (by exact hn)]
    rfl
  · rw [exec_rearByteReceived, rearByteReceived, ha]
    simp only [Bool.not_true, Bool.false_eq_true, if_false, Bool.not_false, if_true]
    rw [abandonFrame_handling (by exact hh)]
    rfl
  · rw [exec_rearByteReceived, rearByteReceived, ha]
    by_cases hlt : p.rlu.fifo.length < 32
    · simp only [Bool.not_true, Bool.false_eq_true, if_false, not_le.mpr hlt, hlt, if_true]
      unfold drain
      rw [drainFifo_handling (by exact hh)]
    · simp only [Bool.not_true, Bool.false_eq_true, if_false, not_lt.mp hlt, hlt, if_true]
      rw [abandonFrame_handling (by exact hh)]
      rfl
  · rw [exec_rearByteReceived, rearByteReceived, ha]
    simp only [Bool.not_true, Bool.false_eq_true, if_false, hf, List.length_nil, List.nil_append,
      show ¬32 ≤ 0 by decide]
    rw [drain_one (b := b) rfl (by rw [hh]; decide), takeByte_hunt (by exact hh) hb]
    exact congrArg (fun q => Host.Outcome.next (⟨q, w⟩ : State)) (fifo_emptied hf)
  · rw [exec_rearByteReceived, rearByteReceived, ha]
    simp only [Bool.not_true, Bool.false_eq_true, if_false, hf, List.length_nil, List.nil_append,
      show ¬32 ≤ 0 by decide]
    rw [drain_one (b := b) rfl (by rw [hh]; decide), takeByte_badLength (by exact hh) hb]
    rfl
  · have hmid : (p.rlu.assembler == .length || p.rlu.assembler == .body) = true := by simpa using hh
    rw [exec_rearIdleTimeout, rearIdleTimeout, hmid, if_pos rfl, drain_empty (by exact hf)]
    rfl
  · rw [exec_rearIdleTimeout, rearIdleTimeout, hh]
    rfl

/-! ### Reports -/

/-- The pending result of a seat after a change of what it sees (R126). -/
theorem noteReports_pending (p q : Part) : noteReports p q
      = { q with rlu := { q.rlu with pending := (noteReports p q).rlu.pending } }
    ∧ ∀ r, (noteReports p q).rlu.pending.get r =
        if reportView p r = reportView q r then q.rlu.pending.get r
        else some ((q.rlu.pending.get r).getD .none) := by
  have hqueued (o : Option RearResult) : queuedResult o none = some (o.getD .none) := by cases o <;> rfl
  have hright (q : Part) : reportView (q.queueReport .left none) .right = reportView q .right := rfl
  unfold noteReports
  dsimp only
  by_cases h1 : reportView p .left = reportView q .left <;> by_cases h2 : reportView p .right = reportView q .right
  · rw [if_pos h1, if_pos h2]
    exact ⟨rfl, fun r => by cases r <;> simp only [h1, h2, if_true]⟩
  · rw [if_pos h1, if_neg h2]
    refine ⟨rfl, fun r => ?_⟩
    cases r with
    | left => rw [if_pos h1]; rfl
    | right => rw [if_neg h2]; exact hqueued _
  · rw [if_neg h1, hright, if_pos h2]
    refine ⟨rfl, fun r => ?_⟩
    cases r with
    | left => rw [if_neg h1]; exact hqueued _
    | right => rw [if_pos h2]; rfl
  · rw [if_neg h1, hright, if_neg h2]
    refine ⟨rfl, fun r => ?_⟩
    cases r with
    | left => rw [if_neg h1]; exact hqueued _
    | right => rw [if_neg h2]; exact hqueued _

/-- The sum of a frame with its CHECK byte is 0 (section 7.2). -/
theorem checkByte_sum (bs : List Byte) : ((bs ++ [checkByte bs]).map BitVec.toNat).sum % 256 = 0 := by
  simp only [List.map_append, List.sum_append, List.map_cons, List.map_nil, List.sum_singleton, checkByte,
    BitVec.toNat_ofNat]
  omega

/-- A report is sent: the seat's, and its frame (R127). -/
theorem reportSend_next {p : Part} {r : RearSeat} {x : RearResult} (ha : p.rif.addressValid = true)
    (hl : p.tst.latent = []) (hp : p.rlu.pending.get r = some x)
    (ho : p.rlu.pending.get r.other = none ∨ p.rlu.lastSent = r.other) :
    reportSend p = { p with rlu := { p.rlu with
      pending := p.rlu.pending.set r none, lastSent := r, sent := reportFrame p r x } } := by
  have hnext : nextReport p.rlu = some (r, x) := by
    have hother (s : RearSeat) : s.other.other = s := by cases s <;> rfl
    unfold nextReport
    by_cases hlast : p.rlu.lastSent = r.other
    · dsimp only
      rw [hlast, hother, hp]
    · have hnone := ho.resolve_right hlast
      have hsame : p.rlu.lastSent = r := by
        cases hl' : p.rlu.lastSent <;> cases r <;> simp_all [RearSeat.other]
      dsimp only
      rw [hsame, hnone, hp]
  have hread : settleRead p (readForReport r p) = p := by
    rw [readForReport_clean r hl]
    simp [settleRead, undisturbed]
  unfold reportSend
  rw [hnext]
  dsimp only
  rw [ha, hread]
  rfl

/-- The head of a report's frame, up to its source (Table 12.7). -/
def reportHead (p : Part) (r : RearSeat) (x : RearResult) : List Byte :=
  [syncByte, 23#8, 0x40#8, if r = .left then 1#8 else 2#8, BitVec.ofNat 8 (rearResultCode x),
    BitVec.ofNat 8 (zoneStateCode (p.zone r.zone).state), BitVec.ofNat 8 (sourceCode (p.zone r.zone).source)]

/-- The fields of a report's frame behind its station (Table 12.7). -/
def reportTail (p : Part) (r : RearSeat) : List Byte :=
  [BitVec.ofNat 8 (p.zone r.zone).step, BitVec.ofNat 8 (p.rlu.maxCopy.get r),
    BitVec.ofNat 8 (codeOfBool (p.zone r.zone).mute), BitVec.ofNat 8 (membership p r), p.admissionFlags r,
    BitVec.ofNat 8 (modeCode p.pwc.mode)]

theorem reportFrame_bytes (p : Part) (r : RearSeat) (x : RearResult) :
    reportFrame p r x = reportHead p r x ++ (reportStation p (p.zone r.zone) ++ reportTail p r)
      ++ [checkByte (reportHead p r x ++ (reportStation p (p.zone r.zone) ++ reportTail p r))] := by
  unfold reportFrame reportHead reportTail
  cases r <;> simp [byte1]

theorem reportFrame_sum (p : Part) (r : RearSeat) (x : RearResult) :
    ((reportFrame p r x).map BitVec.toNat).sum % 256 = 0 := by
  rw [reportFrame_bytes]
  exact checkByte_sum _

theorem reportFrame_length (p : Part) (r : RearSeat) (x : RearResult) :
    (reportFrame p r x).length = (reportStation p (p.zone r.zone)).length + 14 := by
  rw [reportFrame_bytes]
  simp [reportHead, reportTail]

theorem reportFrame_body (p : Part) (r : RearSeat) (x : RearResult) :
    ((reportFrame p r x).drop 7).take ((reportStation p (p.zone r.zone)).length + 6)
      = reportStation p (p.zone r.zone) ++ reportTail p r := by
  have hlen : (reportStation p (p.zone r.zone)).length + 6
      = (reportStation p (p.zone r.zone) ++ reportTail p r).length := by simp [reportTail]
  rw [reportFrame_bytes, List.append_assoc, hlen]
  exact List.take_left

/-- The station bytes of a report: by the entry's label, by the code, or none (Table 7.8). -/
theorem reportStation_other {p : Part} {z : Zone} (h : z.source ≠ .radio) :
    reportStation p z = List.replicate 9 0#8 := by
  unfold reportStation
  cases hs : z.source with
  | radio => exact absurd hs h
  | _ => rfl

theorem reportStation_label {p : Part} {z : Zone} {l : List Byte} (h : z.source = .radio)
    (hl : (z.station.bind p.station).bind Station.label = some l) : reportStation p z = 1#8 :: l := by
  have hl' : ((z.station.bind p.station).bind fun e => e.label) = some l := hl
  unfold reportStation
  rw [h, hl']
  rfl

theorem reportStation_code {p : Part} {z : Zone} {c : Nat} (h : z.source = .radio)
    (hl : (z.station.bind p.station).bind Station.label = none) (hc : z.code = some c) :
    reportStation p z = 2#8 :: byte2 c ++ List.replicate 6 0#8 := by
  have hl' : ((z.station.bind p.station).bind fun e => e.label) = none := hl
  unfold reportStation
  rw [h, hl', hc]
  rfl

theorem reportStation_none {p : Part} {z : Zone} (h : z.source = .radio)
    (hl : (z.station.bind p.station).bind Station.label = none) (hc : z.code = none) :
    reportStation p z = List.replicate 9 0#8 := by
  have hl' : ((z.station.bind p.station).bind fun e => e.label) = none := hl
  unfold reportStation
  rw [h, hl', hc]

theorem reportStation_length {p : Part} {z : Zone}
    (h : ∀ l, (z.station.bind p.station).bind Station.label = some l → l.length = 8) :
    (reportStation p z).length = 9 := by
  by_cases hs : z.source = .radio
  · cases hl : (z.station.bind p.station).bind Station.label with
    | some l => rw [reportStation_label hs hl, List.length_cons, h l hl]
    | none =>
      cases hc : z.code with
      | some c => rw [reportStation_code hs hl hc]; rfl
      | none => rw [reportStation_none hs hl hc]; rfl
  · rw [reportStation_other hs]
    rfl

/-- The membership byte of a report: in the call, able to join it, or neither (Table 12.7). -/
theorem membership_byte (p : Part) (r : RearSeat) : BitVec.ofNat 8 (membership p r)
      = if p.clp.zones.get r.zone = true then 2#8
        else if (p.clp.state = .active ∨ p.clp.state = .held) ∧ p.clp.isPrivate = false
          ∧ (p.zone r.zone).state ≠ .off then 1#8
        else 0#8 := by
  unfold membership
  simp only [Bool.and_eq_true, Bool.or_eq_true, beq_iff_eq, bne_iff_ne, Bool.not_eq_true', and_assoc]
  split_ifs <;> rfl

/-- With no report pending none is sent (R127). -/
theorem reportSend_none {p : Part} (h1 : p.rlu.pending.left = none) (h2 : p.rlu.pending.right = none) :
    reportSend p = p := by
  have hnone (s : RearSeat) : p.rlu.pending.get s = none := by cases s <;> assumption
  have hnext : nextReport p.rlu = none := by
    unfold nextReport
    dsimp only
    rw [hnone, hnone]
  unfold reportSend
  rw [hnext]

/-- Settles O58: the change seen (`noteReports_pending`), the report sent, and nothing to send. -/
theorem rearReportsAreQueuedAndSentInTurn : Obligations.RearReportsAreQueuedAndSentInTurn := by
  refine ⟨noteReports_pending, fun r x p w ha hl hp ho => ⟨reportFrame p r x, ?_, fun hlab => ?_,
    reportFrame_sum p r x, ?_, ?_, ?_, ?_, ?_⟩, fun p w h1 h2 => ?_⟩
  · exact congrArg (fun q => Host.Outcome.next (⟨q, w⟩ : State)) (reportSend_next ha hl hp ho)
  · rw [reportFrame_length, reportStation_length hlab]
  · rw [reportFrame_bytes]
    rfl
  · rw [reportFrame_bytes]
    rfl
  · rw [reportFrame_bytes]
    rfl
  · rw [reportFrame_bytes]
    rfl
  · dsimp only
    have hbody := And.intro (reportFrame_body p r x) (reportFrame_length p r x)
    unfold reportTail at hbody
    rw [membership_byte] at hbody
    by_cases hs : (p.zone r.zone).source = .radio
    · rw [if_neg (not_not.mpr hs)]
      cases hlab : ((p.zone r.zone).station.bind p.station).bind Station.label with
      | some l => rwa [reportStation_label hs hlab] at hbody
      | none =>
        cases hc : (p.zone r.zone).code with
        | some c => rwa [reportStation_code hs hlab hc] at hbody
        | none => rwa [reportStation_none hs hlab hc] at hbody
    · rw [if_pos hs]
      rwa [reportStation_other hs] at hbody
  · exact congrArg (fun q => Host.Outcome.next (⟨q, w⟩ : State)) (reportSend_none h1 h2)

end Sys2Proof.Machine
end

section
/-! PROOFS. The link's events and a tuner's entry to FAULT (O37). -/

namespace Sys2Proof.Machine

/-! ### The entry of a tuner to FAULT -/

/-- The claims' zones are detached, and no other field of a zone changes. -/
theorem detachClaimants_eq (cs : List Claim) (p : Part) : ∃ zs, cs.foldl (fun q c => detachClaimant c.who q) p
      = { p with zmx := { p.zmx with zones := zs } }
    ∧ (∀ z, zs.get z = p.zone z ∨ zs.get z = (p.zone z).loose)
    ∧ ∀ z, ∀ c ∈ cs, c.who.zone? = some z → (zs.get z).att = none := by
  induction cs generalizing p with
  | nil => exact ⟨p.zmx.zones, rfl, fun _ => .inl rfl, by simp⟩
  | cons c cs ih =>
    obtain ⟨z1, e1, h1, h2⟩ : ∃ z1, detachClaimant c.who p = { p with zmx := { p.zmx with zones := z1 } }
        ∧ (∀ z, z1.get z = p.zone z ∨ z1.get z = (p.zone z).loose)
        ∧ ∀ z, c.who.zone? = some z → (z1.get z).att = none := by
      unfold detachClaimant
      split
      · rename_i z hz
        refine ⟨_, detach_eq z p, fun x => ?_, fun x hx => ?_⟩
        · rw [PerZone.get_of]
          unfold detached
          split
          · exact .inr rfl
          · exact .inl rfl
        · obtain rfl : z = x := by simpa [hz] using hx
          rw [PerZone.get_of, detached, if_pos (.inl rfl)]
          rfl
      · rename_i hz
        exact ⟨p.zmx.zones, rfl, fun _ => .inl rfl, fun z h => by simp [hz] at h⟩
    obtain ⟨zs, e, hz, hc⟩ := ih (detachClaimant c.who p)
    rw [e1] at hz
    refine ⟨zs, by rw [List.foldl_cons, e, e1], fun z => ?_, fun z k hk hkz => ?_⟩
    · rcases hz z with h | h <;> rcases h1 z with h' | h'
      · exact .inl (h.trans h')
      · exact .inr (h.trans h')
      · have hloose := congrArg Zone.loose h'
        exact .inr (h.trans hloose)
      · have hloose := congrArg Zone.loose h'
        exact .inr (h.trans hloose)
    · rcases List.mem_cons.mp hk with rfl | hk
      · rcases hz z with h | h
        · rw [h]
          exact h2 z hkz
        · rw [h]
          rfl
      · exact hc z k hk hkz

/-- The record of a tuner in FAULT (R56). -/
def Tuner.faulted (r : Tuner) : Tuner :=
  { r with state := .fault, claims := [], note := none, seek := none, settle := false, adapter := flush r.adapter,
           retry := none, acked := false, done := false }

/-- A scan on a tuner ends without SCAN_DONE. -/
def dropScan (t : TunerId) (p : Part) : Part :=
  match p.stm.scan with
  | some s => if s.tuner == t then { p with stm := { p.stm with scan := none } } else p
  | none => p

theorem dropScan_eq (t : TunerId) (p : Part) :
    dropScan t p = { p with stm := { p.stm with scan := p.stm.scan.filter fun s => s.tuner != t } } := by
  unfold dropScan
  cases hscan : p.stm.scan with
  | none =>
    show p = { p with stm := { p.stm with scan := none } }
    rw [← hscan]
  | some s =>
    by_cases hst : s.tuner = t
    · simp [hst, Option.filter]
    · have hne : (s.tuner != t) = true := by simpa using hst
      simp only [beq_iff_eq, hst, if_false, Option.filter, hne, if_true]
      rw [← hscan]

/-- A tuner whose claims have gone is taken out of work. -/
def stopFaulted (t : TunerId) (p : Part) : Part :=
  { p with
    tuc := { p.tuc with
      tuners := p.tuc.tuners.set t { p.tuner t with
        state := .fault, settle := false, adapter := flush (p.tuner t).adapter, retry := none
        acked := false, done := false }
      queue := p.tuc.queue.filter fun x => x.1 != t }
    stm := { p.stm with follow := p.stm.follow.set t (p.follow t).ended } }

theorem enterFault_def (t : TunerId) (p : Part) : enterFault t p
    = ((dropScan t (stopFaulted t (releaseAll t (abandonSwitches t p)))).post .tunerFault (tunerCode t)).fault .tuner
        (some (tunerCode t)) := rfl

/-- A tuner in no switch enters FAULT: its record, its claims and zones, its pending command, its scan, the notice and
the report (R56). -/
theorem enterFault_eq {t : TunerId} {p : Part} (hs : p.switching t = false) (ho : p.switching t.other = false) :
    ∃ zs gs, enterFault t p = { p with
        zmx := { p.zmx with zones := zs }
        tuc := { p.tuc with tuners := p.tuc.tuners.set t (p.tuner t).faulted, grants := gs
                            queue := p.tuc.queue.filter fun x => x.1 != t }
        stm := { p.stm with follow := p.stm.follow.set t (p.follow t).ended
                            scan := p.stm.scan.filter fun s => s.tuner != t }
        nfu := (p.nfu.post .tunerFault (tunerCode t) none).fault .tuner (some (tunerCode t)) none p.rif.ringTime }
      ∧ (∀ z, zs.get z = p.zone z ∨ zs.get z = (p.zone z).loose)
      ∧ ∀ z, ∀ c ∈ (p.tuner t).claims, c.who.zone? = some z → (zs.get z).att = none := by
  have habandon : abandonSwitches t p = p := by
    have h1 : abandonSwitch t p = p := by simp [abandonSwitch, hs]
    rw [abandonSwitches, h1, abandonSwitch, ho]
    rfl
  obtain ⟨zs, e, hz, hc⟩ := detachClaimants_eq (p.tuner t).claims { p with tuc := { p.tuc with
    tuners := p.tuc.tuners.set t { p.tuner t with claims := [], note := none, seek := none }
    grants := p.tuc.grants.filter fun z => !(p.tuner t).claims.any fun c => c.who.zone? == some z } }
  refine ⟨zs, p.tuc.grants.filter fun z => !(p.tuner t).claims.any fun c => c.who.zone? == some z, ?_, hz, hc⟩
  have hrelease : releaseAll t p = _ := e
  rw [enterFault_def, habandon, hrelease, dropScan_eq]
  cases t <;> rfl

/-- The second missing acknowledge of a tuner that no bulletin plays from (R56). -/
theorem linkNoAck_second {t : TunerId} {cmd : LinkCmd} {p : Part} (hlink : p.tuc.link = some (t, cmd))
    (hm : (p.tuner t).missed = 1) (hb : p.stm.bulletin.latch ≠ .prompted) :
    linkNoAck p = freeLink (enterFault t (p.setTuner t { p.tuner t with
      missed := 2, missedAcks := count16 (p.tuner t).missedAcks 1 })) := by
  unfold linkNoAck
  rw [hlink]
  dsimp only
  rw [hm]
  have hbul : (p.stm.bulletin.latch == .prompted) = false := by simpa using hb
  rw [if_neg (by decide), tunerFault]
  show freeLink (enterFault t (if (p.stm.bulletin.latch == .prompted && _) = true then _ else _)) = _
  rw [hbul]
  rfl

/-- Settles O37: the entry to FAULT (`enterFault_eq`), and the link freed. -/
theorem secondMissingAckIsATunerFault : Obligations.SecondMissingAckIsATunerFault := by
  intro t cmd p w hquiet hlink hm hs ho
  obtain ⟨m, hmeq⟩ : ∃ m, m = p.setTuner t { p.tuner t with
      missed := 2, missedAcks := count16 (p.tuner t).missedAcks 1 } := ⟨_, rfl⟩
  obtain ⟨zs, gs, e, hz, hc⟩ := enterFault_eq (t := t) (p := m) (by rw [hmeq]; exact hs) (by rw [hmeq]; exact ho)
  obtain ⟨l, u, el, hlu⟩ := startLink_only { (enterFault t m).tuc with link := none }
  obtain ⟨hlatch, -⟩ := quiet_iff.mp hquiet
  obtain ⟨f, hf⟩ : ∃ f, f = freeLink (enterFault t m) := ⟨_, rfl⟩
  have hfeq : f = { p with
      zmx := { p.zmx with zones := zs }
      tuc := { tuners := p.tuc.tuners.set t { (p.tuner t).faulted with
                 missed := 2, missedAcks := count16 (p.tuner t).missedAcks 1 }
               grants := gs, link := l, queue := u }
      stm := { p.stm with follow := p.stm.follow.set t (p.follow t).ended
                          scan := p.stm.scan.filter fun s => s.tuner != t }
      nfu := (p.nfu.post .tunerFault (tunerCode t) none).fault .tuner (some (tunerCode t)) none p.rif.ringTime } := by
    rw [hf, freeLink, el, e, hmeq]
    cases t <;> rfl
  have hq : f.quiet = true := by
    rw [hfeq]
    refine quiet_of hquiet rfl rfl rfl rfl (fun x c hx _ => ?_) (fun x => ?_)
    · change c ∈ ((p.tuc.tuners.set t _).get x).claims at hx
      rw [PerTuner.get_set] at hx
      split at hx
      · cases hx
      · exact hx
    · change (p.stm.follow.set t _).get x = _ ∨ ((p.stm.follow.set t _).get x).lowTimer = _
      rw [PerTuner.get_set]
      split
      · exact .inr rfl
      · exact .inl rfl
  have hrun : linkNoAck p = f := by rw [linkNoAck_second hlink hm hlatch, hf, hmeq]
  obtain ⟨rl, hrl⟩ := noteReports_eq p f
  refine ⟨noteReports p f, ?_, ?_⟩
  · show Host.Outcome.next (⟨noteReports p (stmSettle p (linkNoAck p)), w⟩ : State) = _
    rw [hrun, stmSettle_quiet hq]
  have hzones (z : ZoneId) (a : Claimant) (ha : claimantOf z = some a) (hm : ⟨a, false⟩ ∈ (p.tuner t).claims) :
      (zs.get z).att = none := by
    refine hc z ⟨a, false⟩ ?_ (zone_of_claimant ha).1
    rw [hmeq, Part.tuner_setTuner_self]
    exact hm
  have hgone (x : TunerId × LinkCmd) (hx : x ∈ l.toList ++ u) : x.1 ≠ t := by
    rw [hlu, e] at hx
    simpa using (List.mem_filter.mp hx).2
  have hother : (p.tuc.tuners.set t { (p.tuner t).faulted with
      missed := 2, missedAcks := count16 (p.tuner t).missedAcks 1 }).get t.other = p.tuner t.other := by
    cases t <;> rfl
  rw [hrl, hfeq]
  have hself : (p.tuc.tuners.set t { (p.tuner t).faulted with
      missed := 2, missedAcks := count16 (p.tuner t).missedAcks 1 }).get t = { (p.tuner t).faulted with
      missed := 2, missedAcks := count16 (p.tuner t).missedAcks 1 } := PerTuner.get_set_self ..
  exact ⟨congrArg Tuner.state hself, congrArg Tuner.claims hself, congrArg Tuner.missed hself,
    congrArg Tuner.missedAcks hself, congrArg Tuner.adapter hself, congrArg Tuner.retry hself,
    hgone, hother, hzones, rfl, rfl, rfl, rfl, rfl, rfl⟩

end Sys2Proof.Machine
end

section
/-! PROOFS. The scoring fields in force stay (R57), whatever the Station Manager's settling does to the tuners. -/

namespace Sys2Proof.Machine

/-- What the scoring fields in force rest on: the poisoned units, the errors that stand, and each tuner's fields. -/
def Part.inForce (p : Part) : List MemUnit × List Upset × PerTuner ScoreCfg :=
  (p.tst.poisoned, p.tst.latent, .of fun t => (p.tuner t).scoring)

theorem latent_of_inForce {p q : Part} (h : q.inForce = p.inForce) (hl : p.tst.latent = []) : q.tst.latent = [] :=
  (congrArg (·.2.1) h).trans hl

theorem scoring_of_inForce {p q : Part} (h : q.inForce = p.inForce) (u : TunerId) : q.scoring u = p.scoring u := by
  have hp : q.tst.poisoned = p.tst.poisoned := congrArg (·.1) h
  have hs : (q.tuner u).scoring = (p.tuner u).scoring := by
    simpa [Part.inForce] using congrArg (fun x => x.2.2.get u) h
  unfold Part.scoring Part.unitPoisoned
  rw [hp, hs]

/-! ### The operations on tuners, claims and zones -/

@[simp] theorem inForce_setZone (p : Part) (z : ZoneId) (r : Zone) : (p.setZone z r).inForce = p.inForce := rfl

@[simp] theorem inForce_setFollow (p : Part) (t : TunerId) (f : Follow) : (p.setFollow t f).inForce = p.inForce := rfl

@[simp] theorem inForce_post (p : Part) (k : NoticeKind) (i : Nat) (v : Option Nat) :
    (p.post k i v).inForce = p.inForce := rfl

@[simp] theorem inForce_updStation (p : Part) (i : Nat) (f : StationSlot → StationSlot) :
    (p.updStation i f).inForce = p.inForce := rfl

theorem inForce_setTuner {p : Part} {t : TunerId} {r : Tuner} (h : r.scoring = (p.tuner t).scoring) :
    (p.setTuner t r).inForce = p.inForce := by
  have hs : (PerTuner.of fun u => ((p.setTuner t r).tuner u).scoring) = PerTuner.of fun u => (p.tuner u).scoring := by
    apply PerTuner.ext_get
    intro u
    by_cases hu : u = t
    · subst hu; simp [h]
    · simp [hu]
  simp [Part.inForce, hs]

@[simp] theorem inForce_issue (t : TunerId) (cmd : LinkCmd) (p : Part) : (issue t cmd p).inForce = p.inForce := by
  unfold issue
  split
  · rfl
  · split
    · exact inForce_setTuner rfl
    · obtain ⟨l, u, e, -⟩ := startLink_only
        { p.tuc with queue := p.tuc.queue.filter (fun x => x.1 != t) ++ [(t, cmd)] }
      dsimp only
      rw [e]
      rfl

@[simp] theorem inForce_tuneStart (t : TunerId) (c : Chan) (note : Option ZoneId) (b : Bool) (p : Part) :
    (tuneStart t c note b p).inForce = p.inForce := by
  unfold tuneStart
  rw [inForce_issue]
  exact inForce_setTuner (p := p) rfl

@[simp] theorem inForce_dropClaim (w : Claimant) (t : TunerId) (p : Part) : (dropClaim w t p).inForce = p.inForce :=
  inForce_setTuner rfl

@[simp] theorem inForce_setClaims (t : TunerId) (cs : List Claim) (p : Part) : (setClaims t cs p).inForce = p.inForce :=
  inForce_setTuner rfl

@[simp] theorem inForce_idleTuner (t : TunerId) (p : Part) : (idleTuner t p).inForce = p.inForce := by
  unfold idleTuner
  rw [inForce_issue, inForce_setFollow]
  exact inForce_setTuner rfl

@[simp] theorem inForce_idleIfFree (t : TunerId) (p : Part) : (idleIfFree t p).inForce = p.inForce := by
  unfold idleIfFree
  split <;> simp

@[simp] theorem inForce_giveUp (w : Claimant) (p : Part) : (giveUp w p).inForce = p.inForce := by simp [giveUp]

@[simp] theorem inForce_detach (z : ZoneId) (p : Part) : (detach z p).inForce = p.inForce := by
  rw [detach_eq]
  rfl

@[simp] theorem inForce_attach (z : ZoneId) (t : TunerId) (u : Option TunerId) (p : Part) :
    (attach z t u p).inForce = p.inForce := rfl

@[simp] theorem inForce_leaveFade (p : Part) : (leaveFade p).inForce = p.inForce :=
  foldl_keeps _ _ _ _ fun q z => by split <;> simp

@[simp] theorem inForce_endScan (b : Bool) (p : Part) : (endScan b p).inForce = p.inForce := by
  unfold endScan
  split <;> rfl

@[simp] theorem inForce_displaceOwner (w : Claimant) (p : Part) : (displaceOwner w p).inForce = p.inForce := by
  unfold displaceOwner
  split
  · exact inForce_detach _ _
  · exact inForce_detach _ _
  · exact inForce_detach _ _
  · rfl
  · exact inForce_endScan _ _
  · rfl
  · rfl

/-- A change of the grants' order. -/
theorem inForce_grants (p : Part) (gs : List ZoneId) :
    ({ p with tuc := { p.tuc with grants := gs } } : Part).inForce = p.inForce := rfl

@[simp] theorem inForce_addClaim (w : Claimant) (t : TunerId) (p : Part) : (addClaim w t p).inForce = p.inForce := by
  obtain ⟨q, hq⟩ : ∃ q : Part, q = { p with tuc := { p.tuc with grants := grantsWith w p.tuc.grants } } := ⟨_, rfl⟩
  have heq : addClaim w t p = if w.listens && (setClaims t (⟨w, false⟩ :: (q.tuner t).claims) q).switching t then
      setClaims t.other (⟨w, true⟩ :: ((setClaims t (⟨w, false⟩ :: (q.tuner t).claims) q).tuner t.other).claims)
        (setClaims t (⟨w, false⟩ :: (q.tuner t).claims) q)
      else setClaims t (⟨w, false⟩ :: (q.tuner t).claims) q := by
    rw [hq]
    cases w <;> rfl
  have hsame : q.inForce = p.inForce := by rw [hq]; rfl
  rw [heq]
  split <;> simp [hsame]

@[simp] theorem inForce_stopTimer (t : TunerId) (p : Part) : (stopTimer t p).inForce = p.inForce := by
  unfold stopTimer
  split <;> rfl

/-! ### The operations that store a quality -/

theorem inForce_storeQuality {p : Part} (c : Chan) (n : Nat) (hl : p.tst.latent = []) :
    (storeQuality c n p).inForce = p.inForce := by
  unfold storeQuality
  rw [readHolder_clean c hl]
  dsimp only
  split <;> rfl

theorem inForce_abandonSwitch {p : Part} (t : TunerId) (hl : p.tst.latent = []) :
    (abandonSwitch t p).inForce = p.inForce := by
  unfold abandonSwitch
  split
  · refine (inForce_idleIfFree _ _).trans <| (inForce_setTuner (by rfl)).trans <|
      (inForce_setFollow _ _ _).trans <| (inForce_leaveFade _).trans ?_
    split
    · exact inForce_storeQuality _ _ hl
    · rfl
  · rfl

theorem inForce_withdraw {p : Part} (w : Claimant) (hl : p.tst.latent = []) : (withdraw w p).inForce = p.inForce := by
  have hfree {q : Part} (t : TunerId) (hq : q.tst.latent = []) :
      (if (q.tuner t).listened then q else abandonSwitch t q).inForce = q.inForce := by
    split
    · rfl
    · exact inForce_abandonSwitch t hq
  obtain ⟨d, hd⟩ : ∃ d, d = match w.zone? with
      | some z => detach z { dropClaim w .b (dropClaim w .a p) with
          tuc := { (dropClaim w .b (dropClaim w .a p)).tuc with
          grants := (dropClaim w .b (dropClaim w .a p)).tuc.grants.erase z } }
      | none => dropClaim w .b (dropClaim w .a p) := ⟨_, rfl⟩
  have hdrop : d.inForce = p.inForce := by
    have hboth : (dropClaim w .b (dropClaim w .a p)).inForce = p.inForce := by simp
    rw [hd]
    split
    · rw [inForce_detach]
      exact hboth
    · exact hboth
  have ha := hfree .a (latent_of_inForce hdrop hl)
  have hb := hfree .b (latent_of_inForce (ha.trans hdrop) hl)
  have heq : withdraw w p = idleIfFree .b (idleIfFree .a _) := rfl
  rw [heq, inForce_idleIfFree, inForce_idleIfFree]
  rw [hd] at ha hb hdrop
  exact hb.trans (ha.trans hdrop)

theorem inForce_displaceAll {p : Part} (t : TunerId) (hl : p.tst.latent = []) :
    (displaceAll t p).inForce = p.inForce := by
  have ha := inForce_abandonSwitch t hl
  have hb := inForce_abandonSwitch t.other (latent_of_inForce ha hl)
  unfold displaceAll
  dsimp only
  rw [foldl_keeps _ _ _ Part.inForce fun q (c : Claim) => inForce_displaceOwner c.who q, inForce_setFollow,
    inForce_grants,
    inForce_setTuner (by rfl)]
  exact hb.trans ha

theorem inForce_grant {p : Part} (w : Claimant) (c : Chan) (t : TunerId) (shared : Bool) (hl : p.tst.latent = []) :
    (grant w c t shared p).inForce = p.inForce := by
  have hplace : (if shared then p else displaceAll t p).inForce = p.inForce := by
    split
    · rfl
    · exact inForce_displaceAll t hl
  have hattach (q : Part) : (match w.zone? with
      | some z => attach z t (if (q.follow t).state == FollowState.switchFade then some t.other else none) q
      | none => q).inForce = q.inForce := by
    split <;> simp
  have hclaim := (inForce_addClaim w t (if shared then p else displaceAll t p)).trans hplace
  unfold grant
  cases shared with
  | true => exact (hattach _).trans hclaim
  | false => exact (inForce_tuneStart ..).trans ((hattach _).trans hclaim)

/-! ### What the Station Manager keeps up -/

theorem inForce_keepBackground {p : Part} (hl : p.tst.latent = []) : (keepBackground p).inForce = p.inForce := by
  unfold keepBackground
  split
  · split
    · rfl
    · exact inForce_withdraw _ hl
  · split
    · split
      · rfl
      · rw [readVisit_clean _ hl]
        dsimp only
        split
        · rfl
        · exact inForce_grant _ _ _ _ hl
    · rfl

theorem inForce_askWatch {p : Part} (hl : p.tst.latent = []) : (askWatch p).inForce = p.inForce := by
  unfold askWatch
  split
  · rfl
  · rw [checkStation_clean _ hl]
    dsimp only
    split
    · split
      · rfl
      · split
        · rfl
        · split
          · exact inForce_grant _ _ _ _ hl
          · rfl
    · rfl

@[simp] theorem inForce_judgeWatch (p : Part) : (judgeWatch p).inForce = p.inForce := by
  unfold judgeWatch watchNotice
  dsimp only
  split <;> rfl

@[simp] theorem inForce_dropWatch (p : Part) : (dropWatch p).inForce = p.inForce := by
  unfold dropWatch
  split <;> simp

theorem inForce_keepWatch {p : Part} (ask : Bool) (hl : p.tst.latent = []) : (keepWatch ask p).inForce = p.inForce := by
  have hjudge : (judgeWatch (dropWatch p)).inForce = p.inForce := by simp
  have hask := (inForce_askWatch (latent_of_inForce hjudge hl)).trans hjudge
  unfold keepWatch
  rw [readWatched_clean hl]
  dsimp only
  split
  · split
    · exact hask
    · rw [inForce_judgeWatch]
      exact hask
  · exact hjudge

theorem inForce_keepRounds (n : Nat) (ask : Bool) {p : Part} (hl : p.tst.latent = []) :
    (keepRounds n ask p).inForce = p.inForce := by
  induction n generalizing ask p with
  | zero => rfl
  | succ n ih =>
    have hwatch := inForce_keepWatch ask hl
    have hback := (inForce_keepBackground (latent_of_inForce hwatch hl)).trans hwatch
    unfold keepRounds
    dsimp only
    split
    · exact hback
    · exact (ih _ (latent_of_inForce hback hl)).trans hback

theorem inForce_endBulletin {p : Part} (hl : p.tst.latent = []) : (endBulletin p).inForce = p.inForce := by
  have hremove : (removePrompt p.stm.bulletin.tag p).inForce = p.inForce := by
    unfold removePrompt
    split <;> rfl
  unfold endBulletin
  dsimp only
  split
  · rw [inForce_withdraw]
    · exact hremove
    · exact latent_of_inForce (p := p) hremove hl
  · rfl

/-- The Station Manager's settling leaves the scoring fields in force (R57; log entry 68). -/
theorem inForce_stmSettle {p : Part} (before : Part) (hl : p.tst.latent = []) :
    (stmSettle before p).inForce = p.inForce := by
  have hend : (if p.stm.bulletin.latch == .prompted && !p.radioCfg.bulletins then endBulletin p else p).inForce
      = p.inForce := by
    split
    · exact inForce_endBulletin hl
    · rfl
  unfold stmSettle
  rw [readKept_clean hl]
  dsimp only
  rw [inForce_stopTimer, inForce_stopTimer, keepClaims, inForce_keepRounds _ _ (latent_of_inForce hend hl), hend]

end Sys2Proof.Machine
end

section
/-! PROOFS. Tunes complete, and link commands are acknowledged or sent again (O35). -/

namespace Sys2Proof.Machine

/-! ### The scoring fields through a write and a clear of RADIO_CFG -/

/-- A request leaves the part as it is, or as its owner leaves it, but for the reply. -/
theorem ringRequest_induct {C : Part → Prop} {kind len : Nat} {h : ReqHeader} {clear : Bool} {owner : Part → Answer}
    {p : Part} (hp : ∀ r, C { p with rif := r }) (ho : ∀ r, C { (owner p).part with rif := r }) :
    C (ringRequest kind len h clear owner p) := by
  have hsaved {a : Answer} {x : Result} {b : List Byte} (ha : ∀ r, C { a.part with rif := r }) :
      C (holdReply kind h x b (saveReply kind h a)) := by
    unfold holdReply saveReply
    split <;> exact ha _
  unfold ringRequest
  split
  · exact hp p.rif
  · obtain ⟨-, e⟩ | ⟨-, x, -, e⟩ | ⟨-, -, r, -, e⟩ | ⟨-, -, -, e⟩ :=
      takeRequest_cases kind h (ringChecks kind len h.source clear) owner p <;> rw [e]
    · exact hp _
    · exact hp _
    · exact hsaved (a := { result := r, part := p }) hp
    · exact hsaved ho

/-- The scoring fields in force stay where each tuner takes them and RADIO_CFG is not newly poisoned (R57). -/
theorem scoring_kept {p q : Part} (hs : ∀ u, (q.tuner u).scoring = p.scoring u)
    (hp : ∀ x ∈ q.tst.poisoned, x ∈ p.tst.poisoned) (u : TunerId) : q.scoring u = p.scoring u := by
  unfold Part.scoring Part.unitPoisoned at *
  by_cases hq : q.tst.poisoned.contains ⟨tblRadio, 0, 0⟩ = true
  · have hmem := hp _ (by simpa using hq)
    rw [if_pos hq, if_pos (by simpa using hmem)]
  · rw [if_neg hq, hs u]

theorem readdress_scoring (old : PerTuner (Option Nat)) (p : Part) :
    (∀ u, ((TunerId.all.foldl (readdress old) p).tuner u).scoring = (p.tuner u).scoring)
      ∧ (TunerId.all.foldl (readdress old) p).tst = p.tst := by
  obtain ⟨tu, e, hkeep, -⟩ := readdress_only old p .a
  obtain ⟨tv, e', hkeep', -⟩ := readdress_only old { p with tuc := tu } .b
  have hall : TunerId.all.foldl (readdress old) p = { p with tuc := tv } := by
    show readdress old (readdress old p .a) .b = _
    rw [e, e']
  rw [hall]
  refine ⟨fun u => ?_, rfl⟩
  obtain ⟨-, -, h1, -⟩ := hkeep u
  obtain ⟨-, -, h2, -⟩ := hkeep' u
  exact h2.trans h1

/-- What an owner of RADIO_CFG leaves: refused, nothing has changed; taken, each tuner has the scoring fields that were
in force (R57). -/
def KeepsForce (p : Part) (x : Result × Part) : Prop :=
  x.2 = p ∧ x.1 ≠ .ok ∨ x.1 = .ok ∧ (∀ u, (x.2.tuner u).scoring = p.scoring u)
    ∧ x.2.tst.poisoned = p.tst.poisoned ∧ x.2.tst.latent = p.tst.latent

theorem keepsForce_readdress (old : PerTuner (Option Nat)) (c : RadioCfg) (p : Part) :
    KeepsForce p (.ok, TunerId.all.foldl (readdress old)
      { keepScoring p with tst := { (keepScoring p).tst with radio := c } }) := by
  obtain ⟨hs, ht⟩ := readdress_scoring old { keepScoring p with tst := { (keepScoring p).tst with radio := c } }
  have hpo := congrArg Store.poisoned ht
  have hla := congrArg Store.latent ht
  refine .inr ⟨rfl, fun u => ?_, hpo, hla⟩
  exact (hs u).trans (by cases u <;> rfl)

theorem writeRadio_keepsForce (fs : Fields) (p : Part) : KeepsForce p (writeRadio fs p) := by
  unfold writeRadio
  dsimp only
  split
  · refine .inl ⟨rfl, ?_⟩
    dsimp only
    split <;> decide
  · split
    · exact .inl ⟨rfl, by exact nofun⟩
    · split
      · exact keepsForce_readdress _ _ p
      · exact .inl ⟨rfl, by exact nofun⟩

theorem clearRadio_keepsForce (p : Part) : KeepsForce p (clearRadio p) := by
  unfold clearRadio
  split
  · exact .inl ⟨rfl, by exact nofun⟩
  · exact keepsForce_readdress _ _ p

theorem tableWrite_scoring {p : Part} (mask : Nat) (values : List Byte) (hl : p.tst.latent = []) :
    (∀ u, (tableWrite 9 0 mask values p).2.scoring u = p.scoring u) ∧ (tableWrite 9 0 mask values p).2.tst.latent
      = [] := by
  have htaken (fs : Fields) : (∀ u, (takeWrite 9 0 mask fs p).2.scoring u = p.scoring u)
      ∧ (takeWrite 9 0 mask fs p).2.tst.latent = [] := by
    have heq : takeWrite 9 0 mask fs p = if (writeRadio fs p).1 == .ok then
        (.ok, if fullMask 9 mask then cleanEntry 9 0 (writeRadio fs p).2 else (writeRadio fs p).2)
        else writeRadio fs p := rfl
    rw [heq]
    obtain ⟨hp, hr⟩ | ⟨hok, hs, hpo, hla⟩ := writeRadio_keepsForce fs p
    · rw [if_neg (by simpa using hr), hp]
      exact ⟨fun _ => rfl, hl⟩
    · rw [if_pos (by simpa using hok)]
      dsimp only
      split
      · refine ⟨scoring_kept hs fun x hx => ?_, by simp [cleanEntry, hla, hl]⟩
        exact hpo ▸ (List.mem_filter.mp hx).1
      · exact ⟨scoring_kept hs fun x hx => hpo ▸ hx, hla.trans hl⟩
  have hmerged (fs : Fields) : (∀ u, (mergeWrite 9 0 mask fs p).2.scoring u = p.scoring u)
      ∧ (mergeWrite 9 0 mask fs p).2.tst.latent = [] := by
    have heq : mergeWrite 9 0 mask fs p
        = if (9 != tblCurves && p.poisonPending 9 0) then (.badEntry, mergeCheck 9 0 mask p)
        else takeWrite 9 0 mask fs (mergeCheck 9 0 mask p) := rfl
    have hcheck : mergeCheck 9 0 mask p = p := checkEntry_clean 9 0 hl
    rw [heq, hcheck]
    split
    · exact ⟨fun _ => rfl, hl⟩
    · exact htaken fs
  have hsame : (∀ u, p.scoring u = p.scoring u) ∧ p.tst.latent = [] := ⟨fun _ => rfl, hl⟩
  unfold tableWrite
  rw [show directory[9]? = some 1 from rfl]
  dsimp only
  rw [if_neg (by decide), if_neg (by decide)]
  split
  · exact hsame
  · split
    · exact hsame
    · split
      · rw [readReplaced_clean _ _ hl]
        exact htaken _
      · split
        · exact hsame
        · exact hmerged _

theorem tableClear_scoring {p : Part} (hl : p.tst.latent = []) :
    (∀ u, (tableClear 9 p).2.scoring u = p.scoring u) ∧ (tableClear 9 p).2.tst.latent = [] := by
  have hcontents : clearContents 9 p = clearRadio p := by unfold clearContents; rfl
  obtain ⟨q, hq⟩ : ∃ q, q = clearRadio p := ⟨_, rfl⟩
  obtain ⟨hp, hr⟩ | ⟨hok, hs, hpo, hla⟩ := hq ▸ clearRadio_keepsForce p
  · rw [tableClear_refused (by decide) hr (by rw [hcontents, ← hq, ← hp])]
    exact ⟨fun _ => rfl, hl⟩
  · rw [tableClear_ok (q := q.2) (by decide) (by rw [hcontents, ← hq, ← hok])]
    refine ⟨scoring_kept hs fun x hx => ?_, ?_⟩
    · exact hpo ▸ (List.mem_filter.mp hx).1
    · show List.filter _ _ = []
      rw [hla, hl]
      rfl

/-- A request of RADIO_CFG's owner, settled, keeps the scoring fields in force (R57). -/
theorem ringRequest_scoring {kind len : Nat} {h : ReqHeader} {clear : Bool} {f : Part → Result × Part} {p : Part}
    (hf : (∀ u, (f p).2.scoring u = p.scoring u) ∧ (f p).2.tst.latent = []) (u : TunerId) :
    (ringRequest kind len h clear (settling f) p).scoring u = p.scoring u := by
  obtain ⟨hs, hl⟩ := hf
  refine ringRequest_induct (C := fun q => q.scoring u = p.scoring u) (fun _ => rfl) fun r => ?_
  have hsettled : (settling f p).part = noteReports p (stmSettle p (f p).2) := rfl
  have hforce := (scoring_of_inForce (inForce_stmSettle p hl) u).trans (hs u)
  rw [hsettled]
  generalize stmSettle p (f p).2 = s at hforce ⊢
  obtain ⟨rl, hrl⟩ := noteReports_eq p s
  rw [hrl]
  exact hforce

/-! ### A tune completes -/

/-- The tuner's record as its tune completes (R59). -/
def Tuner.tuned (r : Tuner) : Tuner := { r with settle := false, done := true, state := .playing, note := none }

/-- The completion of a tune that is noted for a zone posts TUNE_DONE (R59). -/
theorem completeTune_noted {t : TunerId} {z : ZoneId} {c : Chan} {p : Part} (hs : (p.tuner t).state = .tuning)
    (hk : (p.tuner t).seek = none) (hn : (p.tuner t).note = some z) (hc : (p.tuner t).chan = some c) :
    completeTune t p = (p.setTuner t (p.tuner t).tuned).post .tuneDone (zoneCode z) (some c.freq) := by
  obtain ⟨q, hq⟩ : ∃ q, q = p.setTuner t { p.tuner t with settle := false, done := true } := ⟨_, rfl⟩
  have hr : q.tuner t = { p.tuner t with settle := false, done := true } := by rw [hq]; simp
  have hdone : completed t q = (q.setTuner t { q.tuner t with state := .playing, note := none }).post .tuneDone
      (zoneCode z) (some c.freq) := by
    unfold completed
    dsimp only
    rw [show (q.tuner t).state = .tuning by rw [hr]; exact hs, show (q.tuner t).seek = none by rw [hr]; exact hk]
    dsimp only
    rw [show (q.tuner t).note = some z by rw [hr]; exact hn, show (q.tuner t).chan = some c by rw [hr]; exact hc]
  rw [completeTune, ← hq, hdone, hr, hq]
  cases t <;> rfl

/-- A tune that has completed keeps the Station Manager quiet. -/
theorem quiet_setTuner {p : Part} {t : TunerId} {r : Tuner} {n : Nfu} (h : p.quiet = true)
    (hc : r.claims = (p.tuner t).claims) : ({ p.setTuner t r with nfu := n } : Part).quiet = true := by
  refine quiet_of h rfl rfl rfl rfl (fun x k hk _ => ?_) fun x => .inl rfl
  change k ∈ ((p.tuc.tuners.set t r).get x).claims at hk
  rw [PerTuner.get_set] at hk
  split at hk
  · subst_vars
    rwa [hc] at hk
  · exact hk

/-- An event that writes one tuner's record and posts a notice, in a quiet part: nothing more follows. -/
theorem settle_quiet {f : Part → Part} {p q : Part} (hf : f p = q) (hq : q.quiet = true)
    (h : reportView p = reportView q) :
    settle f p = q := by
  rw [settle, hf, stmSettle_quiet hq, noteReports_same fun r => congrFun h r]

/-- A tune that completes by an event which first gives the tuner the record `r`: the outcome of the event. -/
theorem settle_tuned {f : Part → Part} {t : TunerId} {z : ZoneId} {c : Chan} {r : Tuner} {p : Part}
    (hq : p.quiet = true) (hf : f p = completeTune t (p.setTuner t r)) (hcl : r.claims = (p.tuner t).claims)
    (hs : r.state = .tuning) (hk : r.seek = none) (hn : r.note = some z) (hc : r.chan = some c) :
    settle f p = (p.setTuner t r.tuned).post .tuneDone (zoneCode z) (some c.freq) := by
  refine settle_quiet ?_ (quiet_setTuner hq hcl) rfl
  rw [hf, completeTune_noted (z := z) (c := c) (by simp [hs]) (by simp [hk]) (by simp [hn]) (by simp [hc])]
  cases t <;> rfl

/-! ### The link -/

theorem startLink_empty {c : Tuc} (h : c.queue = []) : startLink c = c := by
  unfold startLink
  rw [h]
  cases c.link <;> rfl

/-- The acknowledge of a TUNE with no command waiting (R55, R59). -/
theorem linkAck_tune {t : TunerId} {c : Chan} {p : Part} (h1 : p.tuc.link = some (t, .tune c)) (h2 : p.tuc.queue = [])
    (hw : (p.tuner t).working = true) (hc : (p.tuner t).chan = some c) (hd : (p.tuner t).done = false) :
    linkAck p = { p with tuc := { p.tuc with
      link := none
      tuners := p.tuc.tuners.set t { p.tuner t with missed := 0, acked := true, settle := true } } } := by
  obtain ⟨q, hq⟩ : ∃ q, q = p.setTuner t { p.tuner t with missed := 0 } := ⟨_, rfl⟩
  have hr : q.tuner t = { p.tuner t with missed := 0 } := by rw [hq]; simp
  have hcond : ((q.tuner t).working && (q.tuner t).chan == some c && !(q.tuner t).done
      && !(q.tuc.queue.any fun x => x.1 == t)) = true := by
    rw [hr, show q.tuc.queue = [] by rw [hq]; exact h2,
      show ({ p.tuner t with missed := 0 } : Tuner).working = true from hw]
    simp [hc, hd]
  have hack : ackTune t (.tune c) q = q.setTuner t { q.tuner t with acked := true, settle := true } := by
    unfold ackTune
    dsimp only
    rw [if_pos hcond]
  have hfree (m : Part) (hm : m.tuc.queue = []) : freeLink m = { m with tuc := { m.tuc with link := none } } := by
    rw [freeLink, startLink_empty (by exact hm)]
  rw [linkAck, h1]
  dsimp only
  rw [← hq, hack, hfree _ (by rw [hq]; exact h2), hr, hq]
  cases t <;> rfl

/-- The first missing acknowledge: the tuner waits to resend its command, or the newer one that waited (R56). -/
theorem exec_linkNoAck_first {t : TunerId} {cmd next : LinkCmd} {p : Part} (w : List Instr) (hq : p.quiet = true)
    (h1 : p.tuc.link = some (t, cmd)) (hm : (p.tuner t).missed = 0)
    (hnext : ((p.tuc.queue.find? fun x => x.1 == t).map (·.2)).getD cmd = next)
    (hrest : (p.tuc.queue.filter fun x => x.1 != t) = []) :
    exec .linkNoAck ⟨p, w⟩ = .next ⟨{ p with tuc := { p.tuc with
      link := none
      queue := p.tuc.queue.filter fun x => x.1 != t
      tuners := p.tuc.tuners.set t { p.tuner t with
        missed := 1, missedAcks := count16 (p.tuner t).missedAcks 1, retry := some next } } }, w⟩ := by
  obtain ⟨q, hqeq⟩ : ∃ q : Part, q = { p with tuc := { p.tuc with
      link := none
      queue := p.tuc.queue.filter fun x => x.1 != t
      tuners := p.tuc.tuners.set t { p.tuner t with
        missed := 1, missedAcks := count16 (p.tuner t).missedAcks 1, retry := some next } } } := ⟨_, rfl⟩
  have hrun : linkNoAck p = q := by
    unfold linkNoAck
    rw [h1]
    dsimp only
    rw [if_pos hm, hm]
    have hnext' : ((p.setTuner t { p.tuner t with
        missed := min 2 (0 + 1), missedAcks := count16 (p.tuner t).missedAcks 1 }).tuc.queue.find? fun x =>
          x.1 == t).map
          (·.2) = (p.tuc.queue.find? fun x => x.1 == t).map (·.2) := rfl
    rw [hnext', hnext, freeLink, startLink_empty (by exact hrest), hqeq]
    cases t <;> rfl
  have hquiet : q.quiet = true := by
    rw [hqeq]
    exact quiet_setTuner (t := t) (n := p.nfu) hq rfl
  have hview : reportView p = reportView q := by rw [hqeq]; rfl
  rw [← hqeq]
  exact congrArg (fun q => Host.Outcome.next (⟨q, w⟩ : State)) (settle_quiet hrun hquiet hview)

/-- The resent command goes on the free link (R56). -/
theorem ackRetryWaitExpiry_resends {t : TunerId} {cmd : LinkCmd} {p : Part} (hre : (p.tuner t).retry = some cmd)
    (hr : p.running = true) (ha : p.hasAddress t = true) (hf : (p.tuner t).state ≠ .fault) (h1 : p.tuc.link = none)
    (h2 : p.tuc.queue = []) : ackRetryWaitExpiry t p = { p with tuc := { p.tuc with
      link := some (t, cmd), tuners := p.tuc.tuners.set t { p.tuner t with retry := none } } } := by
  obtain ⟨q, hq⟩ : ∃ q, q = p.setTuner t { p.tuner t with retry := none } := ⟨_, rfl⟩
  have hqt : q.tuner t = { p.tuner t with retry := none } := by rw [hq]; simp
  have hissue := issue_free (t := t) (cmd := cmd) (p := q) (by rw [hq]; exact ha) (by rw [hqt]; exact hf) (by rw [hqt])
    (by rw [hq]; exact h1) (by rw [hq]; exact h2)
  have hempty : ({ q with tuc := { q.tuc with link := some (t, cmd), queue := [] } } : Part)
      = { q with tuc := { q.tuc with link := some (t, cmd), queue := p.tuc.queue } } := by rw [h2]
  rw [ackRetryWaitExpiry, hre]
  dsimp only
  rw [if_pos hr, ← hq, hissue, hempty, hq]
  rfl

/-- Settles O35. -/
theorem tunesAreAckedAndComplete : Obligations.TunesAreAckedAndComplete := by
  refine ⟨fun t z c fs mp adj pilot p w hq hl hr hs hd hk hn hc haf => ⟨fun ha => ?report, fun hset => ?timeout,
    fun hset => ?none, fun h mask values => ⟨?write, ?clear⟩⟩, fun t c cmd p w =>
    ⟨fun h => ?free, fun h1 h2 hw hc hd => ?ack, fun h1 h2 hq hm => ?noAck, fun new h1 h2 hq hm => ?noAckNewer,
      fun hre hr ha hf h1 h2 => ?retry, fun hre => ?noRetry⟩⟩
  case report =>
    have hw : (p.tuner t).working = true := by simp [Tuner.working, hs]
    have hrun : qualityReport t fs mp adj true pilot p
        = completeTune t (p.setTuner t (reported t fs mp adj pilot p)) := by
      obtain ⟨m, hm⟩ : ∃ m, m = p.setTuner t (reported t fs mp adj pilot p) := ⟨_, rfl⟩
      have hmt : m.tuner t = reported t fs mp adj pilot p := by rw [hm]; simp
      have htake : takeScores t true m = completeTune t m := by
        rw [takeScores, hmt, if_neg (by simpa [Tuner.scored] using hd), if_pos rfl]
      rw [qualityReport_applied fs mp adj true pilot hl hw ha, ← hm, htake]
      have hcomp := completeTune_noted (z := z) (c := c) (p := m) (by rw [hmt]; exact hs) (by rw [hmt]; exact hk)
        (by rw [hmt]; exact hn) (by rw [hmt]; exact hc)
      obtain ⟨-, -, -, -, -, -, hlow⟩ := quiet_iff.mp hq
      rw [hcomp, hm]
      exact watchQuality_idle hl (not_eligible (.inl haf)) (hlow t)
    have hres := settle_tuned (f := qualityReport t fs mp adj true pilot) hq hrun rfl hs hk hn hc
    refine ⟨_, congrArg (fun q => Host.Outcome.next (⟨q, w⟩ : State)) hres, ?_⟩
    have hself (r : Tuner) (k : NoticeKind) (i : Nat) (v : Option Nat) : ((p.setTuner t r).post k i v).tuner t = r :=
      PerTuner.get_set_self ..
    rw [hself]
    exact ⟨rfl, rfl, rfl, rfl, hc, rfl, rfl, rfl, rfl⟩
  case timeout =>
    have hrun : settleTimeout t p = completeTune t (p.setTuner t (timedOut t p)) := by
      simp only [settleTimeout, hr, hset, Bool.and_self, if_true, ownerReads_clean _ hl]
      rfl
    have hres := settle_tuned (f := settleTimeout t) hq hrun rfl hs hk hn hc
    refine ⟨_, congrArg (fun q => Host.Outcome.next (⟨q, w⟩ : State)) hres, ?_⟩
    have hself (r : Tuner) (k : NoticeKind) (i : Nat) (v : Option Nat) : ((p.setTuner t r).post k i v).tuner t = r :=
      PerTuner.get_set_self ..
    rw [hself]
    exact ⟨rfl, rfl, rfl, rfl, rfl, rfl, rfl, rfl, rfl, rfl, rfl, rfl⟩
  case none =>
    rw [exec_settleTimeout, settle_quiet (f := settleTimeout t) (by simp [settleTimeout, hset]) hq rfl]
  case write =>
    exact ⟨_, rfl, ringRequest_scoring (f := tableWrite 9 0 mask values) (tableWrite_scoring mask values hl)⟩
  case clear =>
    exact ⟨_, rfl, ringRequest_scoring (f := tableClear 9) (tableClear_scoring hl)⟩
  case free =>
    show Host.Outcome.next (⟨linkAck p, w⟩ : State) = _
    rw [linkAck, h]
  case ack =>
    show Host.Outcome.next (⟨linkAck p, w⟩ : State) = _
    rw [linkAck_tune h1 h2 hw hc hd]
  case noAck =>
    have hrest : (p.tuc.queue.filter fun x => x.1 != t) = p.tuc.queue := by rw [h2]; rfl
    rw [exec_linkNoAck_first (next := cmd) w hq h1 hm (by rw [h2]; rfl) (by rw [h2]; rfl), hrest]
    rfl
  case noAckNewer =>
    have hfind : ((p.tuc.queue.find? fun x => x.1 == t).map (·.2)).getD cmd = new := by rw [h2]; simp
    have hrest : (p.tuc.queue.filter fun x => x.1 != t) = [] := by rw [h2]; simp
    rw [exec_linkNoAck_first (next := new) w hq h1 hm hfind hrest, hrest]
    rfl
  case retry =>
    exact congrArg (fun q => Host.Outcome.next (⟨q, w⟩ : State)) (ackRetryWaitExpiry_resends hre hr ha hf h1 h2)
  case noRetry =>
    show Host.Outcome.next (⟨ackRetryWaitExpiry t p, w⟩ : State) = _
    rw [ackRetryWaitExpiry, hre]

end Sys2Proof.Machine
end

section
/-! PROOFS. What frequency following does to the zones, the stations and a tuner that it tunes (R85, R89 to R91). -/

namespace Sys2Proof.Machine

/-! ### Zones changed one after the other -/

/-- Each zone of a list changed by a function of the zone and its record. -/
theorem foldl_setZone (f : ZoneId → Zone → Zone) {l : List ZoneId} (hl : l.Nodup) (p : Part) :
    l.foldl (fun q z => q.setZone z (f z (q.zone z))) p = { p with zmx := { p.zmx with
      zones := .of fun z => if z ∈ l then f z (p.zone z) else p.zone z } } := by
  induction l generalizing p with
  | nil => rfl
  | cons a l ih =>
    obtain ⟨hal, hl'⟩ := List.nodup_cons.mp hl
    rw [List.foldl_cons, ih hl']
    have hzones : (PerZone.of fun z => if z ∈ l then f z ((p.setZone a (f a (p.zone a))).zone z)
        else (p.setZone a (f a (p.zone a))).zone z) = .of fun z => if z ∈ a :: l then f z (p.zone z) else p.zone z := by
      apply PerZone.ext_get
      intro z
      rw [PerZone.get_of, PerZone.get_of]
      by_cases hz : z = a
      · subst hz
        simp [hal]
      · simp [hz]
    rw [hzones]
    rfl

/-- The same where the zones are chosen by their records. -/
theorem foldl_setZone_if (c : ZoneId → Zone → Bool) (f : ZoneId → Zone → Zone) {l : List ZoneId}
    (hl : l.Nodup) (p : Part) :
    l.foldl (fun q z => if c z (q.zone z) then q.setZone z (f z (q.zone z)) else q) p = { p with zmx := { p.zmx with
      zones := .of fun z => if z ∈ l ∧ c z (p.zone z) = true then f z (p.zone z) else p.zone z } } := by
  have hstep : (fun (q : Part) z => if c z (q.zone z) then q.setZone z (f z (q.zone z)) else q)
      = fun q z => q.setZone z (if c z (q.zone z) then f z (q.zone z) else q.zone z) := by
    funext q z
    split <;> simp
  rw [hstep, foldl_setZone (fun z r => if c z r then f z r else r) hl]
  have hzones : (PerZone.of fun z => if z ∈ l then (if c z (p.zone z) then f z (p.zone z) else p.zone z) else p.zone z)
      = .of fun z => if z ∈ l ∧ c z (p.zone z) = true then f z (p.zone z) else p.zone z := by
    apply PerZone.ext_get
    intro z
    rw [PerZone.get_of, PerZone.get_of]
    by_cases hz : z ∈ l <;> simp [hz]
  rw [hzones]

/-- The crossfade of a switch ends (R90). -/
theorem leaveFade_eq (p : Part) : leaveFade p = { p with
    zmx := { p.zmx with
      zones := .of fun z => if z.follows = true ∧ (p.zone z).state = .off then p.zone z
        else { p.zone z with att2 := none } } } := by
  have hstep : (fun (q : Part) (z : ZoneId) => if z.follows && (q.zone z).state == .off then q
      else q.setZone z { q.zone z with att2 := none })
      = fun q z => q.setZone z (if z.follows && (q.zone z).state == .off then q.zone z
          else { q.zone z with att2 := none }) := by
    funext q z
    split <;> simp
  have hall (z : ZoneId) : z ∈ ZoneId.all := by cases z <;> decide
  unfold leaveFade
  rw [hstep, foldl_setZone (fun z r => if z.follows && r.state == .off then r else { r with att2 := none }) (by decide)]
  simp only [hall, if_true, Bool.and_eq_true, beq_iff_eq]

/-- The zones of a tuner take a channel, and nothing else changes (R90, R91). -/
theorem zonesTune_eq (t : TunerId) (c : Chan) (p : Part) : zonesTune t c p = { p with zmx := { p.zmx with
    zones := .of fun z => if z ∈ p.zonesOn t then { p.zone z with chan := some c } else p.zone z } } :=
  foldl_setZone (fun _ r => { r with chan := some c }) (List.Nodup.filter _ (by decide)) p

/-- The zones of a tuner have their readiness held, and nothing else changes (R19, R91). -/
theorem holdZones_eq (t : TunerId) (p : Part) : holdZones t p = { p with zmx := { p.zmx with
    zones := .of fun z => if z ∈ [ZoneId.front, .hpLeft, .hpRight] ∧ ((p.zone z).att == some t) = true then
      { p.zone z with held := some ((p.zone z).held.getD (p.tunerReady t)) } else p.zone z } } :=
  foldl_setZone_if (fun _ r => r.att == some t) (fun _ r => { r with held := some (r.held.getD (p.tunerReady t)) })
    (by decide) p

/-- A zone listens by the claims alone (R78). -/
theorem listening_of_claims {p q : Part} (h : ∀ u, (q.tuner u).claims = (p.tuner u).claims) (z : ZoneId) :
    q.listening z = p.listening z := by
  unfold Part.listening Part.holding
  simp only [h]

/-- One tuner's record changed with its claims as they were. -/
theorem claims_setTuner {p : Part} {t : TunerId} {r : Tuner} (h : r.claims = (p.tuner t).claims) (u : TunerId) :
    ((p.tuc.tuners.set t r).get u).claims = (p.tuner u).claims := by
  rw [PerTuner.get_set]
  split
  · subst_vars
    exact h
  · rfl

theorem mem_zonesOn {p : Part} {t : TunerId} {z : ZoneId} :
    z ∈ p.zonesOn t ↔ z.ownSource = true ∧ (p.zone z).att = some t ∧ p.listening z = true := by
  unfold Part.zonesOn
  cases z <;> simp [ZoneId.ownSource]

/-! ### A quality stored -/

theorem storeQuality_only {p : Part} (c : Chan) (n : Nat) (hl : p.tst.latent = []) :
    ∃ st, storeQuality c n p = { p with tst := { p.tst with stations := st } } := by
  unfold storeQuality
  rw [readHolder_clean c hl]
  dsimp only
  split
  · exact ⟨_, rfl⟩
  · exact ⟨_, rfl⟩

/-- Of an index what frequency following looks for in it: its code, its band and its frequencies. -/
def StationSlot.shape (s : StationSlot) : Option (Nat × Band × List Nat) :=
  s.entry.map fun e => (e.code, e.band, e.items.map fun i => i.freq)

/-- The qualities of an entry's items changed leave its shape. -/
theorem shape_storeQuality {p : Part} (c : Chan) (n : Nat) (hl : p.tst.latent = []) :
    (storeQuality c n p).tst.stations.map StationSlot.shape = p.tst.stations.map StationSlot.shape := by
  have hupd (l : List StationSlot) (i : Nat) (f : StationSlot → StationSlot) (hf : ∀ s, (f s).shape = s.shape) :
      (updAt l i f).map StationSlot.shape = l.map StationSlot.shape := by
    apply List.ext_getElem?
    intro j
    rw [updAt, List.getElem?_map, List.getElem?_map, List.getElem?_modify]
    cases l[j]? with
    | none => rfl
    | some s => by_cases hj : i = j <;> simp [hj, hf]
  unfold storeQuality
  rw [readHolder_clean c hl]
  dsimp only
  split
  · rfl
  · refine hupd _ _ _ fun s => ?_
    cases he : s.entry with
    | none => simp [StationSlot.shape, he]
    | some e =>
      simp only [StationSlot.shape, he, Option.map_some, List.map_map, Option.some.injEq, Prod.mk.injEq, true_and]
      refine List.map_congr_left fun it _ => ?_
      show (if it.freq == c.freq then _ else it).freq = it.freq
      split <;> rfl

/-- The index of a code by the shapes. -/
theorem indexOfCode_of_shape {p q : Part}
    (h : q.tst.stations.map StationSlot.shape = p.tst.stations.map StationSlot.shape)
    (k : Nat) : q.indexOfCode k = p.indexOfCode k := by
  have hshape (r : Part) : r.indexOfCode k = (r.tst.stations.map StationSlot.shape).findIdx? fun s =>
    s.any (·.1 == k) := by
    rw [List.findIdx?_map]
    unfold Part.indexOfCode
    congr 1
    funext s
    unfold StationSlot.shape
    cases he : s.entry <;> simp [he]
  rw [hshape, hshape, h]

theorem holds_of_shape {p q : Part}
    (h : q.tst.stations.map StationSlot.shape = p.tst.stations.map StationSlot.shape)
    (i : Nat) (c : Chan) : ((q.station i).any fun e => e.holds c) = (p.station i).any fun e => e.holds c := by
  have hshape (r : Part) : ((r.station i).any fun e => e.holds c)
      = (((r.tst.stations.map StationSlot.shape)[i]?).join).any fun s => s.2.1 == c.band && s.2.2.any
        (· == c.freq) := by
    unfold Part.station StationSlot.shape
    cases hi : r.tst.stations[i]? with
    | none => simp [List.getD, hi]
    | some s =>
      cases he : s.entry with
      | none => simp [List.getD, hi, he]
      | some e => simp [List.getD, hi, he, Station.holds, Function.comp_def]
  rw [hshape, hshape, h]

/-- What the Station Manager keeps up nothing of stays so while the configuration stays, no WATCH and no BACKGROUND
claim is added, and no low-quality timer starts. -/
theorem quiet_of_radio {p q : Part} (h : p.quiet = true) (hradio : q.radioCfg = p.radioCfg)
    (hl : q.stm.bulletin.latch = p.stm.bulletin.latch) (hw : q.stm.watch = p.stm.watch)
    (hs : q.stm.watchState = p.stm.watchState)
    (hc : ∀ t, ∀ c ∈ (q.tuner t).claims, c.who = .watch ∨ c.who = .background → c ∈ (p.tuner t).claims)
    (hf : ∀ t, q.follow t = p.follow t ∨ (q.follow t).lowTimer = false) : q.quiet = true := by
  obtain ⟨h1, h2, h3, h4, h5, h6, h7⟩ := quiet_iff.mp h
  refine quiet_iff.mpr ⟨by rwa [hl], by rwa [hw], by rwa [hs], ?_, ?_, by rwa [hradio], fun t => ?_⟩
  · exact holding_none_iff.mpr fun t c hm hwho => holding_none_iff.mp h4 t c (hc t c hm (.inl hwho)) hwho
  · exact holding_none_iff.mpr fun t c hm hwho => holding_none_iff.mp h5 t c (hc t c hm (.inr hwho)) hwho
  · rcases hf t with hsame | hoff
    · rw [hsame, h7]
    · exact hoff

/-! ### A tune started -/

/-- A tune start of a tuner that has an address, of a check or of none: its record as R58 says, and the TUNE command
issued. -/
theorem tuneStart_issued {t : TunerId} {c : Chan} {note : Option ZoneId} {p : Part} (checking : Bool)
    (ha : p.hasAddress t = true) (hr : (p.tuner t).retry = none) :
    ∃ tu lb, tuneStart t c note checking p = { p with tuc := tu, stm := { p.stm with labels := lb } }
      ∧ tu.tuners = p.tuc.tuners.set t (tunedRecord c note checking (p.tuner t))
      ∧ (t, LinkCmd.tune c) ∈ tu.link.toList ++ tu.queue := by
  obtain ⟨q, hq⟩ : ∃ q : Part, q = { p.setTuner t (tunedRecord c note checking (p.tuner t)) with
      stm := { p.stm with labels := p.stm.labels.set t (List.replicate 4 none) } } := ⟨_, rfl⟩
  have htuner : q.tuner t = tunedRecord c note checking (p.tuner t) := by rw [hq]; cases t <;> rfl
  have haddress : q.hasAddress t = true := by rw [hq]; exact ha
  have hnofault : (q.tuner t).state ≠ .fault := by rw [htuner]; cases checking <;> simp [tunedRecord]
  have hretry : (q.tuner t).retry = none := by rw [htuner]; exact hr
  have hstart : tuneStart t c note checking p = issue t (.tune c) q := by rw [hq]; rfl
  obtain ⟨tu, e, htuners, hmem⟩ := issue_sent (cmd := .tune c) haddress hnofault hretry
  refine ⟨tu, p.stm.labels.set t (List.replicate 4 none), ?_, ?_, hmem⟩
  · rw [hstart, e, hq]
    rfl
  · rw [htuners, hq]
    rfl

end Sys2Proof.Machine
end

section
/-! PROOFS. A blind check stays on its candidate or returns home (O45). -/

namespace Sys2Proof.Machine

/-- The move to CHECK_RETURN: the tuner is tuned to its home frequency in CHECKING, and its zones take that (R91). -/
theorem returnHome_only {t : TunerId} {c : Chan} {p : Part} (hc : (p.tuner t).chan = some c)
    (ha : p.hasAddress t = true) (hr : (p.tuner t).retry = none) :
    ∃ zs tu lb, returnHome t p = { p with
        zmx := { p.zmx with zones := zs }
        tuc := tu
        stm := { p.stm with follow := p.stm.follow.set t { p.follow t with state := .checkReturn }, labels := lb } }
      ∧ tu.tuners = p.tuc.tuners.set t (tunedRecord ⟨c.band, (p.follow t).home⟩ none true (p.tuner t))
      ∧ (t, LinkCmd.tune ⟨c.band, (p.follow t).home⟩) ∈ tu.link.toList ++ tu.queue
      ∧ ∀ z ∈ p.zonesOn t, (zs.get z).chan = some ⟨c.band, (p.follow t).home⟩ := by
  obtain ⟨k, hk⟩ : ∃ k, k = holdZones t p := ⟨_, rfl⟩
  have hkeq := hk.trans (holdZones_eq t p)
  obtain ⟨m, hm⟩ : ∃ m : Part, m = (zonesTune t ⟨c.band, (p.follow t).home⟩ k).setFollow t
      { p.follow t with state := .checkReturn } := ⟨_, rfl⟩
  have hmeq := hm
  rw [zonesTune_eq] at hmeq
  have hkrest : k = { p with zmx := { p.zmx with zones := k.zmx.zones } } := by rw [hkeq]
  have hmrest : m = { p with
      zmx := { p.zmx with zones := m.zmx.zones }
      stm := { p.stm with follow := p.stm.follow.set t { p.follow t with state := .checkReturn } } } := by
    rw [hmeq, hkrest]
    rfl
  obtain ⟨tu, lb, e, htu, hsent⟩ := tuneStart_issued (t := t) (c := ⟨c.band, (p.follow t).home⟩) (note := none) (p := m)
    true (by rw [hmrest]; exact ha) (by rw [hmrest]; exact hr)
  refine ⟨m.zmx.zones, tu, lb, ?_, ?_, hsent, fun z hz => ?_⟩
  · have hfollow : (zonesTune t ⟨c.band, (p.follow t).home⟩ k).follow t = p.follow t := by
      rw [zonesTune_eq, hkrest]
      rfl
    unfold returnHome
    rw [hc]
    dsimp only
    rw [← hk, hfollow, ← hm, e, hmrest]
  · rw [htu, hmrest]
    rfl
  · have hmem : z ∈ k.zonesOn t := by
      rw [mem_zonesOn] at hz ⊢
      obtain ⟨h1, h2, h3⟩ := hz
      refine ⟨h1, ?_, ?_⟩
      · rw [hkeq]
        show Zone.att ((PerZone.of _).get z) = _
        rw [PerZone.get_of]
        split <;> exact h2
      · rw [hkrest]
        exact h3
    rw [hmeq]
    show Zone.chan ((PerZone.of _).get z) = _
    rw [PerZone.get_of, if_pos hmem]

/-- The check of a quiet part returns home: the reports apart, the event ends there. -/
theorem settle_returnHome {f : Part → Part} {t : TunerId} {c : Chan} {p b : Part} {st : List StationSlot}
    (hq : p.quiet = true) (hb : b = { p with tst := { p.tst with stations := st } }) (hf : f p = returnHome t b)
    (hc : (p.tuner t).chan = some c) (ha : p.hasAddress t = true) (hr : (p.tuner t).retry = none) :
    ∃ q, settle f p = q ∧ q.follow t = { p.follow t with state := .checkReturn } ∧ (q.tuner t).state = .checking
      ∧ (q.tuner t).chan = some ⟨c.band, (p.follow t).home⟩ ∧ (q.tuner t).claims = (p.tuner t).claims
      ∧ (t, LinkCmd.tune ⟨c.band, (p.follow t).home⟩) ∈ q.tuc.link.toList ++ q.tuc.queue
      ∧ (∀ z, (p.zone z).att = some t → p.listening z = true → z.ownSource = true →
          (q.zone z).chan = some ⟨c.band, (p.follow t).home⟩)
      ∧ q.nfu = p.nfu := by
  obtain ⟨zs, tu, lb, e, htu, hsent, hz⟩ := returnHome_only (t := t) (c := c) (p := b) (by rw [hb]; exact hc)
    (by rw [hb]; exact ha) (by rw [hb]; exact hr)
  obtain ⟨m, hm⟩ : ∃ m, m = returnHome t b := ⟨_, rfl⟩
  have hmeq : m = { p with
      tst := { p.tst with stations := st }
      zmx := { p.zmx with zones := zs }
      tuc := tu
      stm := { p.stm with follow := p.stm.follow.set t { p.follow t with state := .checkReturn }, labels := lb } } := by
    rw [hm, e, hb]
    rfl
  have htuners : tu.tuners = p.tuc.tuners.set t (tunedRecord ⟨c.band, (p.follow t).home⟩ none true (p.tuner t)) := by
    rw [htu, hb]
    rfl
  have hquiet : m.quiet = true := by
    rw [hmeq]
    refine quiet_of_radio hq rfl rfl rfl rfl (fun x k hk _ => ?_) fun x => ?_
    · change k ∈ (tu.tuners.get x).claims at hk
      rwa [htuners, claims_setTuner (by rfl)] at hk
    · change (p.stm.follow.set t _).get x = _ ∨ ((p.stm.follow.set t _).get x).lowTimer = _
      rw [PerTuner.get_set]
      split
      · exact .inr ((quiet_iff.mp hq).2.2.2.2.2.2 t)
      · exact .inl rfl
  obtain ⟨rl, hrl⟩ := noteReports_eq p m
  have hself : (tu.tuners.get t) = tunedRecord ⟨c.band, (p.follow t).home⟩ none true (p.tuner t) := by
    rw [htuners, PerTuner.get_set_self]
  refine ⟨noteReports p m, by rw [settle, hf, ← hm, stmSettle_quiet hquiet], ?_⟩
  have hstate := congrArg Tuner.state hself
  have hchan := congrArg Tuner.chan hself
  have hclaims := congrArg Tuner.claims hself
  rw [hrl, hmeq]
  refine ⟨PerTuner.get_set_self .., hstate, hchan, hclaims, ?_, fun z h1 h2 h3 => ?_, rfl⟩
  · rw [hb] at hsent
    exact hsent
  · rw [hb] at hz
    exact hz z (mem_zonesOn.mpr ⟨h3, h1, h2⟩)

/-- The end of a check's measurement, by its average (R91). -/
theorem checkMeasureTimeout_due {t : TunerId} {c : Chan} {p : Part} (hr : p.running = true)
    (hs : (p.follow t).state = .checkMeasure) (hd : (p.tuner t).done = true) (hc : (p.tuner t).chan = some c)
    (hl : p.tst.latent = []) : checkMeasureTimeout t p =
      if (p.follow t).preScore + p.radioCfg.afMargin ≤ (p.follow t).sum / 5 then
        zonesTune t c (((storeQuality c ((p.follow t).sum / 5) p).setTuner t
          { p.tuner t with state := .playing }).setFollow t
          { p.follow t with state := .checkVerify })
      else returnHome t (storeQuality c ((p.follow t).sum / 5) p) := by
  obtain ⟨st, hst⟩ := storeQuality_only c ((p.follow t).sum / 5) hl
  unfold checkMeasureTimeout checkAverage
  rw [if_pos (by simp [hr, hs, hd]), ownerReads_clean _ hl]
  conv_lhs => dsimp only; rw [hc]; dsimp only
  rw [hst]
  rfl

/-- Settles O45. -/
theorem blindChecksStayOrReturn : Obligations.BlindChecksStayOrReturn := by
  intro t c p w hr hq hl hc hf hre ha
  refine ⟨fun cmd hcmd => ?_, fun hs hd havg => ?_, fun hs => ⟨?_, ?_⟩⟩
  · rcases hcmd with ⟨rfl, hs, hd, havg⟩ | ⟨rfl, hs⟩
    · obtain ⟨st, hst⟩ := storeQuality_only c ((p.follow t).sum / 5) hl
      obtain ⟨q, e, h⟩ := settle_returnHome (f := checkMeasureTimeout t) (t := t) hq hst (by
        rw [checkMeasureTimeout_due hr hs hd hc hl, if_neg (by omega)]) hc ha hre
      exact ⟨q, congrArg (fun q => Host.Outcome.next (⟨q, w⟩ : State)) e, h⟩
    · obtain ⟨q, e, h⟩ := settle_returnHome (f := checkVerifyTimeout t) (t := t) (b := p)
        (st := p.tst.stations) hq rfl (by
        simp [checkVerifyTimeout, hr, hs]) hc ha hre
      exact ⟨q, congrArg (fun q => Host.Outcome.next (⟨q, w⟩ : State)) e, h⟩
  · obtain ⟨b, hb⟩ : ∃ b, b = storeQuality c ((p.follow t).sum / 5) p := ⟨_, rfl⟩
    obtain ⟨st, hst⟩ := storeQuality_only c ((p.follow t).sum / 5) hl
    obtain ⟨m, hm⟩ : ∃ m, m = checkMeasureTimeout t p := ⟨_, rfl⟩
    have hmeq := hm
    rw [checkMeasureTimeout_due hr hs hd hc hl, if_pos havg, ← hb, zonesTune_eq] at hmeq
    obtain ⟨zs, hzs⟩ : ∃ zs, m.zmx.zones = zs := ⟨_, rfl⟩
    have hmrest : m = { b with
        zmx := { b.zmx with zones := zs }
        tuc := { b.tuc with tuners := b.tuc.tuners.set t { p.tuner t with state := .playing } }
        stm := { b.stm with follow := b.stm.follow.set t { p.follow t with state := .checkVerify } } } := by
      rw [← hzs, hmeq]
      rfl
    rw [hst] at hb
    have hquiet : m.quiet = true := by
      rw [hmrest, hb]
      refine quiet_of_radio hq rfl rfl rfl rfl (fun x k hk _ => ?_) fun x => ?_
      · change k ∈ ((p.tuc.tuners.set t _).get x).claims at hk
        rwa [claims_setTuner (by rfl)] at hk
      · change (p.stm.follow.set t _).get x = _ ∨ ((p.stm.follow.set t _).get x).lowTimer = _
        rw [PerTuner.get_set]
        split
        · exact .inr ((quiet_iff.mp hq).2.2.2.2.2.2 t)
        · exact .inl rfl
    obtain ⟨rl, hrl⟩ := noteReports_eq p m
    have hrun : settle (checkMeasureTimeout t) p = noteReports p m := by rw [settle, ← hm, stmSettle_quiet hquiet]
    refine ⟨noteReports p m, congrArg (fun q => Host.Outcome.next (⟨q, w⟩ : State)) hrun, ?_⟩
    have hzone (z : ZoneId) (h1 : (p.zone z).att = some t) (h2 : p.listening z = true) (h3 : z.ownSource = true) :
        (m.zone z).chan = some c := by
      rw [hmeq]
      show Zone.chan ((PerZone.of _).get z) = _
      rw [PerZone.get_of, if_pos]
      refine mem_zonesOn.mpr ⟨h3, ?_, ?_⟩
      · rw [hb]
        exact h1
      · rw [hb]
        refine (listening_of_claims (p := p) (fun u => ?_) z).trans h2
        exact claims_setTuner (r := { p.tuner t with state := .playing }) rfl u
    have hstation (i : Nat) (e : Station) (hi : p.holderOf c = some i) (he : m.station i = some e) (it : Item)
        (hit : it ∈ e.items) (hfreq : it.freq = c.freq) : it.quality = some ((p.follow t).sum / 5) := by
      have hbst : m.station i = (storeQuality c ((p.follow t).sum / 5) p).station i := by
        rw [hmrest, hb, hst]
        rfl
      rw [hbst, storeQuality_station hl, if_pos hi] at he
      obtain ⟨e0, -, rfl⟩ := Option.map_eq_some_iff.mp he
      obtain ⟨it0, -, rfl⟩ := List.mem_map.mp hit
      split at hfreq
      · rename_i h0
        rw [if_pos h0]
      · rename_i h0
        exact absurd hfreq h0
    rw [hrl]
    refine ⟨?_, ?_, hzone, hstation, ?_⟩
    · rw [hmrest, hb]
      exact PerTuner.get_set_self ..
    · rw [hmrest, hb]
      exact PerTuner.get_set_self ..
    · rw [hmrest, hb]
  · have hrun : checkMeasureTimeout t p = p := by simp [checkMeasureTimeout, hs]
    exact congrArg (fun q => Host.Outcome.next (⟨q, w⟩ : State)) (settle_quiet hrun hq rfl)
  · have hrun : checkVerifyTimeout t p = p := by simp [checkVerifyTimeout, hs]
    exact congrArg (fun q => Host.Outcome.next (⟨q, w⟩ : State)) (settle_quiet hrun hq rfl)

end Sys2Proof.Machine
end

section
/-! PROOFS. Frequency following tries its candidate (O43). -/

namespace Sys2Proof.Machine

theorem calm_iff {p : Part} : p.calm = true ↔ p.stm.bulletin.latch ≠ .prompted ∧ p.stm.watch = none
    ∧ p.stm.watchState = .inactive ∧ p.holding .watch = none ∧ p.holding .background = none
    ∧ p.radioCfg.background = false := by
  simp [Part.calm, and_assoc]

/-- Calm stays while the configuration stays and no WATCH and no BACKGROUND claim is added. -/
theorem calm_of {p q : Part} (h : p.calm = true) (hradio : q.radioCfg = p.radioCfg)
    (hl : q.stm.bulletin.latch = p.stm.bulletin.latch) (hw : q.stm.watch = p.stm.watch)
    (hs : q.stm.watchState = p.stm.watchState)
    (hc : ∀ t, ∀ c ∈ (q.tuner t).claims, c.who = .watch ∨ c.who = .background → c.prov = true
      ∨ c ∈ (p.tuner t).claims) :
    q.calm = true := by
  obtain ⟨h1, h2, h3, h4, h5, h6⟩ := calm_iff.mp h
  have hnone {w : Claimant} (hw : w = .watch ∨ w = .background) (hp : p.holding w = none) : q.holding w = none := by
    refine holding_none_iff.mpr fun t c hm hwho => ?_
    rcases hc t c hm (hwho ▸ hw) with hprov | hin
    · exact hprov
    · exact holding_none_iff.mp hp t c hin hwho
  exact calm_iff.mpr ⟨by rwa [hl], by rwa [hw], by rwa [hs], hnone (.inl rfl) h4, hnone (.inr rfl) h5, by rwa [hradio]⟩

/-- The settling of a calm part in which no low-quality timer runs: the reports apart, nothing. -/
theorem settle_calm {f : Part → Part} {p q : Part} (hf : f p = q) (hc : q.calm = true) (hl : q.tst.latent = [])
    (hlow : ∀ t, (q.follow t).lowTimer = false) : settle f p = noteReports p q := by
  have hstop := settle_of_calm (f := f) (p := p) (by rw [hf]; exact hc) (by rw [hf]; exact hl)
  rw [hstop, hf, stopTimer_idle (hlow .a), stopTimer_idle (hlow .b)]

theorem playsOn_iff {p : Part} {t : TunerId} : p.playsOn t = true ↔ (p.tuner t).state = .playing
    ∧ (p.tuner t).acked = true ∧ (p.tuner t).done = true ∧ (p.tuner t).seek = none ∧ (p.tuner t).note = none
    ∧ (p.tuner t).retry = none ∧ (p.tuner t).claims ≠ [] ∧ (p.follow t).state = .monitor ∧ p.switching t.other = false
    ∧ p.stm.scan = none := by
  simp [Part.playsOn, and_assoc]

theorem switching_of_monitor {p : Part} {t : TunerId} (h : (p.follow t).state = .monitor) : p.switching t = false := by
  simp [Part.switching, h]

/-- AF_HOLD_EXPIRY of a tuner that plays, with a candidate found (R88). -/
theorem afHoldExpiry_due {t : TunerId} {cand home : Chan} {p : Part} (hr : p.running = true) (hl : p.tst.latent = [])
    (hp : p.playsOn t = true) (he : p.eligible t = true) (hhome : (p.tuner t).chan = some home)
    (hcand : p.candidate t = some cand) (hlow : (p.follow t).lowTimer = true) :
    afHoldExpiry t p = if p.borrowable t.other then startSwitch t cand p
      else if p.mayCheck t then startCheck t cand home p else p := by
  obtain ⟨-, -, -, -, -, -, hmonitoring⟩ := reports_of_playsOn hp
  unfold afHoldExpiry
  rw [if_neg (by simp [hr, hlow, hmonitoring]), ownerReads_clean _ hl, readFollowed_clean _ hl]
  dsimp only
  rw [if_neg (by simp [he]), hcand, hhome]

/-! ### The seamless switch -/

/-- The displacement of no claims: the note, the seek and the following of the tuner end (R69). -/
theorem displaceAll_empty {t : TunerId} {p : Part} (hc : (p.tuner t).claims = []) (hs : ∀ u, p.switching u = false) :
    displaceAll t p = (p.setTuner t { p.tuner t with note := none, seek := none }).setFollow t (p.follow t).ended := by
  have hswitches : abandonSwitches t p = p := by
    rw [abandonSwitches, abandonSwitch_none (hs t), abandonSwitch_none (hs t.other)]
  unfold displaceAll
  rw [hswitches]
  dsimp only
  rw [hc]
  simp only [List.foldl_nil, List.any_nil, Bool.not_false, List.filter_true]
  rfl

/-- The provisional copies of a claim list's listening claims (R89). -/
def copiesOf (cs : List Claim) : List Claim := (cs.filter fun c => c.who.listens).map fun c => { c with prov := true }

theorem mem_copiesOf {cs : List Claim} {k : Claim} :
    k ∈ copiesOf cs ↔ k.prov = true ∧ ∃ x ∈ cs, x.who = k.who ∧ x.who.listens = true := by
  simp only [copiesOf, List.mem_map, List.mem_filter]
  constructor
  · rintro ⟨x, ⟨hx, hlis⟩, rfl⟩
    exact ⟨rfl, x, hx, rfl, hlis⟩
  · rintro ⟨hprov, x, hx, hwho, hlis⟩
    refine ⟨x, ⟨hx, hlis⟩, ?_⟩
    obtain ⟨w, b⟩ := k
    obtain rfl : x.who = w := hwho
    obtain rfl : b = true := hprov
    rfl

/-- A seamless switch to a free tuner: it holds the copies and is tuned to the candidate (R89). -/
theorem startSwitch_free {t : TunerId} {cand : Chan} {p : Part} (hc : (p.tuner t.other).claims = [])
    (hs : ∀ u, p.switching u = false) (ha : p.hasAddress t.other = true) (hr : (p.tuner t.other).retry = none) :
    ∃ tu lb cs, startSwitch t cand p = { p with
        tuc := tu
        stm := { p.stm with
          follow := (p.stm.follow.set t.other (p.follow t.other).ended).set t
            { state := .switchVerify, lastCheck := (p.follow t).lastCheck, cand := cand.freq }
          labels := lb } }
      ∧ tu.tuners = p.tuc.tuners.set t.other (tunedRecord cand none false
          { p.tuner t.other with claims := cs, note := none, seek := none })
      ∧ (∀ k, k ∈ cs ↔ k ∈ copiesOf (p.tuner t).claims)
      ∧ (t.other, LinkCmd.tune cand) ∈ tu.link.toList ++ tu.queue := by
  obtain ⟨m, hm⟩ : ∃ m : Part, m = { p with
      tuc := { p.tuc with tuners := p.tuc.tuners.set t.other { p.tuner t.other with
        claims := sortClaims p.tuc.grants (copiesOf (p.tuner t).claims), note := none, seek := none } }
      stm := { p.stm with
        follow := (p.stm.follow.set t.other (p.follow t.other).ended).set t
          { state := .switchVerify, lastCheck := (p.follow t).lastCheck, cand := cand.freq } } } := ⟨_, rfl⟩
  have hmt : m.tuner t.other = { p.tuner t.other with
      claims := sortClaims p.tuc.grants (copiesOf (p.tuner t).claims), note := none, seek := none } := by
    rw [hm]
    exact PerTuner.get_set_self ..
  obtain ⟨tu, lb, e, htu, hsent⟩ := tuneStart_issued (t := t.other) (c := cand) (note := none) (p := m) false
    (by rw [hm]; exact ha) (by rw [hmt]; exact hr)
  have hstart : startSwitch t cand p = tuneStart t.other cand none false m := by
    unfold startSwitch
    rw [displaceAll_empty hc hs, hm]
    cases t <;> rfl
  refine ⟨tu, lb, sortClaims p.tuc.grants (copiesOf (p.tuner t).claims), ?_, ?_, fun k => sortClaims_mem, hsent⟩
  · rw [hstart, e, hm]
  · rw [htu, hmt, hm]
    cases t <;> rfl

/-! ### The blind check -/

/-- A blind check starts: the zones' readiness is held, and the tuner is tuned to the candidate in CHECKING (R91). -/
theorem startCheck_only {t : TunerId} {cand home : Chan} {p : Part} (ha : p.hasAddress t = true)
    (hr : (p.tuner t).retry = none) :
    ∃ zs tu lb, startCheck t cand home p = { p with
        zmx := { p.zmx with zones := zs }
        tuc := tu
        stm := { p.stm with
          follow := p.stm.follow.set t { state := .checkMeasure, lastCheck := some p.rif.ringTime, cand := cand.freq
                                         home := home.freq, code := (p.tuner t).heard.getD 0
                                         preScore := (p.tuner t).qs }
          labels := lb } }
      ∧ tu.tuners = p.tuc.tuners.set t (tunedRecord cand none true (p.tuner t))
      ∧ (t, LinkCmd.tune cand) ∈ tu.link.toList ++ tu.queue
      ∧ ∀ z, z.ownSource = true → (p.zone z).att = some t →
          (zs.get z).held.isSome = true ∧ (zs.get z).state = (p.zone z).state := by
  obtain ⟨m, hm⟩ : ∃ m : Part, m = (holdZones t p).setFollow t
      { state := .checkMeasure, lastCheck := some p.rif.ringTime, cand := cand.freq, home := home.freq
        code := (p.tuner t).heard.getD 0, preScore := (p.tuner t).qs } := ⟨_, rfl⟩
  have hmeq := hm
  rw [holdZones_eq] at hmeq
  obtain ⟨tu, lb, e, htu, hsent⟩ := tuneStart_issued (t := t) (c := cand) (note := none) (p := m) true
    (by rw [hmeq]; exact ha) (by rw [hmeq]; exact hr)
  refine ⟨m.zmx.zones, tu, lb, ?_, ?_, hsent, fun z hown hatt => ?_⟩
  · have hstart : startCheck t cand home p = tuneStart t cand none true m := by
      rw [hm, holdZones_eq]
      unfold startCheck
      rw [holdZones_eq]
    rw [hstart, e, hmeq]
    rfl
  · rw [htu, hmeq]
    rfl
  · have hin : z ∈ [ZoneId.front, .hpLeft, .hpRight] ∧ ((p.zone z).att == some t) = true := by
      refine ⟨?_, by simp [hatt]⟩
      cases z <;> simp_all [ZoneId.ownSource]
    have hget : m.zmx.zones.get z
        = { p.zone z with held := some ((p.zone z).held.getD (p.tunerReady t)) } := by
      rw [hmeq]
      show (PerZone.of _).get z = _
      rw [PerZone.get_of, if_pos hin]
    rw [hget]
    exact ⟨rfl, rfl⟩

/-- Settles O43: by a seamless switch (`startSwitch_free`) or by a blind check (`startCheck_only`). -/
theorem followingTriesACandidate : Obligations.FollowingTriesACandidate := by
  intro t cand home p w hr hcalm hl hp he holow hhome hcand hore
  obtain ⟨hstate, hacked, hdone, hseek, hnote, hretry, hclaims, hmon, hosw, hscan⟩ := playsOn_iff.mp hp
  have hsw (u : TunerId) : p.switching u = false := by
    rcases eq_or_other t u with rfl | rfl
    · exact switching_of_monitor hmon
    · exact hosw
  refine ⟨fun hlow => ?_, fun hlow hidle hoc ha => ?_, fun hlow hb hmay ha => ?_⟩
  · have hrun : afHoldExpiry t p = p := by simp [afHoldExpiry, hlow]
    have hquiet : p.quiet = true := by
      obtain ⟨h1, h2, h3, h4, h5, h6⟩ := calm_iff.mp hcalm
      refine quiet_iff.mpr ⟨h1, h2, h3, h4, h5, h6, fun u => ?_⟩
      rcases eq_or_other t u with rfl | rfl <;> assumption
    exact congrArg (fun q => Host.Outcome.next (⟨q, w⟩ : State)) (settle_quiet hrun hquiet rfl)
  · have hborrow : p.borrowable t.other = true := by simp [Part.borrowable, Part.idleFree, hidle, ha]
    obtain ⟨tu, lb, cs, e, htu, hcs, hsent⟩ := startSwitch_free (cand := cand) hoc hsw ha hore
    have hne : t.other ≠ t := by cases t <;> decide
    obtain ⟨m, hm⟩ : ∃ m, m = startSwitch t cand p := ⟨_, rfl⟩
    have hmeq := hm.trans e
    have hself : m.tuner t.other = tunedRecord cand none false
        { p.tuner t.other with claims := cs, note := none, seek := none } := by
      rw [hmeq]
      show tu.tuners.get _ = _
      rw [htu, PerTuner.get_set_self]
    have hrest : m.tuner t = p.tuner t := by
      rw [hmeq]
      show tu.tuners.get _ = _
      rw [htu, PerTuner.get_set, if_neg hne.symm]
      rfl
    have hfollow : m.follow t = { state := .switchVerify, lastCheck := (p.follow t).lastCheck, cand := cand.freq } := by
      rw [hmeq]
      exact PerTuner.get_set_self ..
    have hmcalm : m.calm = true := by
      refine calm_of hcalm (by rw [hmeq]; rfl) (by rw [hmeq]) (by rw [hmeq]) (by rw [hmeq]) fun u k hk _ => ?_
      rcases eq_or_other t u with rfl | rfl
      · rw [hrest] at hk
        exact .inr hk
      · rw [hself] at hk
        exact .inl (mem_copiesOf.mp ((hcs k).mp hk)).1
    have hmlow (u : TunerId) : (m.follow u).lowTimer = false := by
      rcases eq_or_other t u with rfl | rfl
      · rw [hfollow]
      · rw [hmeq]
        show Follow.lowTimer (PerTuner.get (PerTuner.set _ _ _) _) = false
        rw [PerTuner.get_set, if_neg hne, PerTuner.get_set_self]
        rfl
    have hrun : settle (afHoldExpiry t) p = m := by
      have hdue : afHoldExpiry t p = m := by rw [afHoldExpiry_due hr hl hp he hhome hcand hlow, if_pos hborrow, hm]
      rw [settle_calm hdue hmcalm (by rw [hmeq]; exact hl) hmlow]
      exact noteReports_same fun r => by rw [hmeq]; rfl
    refine ⟨m, congrArg (fun q => Host.Outcome.next (⟨q, w⟩ : State)) hrun, hfollow, ?_, ?_, fun k => ?_, hrest, ?_, ?_⟩
    · rw [hself]
      rfl
    · rw [hself]
      rfl
    · rw [hself]
      exact (hcs k).trans mem_copiesOf
    · rw [hmeq]
      exact hsent
    · rw [hmeq]
  · obtain ⟨zs, tu, lb, e, htu, hsent, hz⟩ := startCheck_only (cand := cand) (home := home) ha hretry
    obtain ⟨m, hm⟩ : ∃ m, m = startCheck t cand home p := ⟨_, rfl⟩
    have hmeq := hm.trans e
    have hclaims (u : TunerId) : (m.tuner u).claims = (p.tuner u).claims := by
      rw [hmeq]
      show (tu.tuners.get u).claims = _
      rw [htu]
      exact claims_setTuner (r := tunedRecord cand none true (p.tuner t)) rfl u
    have hmcalm : m.calm = true :=
      calm_of hcalm (by rw [hmeq]; rfl) (by rw [hmeq]) (by rw [hmeq]) (by rw [hmeq])
        fun u k hk _ => .inr (by rwa [hclaims] at hk)
    have hfollow : m.follow t = { state := .checkMeasure, lastCheck := some p.rif.ringTime, cand := cand.freq
                                  home := home.freq, code := (p.tuner t).heard.getD 0
                                  preScore := (p.tuner t).qs } := by
      rw [hmeq]
      exact PerTuner.get_set_self ..
    have hne : t.other ≠ t := by cases t <;> decide
    have hmlow (u : TunerId) : (m.follow u).lowTimer = false := by
      rcases eq_or_other t u with rfl | rfl
      · rw [hfollow]
      · rw [hmeq]
        show Follow.lowTimer (PerTuner.get (PerTuner.set _ _ _) _) = false
        rw [PerTuner.get_set, if_neg hne]
        exact holow
    have hdue : afHoldExpiry t p = m := by
      rw [afHoldExpiry_due hr hl hp he hhome hcand hlow, hb, if_neg Bool.false_ne_true, if_pos hmay, hm]
    have hrun : settle (afHoldExpiry t) p = noteReports p m := settle_calm hdue hmcalm (by rw [hmeq]; exact hl) hmlow
    have hself : m.tuner t = tunedRecord cand none true (p.tuner t) := by
      rw [hmeq]
      show tu.tuners.get _ = _
      rw [htu, PerTuner.get_set_self]
    have hother : m.tuner t.other = p.tuner t.other := by
      rw [hmeq]
      show tu.tuners.get _ = _
      rw [htu, PerTuner.get_set, if_neg hne]
      rfl
    obtain ⟨rl, hrl⟩ := noteReports_eq p m
    refine ⟨noteReports p m, congrArg (fun q => Host.Outcome.next (⟨q, w⟩ : State)) hrun, ?_⟩
    rw [hrl]
    refine ⟨hfollow, ?_, ?_, hclaims t, hother, ?_, ?_, ?_, ?_⟩
    · exact congrArg Tuner.state hself
    · exact congrArg Tuner.chan hself
    · rw [hmeq]
      exact hz
    · rw [hmeq]
      exact hsent
    · rw [hmeq]
    · rw [hmeq]

end Sys2Proof.Machine
end

section
/-! PROOFS. A seamless switch is abandoned, fades and completes (O44). -/

namespace Sys2Proof.Machine

/-! ### The zones of a switch -/

theorem zonesFading_nodup (p : Part) (t : TunerId) : (p.zonesFading t).Nodup :=
  List.Nodup.sublist (List.Sublist.append List.filter_sublist List.filter_sublist)
    (by decide : ([ZoneId.front, .hpLeft, .hpRight] ++ [ZoneId.rearCabin, .cargo]).Nodup)

theorem mem_zonesFading {p : Part} {t : TunerId} {z : ZoneId} : z ∈ p.zonesFading t ↔
    (z.ownSource = true ∧ (p.zone z).att = some t ∧ p.listening z = true)
      ∨ (z.follows = true ∧ (p.zone z).att = some t ∧ (p.zone z).state ≠ .off) := by
  unfold Part.zonesFading
  rw [List.mem_append, mem_zonesOn]
  refine or_congr .rfl ?_
  cases z <;> simp [ZoneId.follows]

/-- A zone that is not faded: a follower that is OFF (R28). -/
theorem not_mem_zonesFading {p : Part} {t : TunerId} {z : ZoneId} (hf : z.follows = true)
    (hs : (p.zone z).state = .off) :
    z ∉ p.zonesFading t := by
  rw [mem_zonesFading]
  rintro (⟨h1, -⟩ | ⟨-, -, h3⟩)
  · cases z <;> simp_all [ZoneId.ownSource, ZoneId.follows]
  · exact h3 hs

/-- A zone whose claim stands on a tuner listens. -/
theorem listening_of_claim {p : Part} {t : TunerId} {z : ZoneId} {a : Claimant} (ha : claimantOf z = some a)
    (hc : ⟨a, false⟩ ∈ (p.tuner t).claims) : p.listening z = true := by
  unfold Part.listening
  rw [ha]
  dsimp only
  rw [Option.isSome_iff_ne_none]
  intro hnone
  exact Bool.false_ne_true (holding_none_iff.mp hnone t _ hc rfl)

/-! ### The fade -/

/-- The fade begins: the zones are attached to both tuners, at step 1 (R90). -/
theorem beginFade_eq (t : TunerId) (p : Part) : beginFade t p = { p with
    zmx := { p.zmx with zones := .of fun z =>
      if z ∈ p.zonesFading t then { p.zone z with att2 := some t.other } else p.zone z }
    stm := { p.stm with follow := p.stm.follow.set t { p.follow t with state := .switchFade, step := 1 } } } := by
  unfold beginFade
  dsimp only
  rw [foldl_setZone (fun _ r => { r with att2 := some t.other }) (zonesFading_nodup p t)]
  rfl

/-- The record of a zone that moves to the candidate tuner (R90). -/
def Zone.moved (u : TunerId) (c : Chan) (r : Zone) : Zone :=
  { r with att := some u, att2 := none, held := none, chan := some c }

/-- The record of a tuner whose last claim has gone (R70). -/
def Tuner.idled (r : Tuner) : Tuner :=
  { r with state := .idle, settle := false, adapter := flush r.adapter, acked := false, done := false, note := none,
           seek := none }

/-- A tuner without claims that plays goes IDLE, and STANDBY is issued to it (R70). -/
theorem idleIfFree_sent {t : TunerId} {p : Part} (hc : (p.tuner t).claims = []) (hs : (p.tuner t).state = .playing)
    (ha : p.hasAddress t = true) (hr : (p.tuner t).retry = none) :
    ∃ tu, idleIfFree t p = { p with tuc := tu, stm := { p.stm with follow := p.stm.follow.set t (p.follow t).ended } }
      ∧ tu.tuners = p.tuc.tuners.set t (p.tuner t).idled ∧ (t, LinkCmd.standby) ∈ tu.link.toList ++ tu.queue := by
  obtain ⟨m, hm⟩ : ∃ m, m = (p.setTuner t (p.tuner t).idled).setFollow t (p.follow t).ended := ⟨_, rfl⟩
  have hmt : m.tuner t = (p.tuner t).idled := by rw [hm]; exact PerTuner.get_set_self ..
  obtain ⟨tu, e, htu, hsent⟩ := issue_sent (t := t) (cmd := .standby) (p := m) (by rw [hm]; exact ha)
    (by rw [hmt]; exact nofun) (by rw [hmt]; exact hr)
  have hidle : idleIfFree t p = issue t .standby m := by
    unfold idleIfFree
    rw [if_pos (by simp [hc, hs]), hm]
    rfl
  refine ⟨tu, ?_, by rw [htu, hm]; rfl, hsent⟩
  rw [hidle, e, hm]
  rfl

/-- The part whose switch has completed, before the weak tuner goes IDLE: claims and zones stand on the candidate
tuner, and both tuners are back in MONITOR (R90). -/
def switched (t : TunerId) (cand : Chan) (p : Part) : Part :=
  { p with
    zmx := { p.zmx with zones := .of fun z =>
      if z ∈ p.zonesFading t then (p.zone z).moved t.other cand else p.zone z }
    tuc := { p.tuc with
      tuners := (p.tuc.tuners.set t.other { p.tuner t.other with
          claims := sortClaims p.tuc.grants ((p.tuner t.other).claims.map fun k => { k with prov := false }) }).set t
        { p.tuner t with claims := sortClaims p.tuc.grants ((p.tuner t).claims.filter fun k => !k.who.listens) } }
    stm := { p.stm with
      follow := (p.stm.follow.set t (p.follow t).ended).set t.other (p.follow t.other).ended } }

theorem completeSwitch_eq {t : TunerId} {cand : Chan} {p : Part} (hc : (p.tuner t.other).chan = some cand) :
    completeSwitch t p = (idleIfFree t (switched t cand p)).post .afSwitched (tunerCode t.other) := by
  obtain ⟨b, hb⟩ : ∃ b, b = setClaims t
      (((setClaims t.other ((p.tuner t.other).claims.map fun k => { k with prov := false }) p).tuner t).claims.filter
        fun k => !k.who.listens)
      (setClaims t.other ((p.tuner t.other).claims.map fun k => { k with prov := false }) p) := ⟨_, rfl⟩
  have hbrest : b = { p with tuc := (switched t cand p).tuc } := by
    rw [hb]
    cases t <;> rfl
  obtain ⟨m, hm⟩ : ∃ m, m = (p.zonesFading t).foldl (fun q z => attach z t.other none q) b := ⟨_, rfl⟩
  have hattach : m = { b with zmx := { b.zmx with
      zones := .of fun z => if z ∈ p.zonesFading t then
        { b.zone z with att := some t.other, att2 := none, held := none } else b.zone z } } :=
    hm.trans (foldl_setZone (fun _ r => { r with att := some t.other, att2 := none, held := none })
      (zonesFading_nodup p t) b)
  have hchan : (m.tuner t.other).chan = some cand := by
    rw [hattach, hbrest, ← hc]
    cases t <;> rfl
  have hmoved : (p.zonesFading t).foldl (fun q z => q.setZone z { q.zone z with chan := some cand }) m
      = { b with zmx := { b.zmx with zones := (switched t cand p).zmx.zones } } := by
    have hzones : (PerZone.of fun z => if z ∈ p.zonesFading t then { m.zone z with chan := some cand } else m.zone z)
        = (switched t cand p).zmx.zones := by
      apply PerZone.ext_get
      intro z
      have hmz : m.zone z = if z ∈ p.zonesFading t then
          { b.zone z with att := some t.other, att2 := none, held := none } else b.zone z := by
        rw [hattach]
        exact PerZone.get_of ..
      have hbz : b.zone z = p.zone z := by rw [hbrest]; rfl
      unfold switched
      rw [PerZone.get_of, PerZone.get_of, hmz, hbz]
      split <;> rfl
    rw [foldl_setZone (fun _ r => { r with chan := some cand }) (zonesFading_nodup p t), hzones, hattach]
  unfold completeSwitch
  dsimp only
  rw [← hb, ← hm, hchan]
  dsimp only
  rw [hmoved, hbrest]
  cases t <;> rfl

/-! ### The abandonment -/

/-- The part as its switch is abandoned, before the candidate tuner goes IDLE (R89, R90). -/
def abandoned (t : TunerId) (cand : Chan) (p : Part) : Part :=
  { p with
    tst := (storeQuality cand (p.tuner t.other).qs p).tst
    zmx := (leaveFade p).zmx
    tuc := { p.tuc with tuners := p.tuc.tuners.set t.other { p.tuner t.other with
      claims := (p.tuner t.other).claims.filter fun c => !c.prov } }
    stm := { p.stm with follow := p.stm.follow.set t { (p.follow t).ended with lowTimer := true } } }

theorem abandonSwitch_eq {t : TunerId} {cand : Chan} {p : Part} (hl : p.tst.latent = []) (hs : p.switching t = true)
    (hc : (p.tuner t.other).chan = some cand) : abandonSwitch t p = idleIfFree t.other (abandoned t cand p) := by
  obtain ⟨st, hst⟩ := storeQuality_only cand (p.tuner t.other).qs hl
  unfold abandonSwitch abandoned
  rw [if_pos hs]
  conv_lhs => dsimp only; rw [hc]; dsimp only
  rw [hst, leaveFade_eq, leaveFade_eq]
  rfl

/-- A tuner's eligibility rests on the shapes of the stations, its record, the mode and the configuration (R88). -/
theorem eligible_of_shape {p q : Part} {t : TunerId}
    (h : q.tst.stations.map StationSlot.shape = p.tst.stations.map StationSlot.shape) (hradio : q.radioCfg = p.radioCfg)
    (hm : q.pwc = p.pwc) (ht : q.tuner t = p.tuner t) : q.eligible t = p.eligible t := by
  unfold Part.eligible Part.isActive
  rw [hradio, hm, ht]
  dsimp only
  congr 1
  cases (p.tuner t).chan with
  | none => rfl
  | some c =>
    have hindex : ((p.tuner t).heard.bind fun k => q.indexOfCode k) = (p.tuner t).heard.bind fun k => p.indexOfCode k :=
      congrArg _ (funext fun k => indexOfCode_of_shape h k)
    show (match some c, (p.tuner t).heard.bind fun k => q.indexOfCode k with
      | some c, some i => (q.station i).any fun (e : Station) => e.holds c
      | _, _ => false) = _
    rw [hindex]
    cases hi : (p.tuner t).heard.bind fun k => p.indexOfCode k with
    | none => rfl
    | some i => exact holds_of_shape h i c

/-- Settles O44. -/
theorem switchesFadeAndComplete : Obligations.SwitchesFadeAndComplete := by
  intro t z a home cand p w hr hq hl ha hatt hct hco hst hso hhome hcand hosw haddr haddro hre hreo
  obtain ⟨hlatch, hwatch, hwstate, hhold, hback, hbg, hlow⟩ := quiet_iff.mp hq
  have hcalm : p.calm = true := calm_iff.mpr ⟨hlatch, hwatch, hwstate, hhold, hback, hbg⟩
  have hown : z.ownSource = true := ownSource_iff.mpr ⟨a, ha⟩
  have hlisten : p.listening z = true := listening_of_claim ha (t := t) (by rw [hct]; exact List.mem_singleton.mpr rfl)
  have hfading : z ∈ p.zonesFading t := mem_zonesFading.mpr (.inl ⟨hown, hatt, hlisten⟩)
  have hne : t.other ≠ t := by cases t <;> decide
  refine ⟨fun hs => ?abandon, fun hs hv hp _ => ?begin, fun hs hv => ?unverified, fun hs hstep => ⟨?fade, ?early⟩,
    fun hs hstep cmd hcmd => ?complete⟩
  case abandon =>
    have hsw : p.switching t = true := by simp [Part.switching, hs]
    obtain ⟨b, hb⟩ : ∃ b, b = abandoned t cand p := ⟨_, rfl⟩
    obtain ⟨st, hst⟩ := storeQuality_only cand (p.tuner t.other).qs hl
    have hbu : b.tuner t.other = { p.tuner t.other with claims := [] } := by
      have hnone : (p.tuner t.other).claims.filter (fun c => !c.prov) = [] := by rw [hco]; rfl
      rw [hb, ← hnone]
      exact PerTuner.get_set_self ..
    obtain ⟨tu, e, htu, -⟩ := idleIfFree_sent (t := t.other) (p := b) (by rw [hbu]) (by rw [hbu]; exact hso)
      (by rw [hb, abandoned, hst]; exact haddro) (by rw [hbu]; exact hreo)
    obtain ⟨m, hm⟩ : ∃ m, m = idleIfFree t.other b := ⟨_, rfl⟩
    have hrun : switchVerifyTimeout t p = m := by
      rw [hm, hb, ← abandonSwitch_eq hl hsw hcand]
      simp [switchVerifyTimeout, hr, hs]
    have hmeq := hm.trans e
    have hmu : m.tuner t.other = { p.tuner t.other with claims := [] }.idled := by
      rw [← hbu, hmeq]
      show tu.tuners.get _ = _
      rw [htu, PerTuner.get_set_self]
    have hmt : m.tuner t = p.tuner t := by
      rw [hmeq]
      show tu.tuners.get _ = _
      rw [htu, PerTuner.get_set, if_neg hne.symm, hb]
      show (PerTuner.set _ _ _).get _ = _
      rw [PerTuner.get_set, if_neg hne.symm]
      rfl
    have hmf : m.follow t = { (p.follow t).ended with lowTimer := true } := by
      rw [hmeq, hb]
      cases t <;> rfl
    have hmfo : m.follow t.other = (p.follow t.other).ended := by
      rw [hmeq, hb]
      cases t <;> rfl
    have hmtst : m.tst = (storeQuality cand (p.tuner t.other).qs p).tst := by rw [hmeq, hb]; rfl
    have hmradio : m.radioCfg = p.radioCfg := by unfold Part.radioCfg Part.unitPoisoned; rw [hmtst, hst]
    have hmcalm : m.calm = true := by
      refine calm_of hcalm hmradio (by rw [hmeq, hb]; rfl) (by rw [hmeq, hb]; rfl) (by rw [hmeq, hb]; rfl)
        fun u k hk _ => ?_
      rcases eq_or_other t u with rfl | rfl
      · rw [hmt] at hk
        exact .inr hk
      · rw [hmu] at hk
        cases hk
    have hmelig : m.eligible t = p.eligible t :=
      eligible_of_shape (by rw [hmtst]; exact shape_storeQuality cand _ hl) hmradio (by rw [hmeq, hb]; rfl) hmt
    obtain ⟨n, hn⟩ : ∃ n, n = m.setFollow t { m.follow t with lowTimer := p.eligible t } := ⟨_, rfl⟩
    have hstop : stopTimer .b (stopTimer .a m) = n := by
      have hother (x : Part) (hx : x.follow t.other = m.follow t.other) : stopTimer t.other x = x :=
        stopTimer_idle (by rw [hx, hmfo]; rfl)
      have hself : stopTimer t m = n := by
        unfold stopTimer
        rw [hmelig, hn]
        cases he : p.eligible t with
        | true =>
          have hsame : ({ m.follow t with lowTimer := true } : Follow) = m.follow t := by rw [hmf]
          rw [if_pos rfl, hsame, Part.setFollow_same]
        | false => rfl
      cases t with
      | a =>
        rw [hself]
        exact hother n (by rw [hn]; rfl)
      | b =>
        rw [show stopTimer .a m = m from hother m rfl, hself]
    obtain ⟨rl, hrl⟩ := noteReports_eq p n
    have hsettle : settle (switchVerifyTimeout t) p = noteReports p n := by
      rw [settle_of_calm (by rw [hrun]; exact hmcalm) (by rw [hrun, hmtst, hst]; exact hl), hrun, hstop]
    have hzone (x : ZoneId) : m.zone x = if x.follows = true ∧ (p.zone x).state = .off then p.zone x
        else { p.zone x with att2 := none } := by
      rw [hmeq, hb]
      show (leaveFade p).zmx.zones.get x = _
      rw [leaveFade_eq]
      exact PerZone.get_of ..
    have hzz : m.zone z = { p.zone z with att2 := none } := by
      rw [hzone, if_neg]
      rintro ⟨h, -⟩
      cases z <;> simp_all [ZoneId.ownSource, ZoneId.follows]
    refine ⟨noteReports p n, congrArg (fun q => Host.Outcome.next (⟨q, w⟩ : State)) hsettle, ?_⟩
    rw [hrl, hn]
    refine ⟨?_, ?_, ?_, hmt, ?_, ?_, ?_, fun x h1 h2 => ?_, fun i => ?_⟩
    · rw [hmf]
      exact PerTuner.get_set_self ..
    · exact congrArg Tuner.claims hmu
    · exact congrArg Tuner.state hmu
    · exact (congrArg Zone.att hzz).trans hatt
    · exact congrArg Zone.att2 hzz
    · rw [hmeq, hb]
      rfl
    · exact (hzone x).trans (if_pos ⟨h1, h2⟩)
    · have hsame : m.station i = (storeQuality cand (p.tuner t.other).qs p).station i := by
        unfold Part.station
        rw [hmtst]
      exact hsame.trans (storeQuality_station hl i)
  case begin =>
    have hrun : afFadeStep t p = beginFade t p := by simp [afFadeStep, hr, hs, hv, hp]
    obtain ⟨m, hm⟩ : ∃ m, m = beginFade t p := ⟨_, rfl⟩
    have hmeq := hm.trans (beginFade_eq t p)
    have hfollow : m.follow t = { p.follow t with state := .switchFade, step := 1 } := by
      rw [hmeq]
      exact PerTuner.get_set_self ..
    have hzone (x : ZoneId) : m.zone x
        = if x ∈ p.zonesFading t then { p.zone x with att2 := some t.other } else p.zone x := by
      rw [hmeq]
      exact PerZone.get_of ..
    have hmq : m.quiet = true := by
      refine quiet_of hq (by rw [hmeq]) (by rw [hmeq]) (by rw [hmeq]) (by rw [hmeq]) (fun u k hk _ => ?_) fun u => ?_
      · rwa [hmeq] at hk
      · rcases eq_or_other t u with rfl | rfl
        · exact .inr (by rw [hfollow]; exact hlow u)
        · refine .inl ?_
          rw [hmeq]
          show PerTuner.get (PerTuner.set _ _ _) _ = _
          rw [PerTuner.get_set, if_neg hne]
          rfl
    obtain ⟨rl, hrl⟩ := noteReports_eq p m
    refine ⟨noteReports p m, ?_, ?_⟩
    · refine congrArg (fun q => Host.Outcome.next (⟨q, w⟩ : State)) ?_
      rw [settle, hrun, ← hm, stmSettle_quiet hmq]
    rw [hrl]
    refine ⟨hfollow, ?_, ?_, fun x h1 h2 h3 => ?_, fun x h1 h2 => ?_⟩
    · exact (hzone z).trans (if_pos hfading)
    · rw [hmeq]
    · have hx := (hzone x).trans (if_pos (mem_zonesFading.mpr (.inr ⟨h1, h3, h2⟩)))
      exact ⟨(congrArg Zone.att hx).trans h3, congrArg Zone.att2 hx⟩
    · exact (hzone x).trans (if_neg (not_mem_zonesFading h1 h2))
  case unverified =>
    have hrun : afFadeStep t p = p := by simp [afFadeStep, hr, hs, hv]
    exact congrArg (fun q => Host.Outcome.next (⟨q, w⟩ : State)) (settle_quiet hrun hq rfl)
  case fade =>
    have hrun : afFadeStep t p = p.setFollow t { p.follow t with step := (p.follow t).step + 1 } := by
      simp [afFadeStep, hr, hs, hstep]
    refine congrArg (fun q => Host.Outcome.next (⟨q, w⟩ : State)) (settle_quiet hrun ?_ rfl)
    refine quiet_of hq rfl rfl rfl rfl (fun u k hk _ => hk) fun u => ?_
    rcases eq_or_other t u with rfl | rfl
    · refine .inr ?_
      simp only [Part.follow_setFollow_self]
      exact hlow u
    · exact .inl (Part.follow_setFollow_of_ne _ _ _ _ hne)
  case early =>
    have hrun : afSwitchComplete t p = p := by simp [afSwitchComplete, show (p.follow t).step ≠ 32 by omega]
    exact congrArg (fun q => Host.Outcome.next (⟨q, w⟩ : State)) (settle_quiet hrun hq rfl)
  case complete =>
    obtain ⟨b, hb⟩ : ∃ b, b = switched t cand p := ⟨_, rfl⟩
    have hbt : b.tuner t = { p.tuner t with claims := [] } := by
      have hnone : sortClaims p.tuc.grants ((p.tuner t).claims.filter fun k => !k.who.listens) = [] := by
        rw [hct, List.filter_cons_of_neg (by simp [(zone_of_claimant ha).2])]
        simp [sortClaims]
      rw [hb, ← hnone]
      exact PerTuner.get_set_self ..
    have hbu : b.tuner t.other = { p.tuner t.other with claims := sortClaims p.tuc.grants [⟨a, false⟩] } := by
      rw [hb]
      show (PerTuner.set _ _ _).get _ = _
      rw [PerTuner.get_set, if_neg hne, PerTuner.get_set_self, hco]
      rfl
    obtain ⟨tu, e, htu, hsent⟩ := idleIfFree_sent (t := t) (p := b) (by rw [hbt]) (by rw [hbt]; exact hst)
      (by rw [hb]; exact haddr) (by rw [hbt]; exact hre)
    obtain ⟨m, hm⟩ : ∃ m, m = (idleIfFree t b).post .afSwitched (tunerCode t.other) := ⟨_, rfl⟩
    have hrun : completeSwitch t p = m := by rw [completeSwitch_eq hcand, hm, hb]
    have hmeq := hm
    rw [e] at hmeq
    have hmt : m.tuner t = { p.tuner t with claims := [] }.idled := by
      rw [← hbt, hmeq]
      show tu.tuners.get _ = _
      rw [htu, PerTuner.get_set_self]
    have hmu : m.tuner t.other = { p.tuner t.other with claims := sortClaims p.tuc.grants [⟨a, false⟩] } := by
      rw [← hbu, hmeq]
      show tu.tuners.get _ = _
      rw [htu, PerTuner.get_set, if_neg hne]
      rfl
    have hmem (k : Claim) : k ∈ (m.tuner t.other).claims ↔ k = ⟨a, false⟩ := by
      rw [hmu]
      exact sortClaims_mem.trans List.mem_singleton
    have hmf (u : TunerId) : m.follow u = (p.follow u).ended := by
      rw [hmeq, hb]
      cases t <;> cases u <;> rfl
    have hlistens : a ≠ .watch ∧ a ≠ .background := by cases z <;> cases ha <;> decide
    have hmq : m.quiet = true := by
      refine quiet_of hq (by rw [hmeq, hb]; rfl) (by rw [hmeq, hb]; rfl) (by rw [hmeq, hb]; rfl) (by rw [hmeq, hb]; rfl)
        (fun u k hk hwho => ?_) fun u => .inr (by rw [hmf]; rfl)
      rcases eq_or_other t u with rfl | rfl
      · rw [hmt] at hk
        cases hk
      · obtain rfl := (hmem k).mp hk
        rcases hwho with h | h
        · exact absurd h hlistens.1
        · exact absurd h hlistens.2
    have hzone (x : ZoneId) : m.zone x = if x ∈ p.zonesFading t then (p.zone x).moved t.other cand else p.zone x := by
      rw [hmeq, hb]
      exact PerZone.get_of ..
    obtain ⟨rl, hrl⟩ := noteReports_eq p m
    have hsettle {f : Part → Part} (hf : f p = completeSwitch t p) : settle f p = noteReports p m := by
      rw [settle, hf, hrun, stmSettle_quiet hmq]
    refine ⟨noteReports p m, ?_, ?_⟩
    · rcases hcmd with rfl | rfl
      · exact congrArg (fun q => Host.Outcome.next (⟨q, w⟩ : State))
          (hsettle (f := afFadeStep t) (by simp [afFadeStep, hr, hs, hstep]))
      · exact congrArg (fun q => Host.Outcome.next (⟨q, w⟩ : State))
          (hsettle (f := afSwitchComplete t) (by simp [afSwitchComplete, hr, hs, hstep]))
    have hzz := (hzone z).trans (if_pos hfading)
    rw [hrl]
    refine ⟨(hmem _).mpr rfl, fun k hk => (hmem k).mp hk, ?_, ?_, ?_, fun u => ?_, ?_, ?_, ?_, fun x h1 h2 h3 => ?_,
      fun x h1 h2 => ?_, ?_, ?_, ?_⟩
    · exact congrArg Tuner.claims hmt
    · exact congrArg Tuner.state hmt
    · exact (congrArg Tuner.state hmu).trans hso
    · have hstate := congrArg Follow.state (hmf u)
      have hlast := congrArg Follow.lastCheck (hmf u)
      exact ⟨hstate, hlast⟩
    · exact congrArg Zone.att hzz
    · exact congrArg Zone.att2 hzz
    · exact congrArg Zone.chan hzz
    · have hx := (hzone x).trans (if_pos (mem_zonesFading.mpr (.inr ⟨h1, h3, h2⟩)))
      exact ⟨congrArg Zone.att hx, congrArg Zone.att2 hx, congrArg Zone.chan hx⟩
    · exact (hzone x).trans (if_neg (not_mem_zonesFading h1 h2))
    · rw [hmeq]
      exact hsent
    · rw [hmeq, hb]
      rfl
    · rw [hmeq, hb]
      rfl

end Sys2Proof.Machine
end

section
/-! PROOFS. A seek steps through the band and ends (O32). -/

namespace Sys2Proof.Machine

/-! ### The channels of a band -/

theorem validFreq_iff {b : Band} {f : Nat} : validFreq b f = true
    ↔ bandBottom b ≤ f ∧ f ≤ bandTop b ∧ (f - bandBottom b) % bandStep b = 0 := by
  simp [validFreq, and_assoc]

theorem nextFreq_up (b : Band) (f : Nat) : bandTop b < f + bandStep b ∧ nextFreq b true f = bandBottom b
    ∨ f + bandStep b ≤ bandTop b ∧ nextFreq b true f = f + bandStep b := by
  by_cases h : bandTop b < f + bandStep b
  · exact .inl ⟨h, by simp [nextFreq, h]⟩
  · exact .inr ⟨not_lt.mp h, by simp [nextFreq, h]⟩

theorem nextFreq_down (b : Band) (f : Nat) : f < bandBottom b + bandStep b ∧ nextFreq b false f = bandTop b
    ∨ bandBottom b + bandStep b ≤ f ∧ nextFreq b false f = f - bandStep b := by
  by_cases h : f < bandBottom b + bandStep b
  · exact .inl ⟨h, by simp [nextFreq, h]⟩
  · exact .inr ⟨not_lt.mp h, by simp [nextFreq, h]⟩

/-- The channels next to a valid one are valid, and the one is the other's next; the ends of the band meet (R74). -/
theorem nextFreq_valid {b : Band} {f : Nat} (h : validFreq b f = true) : validFreq b (nextFreq b true f) = true
    ∧ validFreq b (nextFreq b false f) = true ∧ nextFreq b false (nextFreq b true f) = f
    ∧ nextFreq b true (bandTop b) = bandBottom b ∧ nextFreq b false (bandBottom b) = bandTop b := by
  have hup := nextFreq_up b f
  have hdown := nextFreq_down b f
  have hback := nextFreq_down b (nextFreq b true f)
  have htop := nextFreq_up b (bandTop b)
  have hbottom := nextFreq_down b (bandBottom b)
  rw [validFreq_iff] at h ⊢
  rw [validFreq_iff]
  generalize nextFreq b true f = u, nextFreq b false f = d, nextFreq b true (bandTop b) = m at *
  generalize nextFreq b false u = x, nextFreq b false (bandBottom b) = y at *
  cases b <;> simp only [bandBottom, bandTop, bandStep] at * <;> omega

/-! ### A seek's step -/

/-- The record of a seek as its next step starts (R74). -/
def Seek.next (k : Seek) (c : Chan) : Seek :=
  { k with reports := 0, returning := nextFreq c.band k.up c.freq == k.start }

/-- The channel of a seek's next step (R74). -/
def Seek.nextChan (k : Seek) (c : Chan) : Chan := ⟨c.band, nextFreq c.band k.up c.freq⟩

/-- The next step of a seek tunes the tuner to the next channel, and does nothing else (R74). -/
theorem seekStep_only {t : TunerId} {k : Seek} {c : Chan} {p : Part} (ha : p.hasAddress t = true)
    (hr : (p.tuner t).retry = none) :
    ∃ tu lb, seekStep t k c p = { p with tuc := tu, stm := { p.stm with labels := lb } }
      ∧ tu.tuners = p.tuc.tuners.set t (tunedRecord (k.nextChan c) none false
          { p.tuner t with seek := some (k.next c) })
      ∧ (t, LinkCmd.tune (k.nextChan c)) ∈ tu.link.toList ++ tu.queue := by
  obtain ⟨m, hm⟩ : ∃ m, m = p.setTuner t { p.tuner t with seek := some (k.next c) } := ⟨_, rfl⟩
  have hmt : m.tuner t = { p.tuner t with seek := some (k.next c) } := by rw [hm]; simp
  obtain ⟨tu, lb, e, htu, hsent⟩ := tuneStart_issued (t := t) (c := k.nextChan c) (note := none) (p := m) false
    (by rw [hm]; exact ha) (by rw [hmt]; exact hr)
  have hstep : seekStep t k c p = tuneStart t (k.nextChan c) none false m := by rw [hm]; rfl
  refine ⟨tu, lb, by rw [hstep, e, hm]; rfl, ?_, hsent⟩
  rw [htu, hmt, hm]
  cases t <;> rfl

/-! ### The request -/

theorem exec_seek_done {h : ReqHeader} {n d : Nat} {p q : Part} {r : Result} (w : List Instr)
    (ht : p.takes 0x31 h = true) (hz : seekRequest n d p = (r, q)) (hq : q.quiet = true) :
    exec (.seek h n d) ⟨p, w⟩ = .next ⟨answered 0x31 h r [] (noteReports p q), w⟩ := by
  refine (congrArg (fun q => Host.Outcome.next (⟨q, w⟩ : State)) (ringRequest_taken ht (by decide))).trans ?_
  rw [settling_quiet hz hq]

theorem exec_seek_refused {h : ReqHeader} {n d : Nat} {p : Part} {r : Result} (w : List Instr)
    (ht : p.takes 0x31 h = true) (hq : p.quiet = true) (hz : seekRequest n d p = (r, p)) :
    exec (.seek h n d) ⟨p, w⟩ = .next ⟨answered 0x31 h r [] p, w⟩ := by
  rw [exec_seek_done w ht hz hq, noteReports_same fun _ => rfl]

theorem seekRequest_zone (z : ZoneId) (up : Bool) (p : Part) :
    seekRequest (zoneCode z) (if up then 0 else 1) p = seekZone z up p := by
  unfold seekRequest
  cases up <;> rw [if_neg (by decide), onZone_zoneCode] <;> rfl

/-- SEEK with no claim of the zone's standing, and no tuner to be had (R73). -/
theorem seekZone_busy {z : ZoneId} {a : Claimant} {c : Chan} {p : Part} (up : Bool) (ha : claimantOf z = some a)
    (hc : (p.zone z).chan = some c) (hon : (p.zone z).state ≠ .off) (hs : (p.zone z).source = .radio)
    (hm : p.pwc.mode = .active) (hown : p.holding a = none) (harb : p.arbitrate a c none false = none) :
    seekZone z up p = (.tunerBusy, p) := by
  unfold seekZone
  rw [ha, hc]
  dsimp only
  rw [if_neg (by simp [hon, hs]), if_neg (by simp [Part.isActive, hm]), hown]
  dsimp only [Option.filter_none, Option.bind_none, Option.getD_none]
  rw [harb]

/-- SEEK on the tuner that the zone's claim alone holds (R73). -/
theorem seekZone_alone {z : ZoneId} {a : Claimant} {t : TunerId} {c : Chan} {p : Part} (up : Bool)
    (ha : claimantOf z = some a) (hc : (p.zone z).chan = some c) (hon : (p.zone z).state ≠ .off)
    (hs : (p.zone z).source = .radio) (hm : p.pwc.mode = .active) (hplays : p.playsOn t = true)
    (hcl : (p.tuner t).claims = [⟨a, false⟩]) (ho : ∀ k ∈ (p.tuner t.other).claims, k.who ≠ a) :
    seekZone z up p = (.ok, startSeek z t up c (p.setFollow t (p.follow t).ended)) := by
  obtain ⟨-, -, -, hseek, -, -, -, hmon, hosw, -⟩ := playsOn_iff.mp hplays
  have hsw : p.switching t = false := switching_of_monitor hmon
  have hown : p.holding a = some t := by
    have hno : ((p.tuner t.other).claims.any fun k => k.who == a && !k.prov) = false := by
      rw [← Bool.not_eq_true, List.any_eq_true]
      rintro ⟨k, hk, hka⟩
      simp only [Bool.and_eq_true, beq_iff_eq] at hka
      exact ho k hk hka.1
    cases t with
    | a => simp [Part.holding, TunerId.all, hcl]
    | b =>
      change ((p.tuner .a).claims.any fun k => k.who == a && !k.prov) = false at hno
      simp [Part.holding, TunerId.all, hcl, hno]
  have hmove : p.freeToMove a t = true := by simp [Part.freeToMove, hcl, hsw, hosw]
  unfold seekZone
  rw [ha, hc]
  dsimp only
  rw [if_neg (by simp [hon, hs]), if_neg (by simp [Part.isActive, hm]), hown]
  simp only [abandonSwitch_none hsw, Option.filter_some, hmove, if_true, hseek, Option.any_none, Bool.false_eq_true,
    if_false, Option.bind_none, Option.getD_none, clearOwn_alone hcl hseek]

/-- A seek's start attaches the zone, which waits, and makes the seek's first step (R73). -/
theorem startSeek_only {z : ZoneId} {t : TunerId} {c : Chan} {p : Part} (up : Bool) (ha : p.hasAddress t = true)
    (hr : (p.tuner t).retry = none) :
    ∃ tu zm lb, startSeek z t up c p = { p with tuc := tu, zmx := zm, stm := { p.stm with labels := lb } }
      ∧ tu.tuners = p.tuc.tuners.set t (tunedRecord ⟨c.band, nextFreq c.band up c.freq⟩ none false
          { p.tuner t with seek := some { zone := z, up := up, start := c.freq, reports := 0
                                          returning := nextFreq c.band up c.freq == c.freq } })
      ∧ (t, LinkCmd.tune ⟨c.band, nextFreq c.band up c.freq⟩) ∈ tu.link.toList ++ tu.queue
      ∧ zm.zones.get z = { p.zone z with att := some t, att2 := none, held := none, state := .pending } := by
  obtain ⟨m, hm⟩ : ∃ m, m = (attach z t none p).setZone z { (attach z t none p).zone z with state := .pending } :=
    ⟨_, rfl⟩
  obtain ⟨tu, lb, e, htu, hsent⟩ := seekStep_only (t := t) (k := { zone := z, up := up, start := c.freq }) (c := c)
    (p := m)
    (by rw [hm]; exact ha) (by rw [hm]; exact hr)
  have hstart : startSeek z t up c p = seekStep t { zone := z, up := up, start := c.freq } c m := by rw [hm]; rfl
  refine ⟨tu, m.zmx, lb, by rw [hstart, e, hm]; rfl, by rw [htu, hm]; rfl, hsent, ?_⟩
  show m.zone z = _
  rw [hm]
  simp [attach]

/-- The part after SEEK is taken by a quiet one (R73). -/
theorem startSeek_quiet {z : ZoneId} {t : TunerId} {c : Chan} {p : Part} (up : Bool) (hq : p.quiet = true)
    (ha : p.hasAddress t = true) (hr : (p.tuner t).retry = none) : (startSeek z t up c p).quiet = true := by
  obtain ⟨tu, zm, lb, e, htu, -, -⟩ := startSeek_only (z := z) (c := c) up ha hr
  obtain ⟨m, hm⟩ : ∃ m, m = startSeek z t up c p := ⟨_, rfl⟩
  have hmeq := hm.trans e
  rw [← hm]
  refine quiet_of hq (by rw [hmeq]) (by rw [hmeq]) (by rw [hmeq]) (by rw [hmeq]) (fun u x hx _ => ?_)
    fun u => .inl (by rw [hmeq]; rfl)
  rw [hmeq] at hx
  change x ∈ (tu.tuners.get u).claims at hx
  rwa [htu, claims_setTuner (by rfl)] at hx

/-! ### A seek's end -/

/-- A report counted by a seek (R74). -/
theorem countReport_seek {t : TunerId} {k : Seek} {p : Part} (hk : (p.tuner t).seek = some k) :
    countReport t p = if k.reports + 1 == 3 && !k.returning then
        seekJudge t { k with reports := k.reports + 1 }
          (p.setTuner t { p.tuner t with seek := some { k with reports := k.reports + 1 } })
      else p.setTuner t { p.tuner t with seek := some { k with reports := k.reports + 1 } } := by
  unfold countReport
  conv_lhs => dsimp only; rw [hk]; dsimp only

/-- What is at rest stays so under one tuner's record with its claims as they were. -/
theorem still_setTuner {p q : Part} {t : TunerId} {r : Tuner} (h : p.still = true) (ht : q.tst = p.tst)
    (hs : q.stm.watch = p.stm.watch ∧ q.stm.watchState = p.stm.watchState
      ∧ q.stm.bulletin.latch = p.stm.bulletin.latch ∧ q.stm.follow = p.stm.follow)
    (hu : q.tuc.tuners = p.tuc.tuners.set t r) (hc : r.claims = (p.tuner t).claims) : q.still = true := by
  obtain ⟨hw, hws, hb, hf⟩ := hs
  have hradio : q.radioCfg = p.radioCfg := by unfold Part.radioCfg Part.unitPoisoned; rw [ht]
  refine still_of h hb hradio (.inl hw) (hws.trans (watchState_of_still h)) (fun u => ⟨fun _ => true, ?_⟩)
    fun u => .inl ?_
  · show (q.tuc.tuners.get u).claims = _
    rw [hu, claims_setTuner hc]
    simp
  · unfold Part.follow
    rw [hf]

/-- No low-quality timer runs in a part at rest. -/
theorem lowTimer_of_still {p : Part} (h : p.still = true) (t : TunerId) : (p.follow t).lowTimer = false := by
  simp only [Part.still, Bool.and_eq_true, Bool.not_eq_true'] at h
  obtain ⟨⟨-, ha⟩, hb⟩ := h
  cases t
  · exact ha
  · exact hb

/-- A report behind which no quality is watched: following is off, or no code is heard (R88). -/
theorem watchQuality_unheard {t : TunerId} {p q : Part} (hst : p.still = true) (hl : p.tst.latent = [])
    (haf : p.radioCfg.afEnable = false ∨ (p.tuner t).heard = none) (ht : q.tst = p.tst)
    (hf : q.stm.follow = p.stm.follow) (hh : (q.tuner t).heard = (p.tuner t).heard ∨ (q.tuner t).heard = none) :
    watchQuality t q = q := by
  have hradio : q.radioCfg = p.radioCfg := by unfold Part.radioCfg Part.unitPoisoned; rw [ht]
  refine watchQuality_idle (by rw [ht]; exact hl) (not_eligible ?_) ?_
  · rcases hh with hh | hh
    · rwa [hradio, hh]
    · exact .inr hh
  · unfold Part.follow
    rw [hf]
    exact lowTimer_of_still hst t

theorem watchQuality_endSeek {t : TunerId} {k : Seek} {b : Bool} {c : Chan} {r : Tuner} {p : Part}
    (hst : p.still = true)
    (hl : p.tst.latent = []) (haf : p.radioCfg.afEnable = false ∨ (p.tuner t).heard = none) (hc : r.chan = some c)
    (hh : r.heard = (p.tuner t).heard) :
    watchQuality t (endSeek t k b (p.setTuner t r)) = endSeek t k b (p.setTuner t r) := by
  obtain ⟨zm, e, -⟩ := endSeek_only (t := t) (k := k) (b := b) (c := c) (p := p.setTuner t r) hl
    (by rw [Part.tuner_setTuner_self]; exact hc)
  obtain ⟨m, hm⟩ : ∃ m, m = endSeek t k b (p.setTuner t r) := ⟨_, rfl⟩
  have hmeq := hm.trans e
  have hmt : m.tuner t = { r with state := .playing, seek := none } := by
    rw [hmeq]
    cases t <;> rfl
  rw [← hm]
  exact watchQuality_unheard hst hl haf (by rw [hmeq]; rfl) (by rw [hmeq]; rfl)
    (.inl ((congrArg Tuner.heard hmt).trans hh))

theorem watchQuality_seekStep {t : TunerId} {k : Seek} {c : Chan} {r : Tuner} {p : Part} (hst : p.still = true)
    (hl : p.tst.latent = []) (haf : p.radioCfg.afEnable = false ∨ (p.tuner t).heard = none)
    (ha : p.hasAddress t = true) (hr : r.retry = none) :
    watchQuality t (seekStep t k c (p.setTuner t r)) = seekStep t k c (p.setTuner t r) := by
  obtain ⟨tu, lb, e, htu, -⟩ := seekStep_only (t := t) (k := k) (c := c) (p := p.setTuner t r) ha
    (by rw [Part.tuner_setTuner_self]; exact hr)
  obtain ⟨m, hm⟩ : ∃ m, m = seekStep t k c (p.setTuner t r) := ⟨_, rfl⟩
  have hmeq := hm.trans e
  have hmt : m.tuner t = tunedRecord (k.nextChan c) none false
      { (p.setTuner t r).tuner t with seek := some (k.next c) } := by
    rw [hmeq]
    show tu.tuners.get t = _
    rw [htu, PerTuner.get_set_self]
  rw [← hm]
  exact watchQuality_unheard hst hl haf (by rw [hmeq]; rfl) (by rw [hmeq]; rfl) (.inr (congrArg Tuner.heard hmt))

/-- The tune that brings a seek back to its start completes, and ends the seek (R74). -/
theorem completeTune_returning {t : TunerId} {k : Seek} {r : Tuner} {p : Part} (hs : r.state = .tuning)
    (hk : r.seek = some k) (hret : k.returning = true) : completeTune t (p.setTuner t r)
      = endSeek t k false (p.setTuner t { r with settle := false, done := true }) := by
  have hm : (p.setTuner t r).setTuner t { (p.setTuner t r).tuner t with settle := false, done := true }
      = p.setTuner t { r with settle := false, done := true } := by
    cases t <;> rfl
  rw [completeTune, hm]
  obtain ⟨q, hq⟩ : ∃ q, q = p.setTuner t { r with settle := false, done := true } := ⟨_, rfl⟩
  have hqt : q.tuner t = { r with settle := false, done := true } := by rw [hq]; simp
  have hqs : (q.tuner t).state = .tuning := (congrArg Tuner.state hqt).trans hs
  have hqk : (q.tuner t).seek = some k := (congrArg Tuner.seek hqt).trans hk
  rw [← hq]
  unfold completed
  dsimp only
  rw [hqs, hqk]
  dsimp only
  rw [if_pos hret]

/-- An event that ends a seek of a part at rest: what it leaves (R74). -/
theorem settle_endSeek {f : Part → Part} {t : TunerId} {k : Seek} {b : Bool} {c : Chan} {r : Tuner} {p : Part}
    (hst : p.still = true) (hl : p.tst.latent = []) (hf : f p = endSeek t k b (p.setTuner t r)) (hc : r.chan = some c)
    (hcl : r.claims = (p.tuner t).claims) (hd : r.done = true) :
    ∃ q, settle f p = q ∧ (q.tuner t).state = .playing ∧ (q.tuner t).seek = none ∧ (q.tuner t).done = true
      ∧ (q.tuner t).chan = some c ∧ (q.tuner t).claims = (p.tuner t).claims
      ∧ (∀ z, q.zone z = if z = k.zone then { p.zone z with
          chan := some c, station := p.holderOf c
          code := ((p.holderOf c).bind p.station).map Station.code } else p.zone z)
      ∧ q.nfu = p.nfu.post .seekDone (zoneCode k.zone) (if b then some c.freq else none)
      ∧ q = { p with tuc := q.tuc, zmx := q.zmx, nfu := q.nfu, rlu := q.rlu } := by
  obtain ⟨zm, e, hz⟩ := endSeek_only (t := t) (k := k) (b := b) (c := c) (p := p.setTuner t r) hl
    (by rw [Part.tuner_setTuner_self]; exact hc)
  rw [Part.tuner_setTuner_self] at e
  obtain ⟨m, hm⟩ : ∃ m, m = endSeek t k b (p.setTuner t r) := ⟨_, rfl⟩
  have hmeq := hm.trans e
  have htuc : m.tuc = { p.tuc with tuners := p.tuc.tuners.set t { r with state := .playing, seek := none } } := by
    rw [hmeq]
    cases t <;> rfl
  have hmt : m.tuner t = { r with state := .playing, seek := none } := by
    unfold Part.tuner
    rw [htuc, PerTuner.get_set_self]
  have hmst : m.still = true :=
    still_setTuner (t := t) (r := { r with state := .playing, seek := none }) hst (by rw [hmeq]; rfl)
      (by rw [hmeq]; exact ⟨rfl, rfl, rfl, rfl⟩) (by rw [htuc]) hcl
  obtain ⟨rl, hrl⟩ := noteReports_eq p m
  refine ⟨noteReports p m, ?_, ?_⟩
  · rw [settle, hf, ← hm, stmSettle_still hmst (by rw [hmeq]; exact hl)]
  rw [← hm] at hz
  rw [hrl]
  refine ⟨?_, ?_, ?_, ?_, ?_, hz, ?_, ?_⟩
  · exact congrArg Tuner.state hmt
  · exact congrArg Tuner.seek hmt
  · exact (congrArg Tuner.done hmt).trans hd
  · exact (congrArg Tuner.chan hmt).trans hc
  · exact (congrArg Tuner.claims hmt).trans hcl
  · rw [hmeq]
    rfl
  · rw [hmeq]
    rfl

/-- An event that steps a seek of a part at rest: what it leaves (R74). -/
theorem settle_seekStep {f : Part → Part} {t : TunerId} {k : Seek} {c : Chan} {r : Tuner} {p : Part}
    (hst : p.quiet = true ∨ p.still = true ∧ p.tst.latent = [])
    (hf : f p = seekStep t k c (p.setTuner t r)) (hcl : r.claims = (p.tuner t).claims)
    (ha : p.hasAddress t = true) (hr : r.retry = none) :
    ∃ q, settle f p = q ∧ (q.tuner t).state = .tuning ∧ (q.tuner t).chan = some ⟨c.band, nextFreq c.band k.up c.freq⟩
      ∧ (q.tuner t).seek = some { k with reports := 0, returning := nextFreq c.band k.up c.freq == k.start }
      ∧ (t, LinkCmd.tune ⟨c.band, nextFreq c.band k.up c.freq⟩) ∈ q.tuc.link.toList ++ q.tuc.queue
      ∧ q = { p with tuc := q.tuc, stm := { p.stm with labels := q.stm.labels } } := by
  obtain ⟨tu, lb, e, htu, hsent⟩ := seekStep_only (t := t) (k := k) (c := c) (p := p.setTuner t r) ha
    (by rw [Part.tuner_setTuner_self]; exact hr)
  rw [Part.tuner_setTuner_self] at htu
  obtain ⟨m, hm⟩ : ∃ m, m = seekStep t k c (p.setTuner t r) := ⟨_, rfl⟩
  have hmeq := hm.trans e
  have htuners : tu.tuners = p.tuc.tuners.set t (tunedRecord (k.nextChan c) none false
    { r with seek := some (k.next c) }) := by
    rw [htu]
    cases t <;> rfl
  have hmt : m.tuner t = tunedRecord (k.nextChan c) none false { r with seek := some (k.next c) } := by
    rw [hmeq]
    show tu.tuners.get _ = _
    rw [htuners, PerTuner.get_set_self]
  have hsettled : stmSettle p m = m := by
    rcases hst with hq | ⟨hst, hl⟩
    · refine stmSettle_quiet (quiet_of hq (by rw [hmeq]; rfl) (by rw [hmeq]; rfl) (by rw [hmeq]; rfl)
        (by rw [hmeq]; rfl)
        (fun u x hx _ => ?_) fun u => .inl (by rw [hmeq]; rfl))
      rw [hmeq] at hx
      change x ∈ (tu.tuners.get u).claims at hx
      rwa [htuners, claims_setTuner (by exact hcl)] at hx
    · refine stmSettle_still (still_setTuner (t := t)
        (r := tunedRecord (k.nextChan c) none false { r with seek := some (k.next c) }) hst (by rw [hmeq]; rfl)
        (by rw [hmeq]; exact ⟨rfl, rfl, rfl, rfl⟩) (by rw [hmeq]; exact htuners) hcl) ?_
      rw [hmeq]
      exact hl
  refine ⟨m, ?_, ?_, ?_, ?_, ?_, ?_⟩
  · rw [settle, hf, ← hm, hsettled]
    exact noteReports_same fun x => by rw [hmeq]; rfl
  · exact congrArg Tuner.state hmt
  · exact congrArg Tuner.chan hmt
  · exact congrArg Tuner.seek hmt
  · rw [hmeq]
    exact hsent
  · rw [hmeq]
    rfl

/-- Settles O32. -/
theorem seekStepsThroughTheBand : Obligations.SeekStepsThroughTheBand := by
  refine ⟨fun h z up p w ht hq => ?request, fun t k c p w hr hq hk hc hret => ⟨fun hd => ?untuned,
    fun hd ha hs hre => ?timeout⟩, fun t k c p w hst hl hk hc hs haf =>
      ⟨fun fs mp adj settled pilot ha hd hret => ?report,
      fun hd hret => ?back⟩, fun b f hf => nextFreq_valid hf⟩
  case request =>
    refine ⟨fun hown => ?_, fun hown hno => ?_, fun c hc hown hon hs hm => ?_, fun a c ha hc hon hs hm hown harb => ?_,
      fun n hn => ?_, fun a t c ha hc hon hs hm' hplays hcl ho haddr => ?_⟩
    · refine exec_seek_refused w ht hq ?_
      have hnone : claimantOf z = none := by
        cases hn : claimantOf z with
        | none => rfl
        | some a => exact absurd (ownSource_iff.mpr ⟨a, hn⟩) (by rw [hown]; decide)
      rw [seekRequest_zone, seekZone, hnone]
    · obtain ⟨a, ha⟩ := ownSource_iff.mp hown
      refine exec_seek_refused w ht hq ?_
      rw [seekRequest_zone, seekZone, ha]
      cases hc : (p.zone z).chan with
      | none => rfl
      | some c =>
        have hor : (p.zone z).state = .off ∨ (p.zone z).source ≠ .radio := hno.resolve_left (by rw [hc]; exact nofun)
        dsimp only
        rw [if_pos (by simpa using hor)]
    · obtain ⟨a, ha⟩ := ownSource_iff.mp hown
      refine exec_seek_refused w ht hq ?_
      rw [seekRequest_zone, seekZone, ha, hc]
      dsimp only
      rw [if_neg (by simp [hon, hs]), if_pos (by simp [Part.isActive, hm])]
    · refine exec_seek_refused w ht hq ?_
      rw [seekRequest_zone, seekZone_busy up ha hc hon hs hm hown harb]
    · refine exec_seek_refused w ht hq ?_
      rw [seekRequest, if_pos (by omega)]
    · obtain ⟨-, -, -, -, -, hre, -, -, -, -⟩ := playsOn_iff.mp hplays
      obtain ⟨m, hm⟩ : ∃ m, m = p.setFollow t (p.follow t).ended := ⟨_, rfl⟩
      have hmq : m.quiet = true := by
        rw [hm]
        exact quiet_of hq rfl rfl rfl rfl (fun u x hx _ => hx) fun u => by
          by_cases hu : u = t
          · exact .inr (by rw [hu]; simp [Follow.ended])
          · exact .inl (by simp [hu])
      have hma : m.hasAddress t = true := by rw [hm]; exact haddr
      have hmr : (m.tuner t).retry = none := by rw [hm]; exact hre
      obtain ⟨tu, zm, lb, e, htu, hsent, hzone⟩ := startSeek_only (z := z) (c := c) up hma hmr
      obtain ⟨s, hs'⟩ : ∃ s, s = startSeek z t up c m := ⟨_, rfl⟩
      have hseq := hs'.trans e
      have hsq : s.quiet = true := by rw [hs']; exact startSeek_quiet up hmq hma hmr
      have hst : s.tuner t = tunedRecord ⟨c.band, nextFreq c.band up c.freq⟩ none false
          { m.tuner t with seek := some { zone := z, up := up, start := c.freq, reports := 0
                                          returning := nextFreq c.band up c.freq == c.freq } } := by
        rw [hseq]
        show tu.tuners.get t = _
        rw [htu, PerTuner.get_set_self]
      have hsz : s.zone z = { m.zone z with att := some t, att2 := none, held := none, state := .pending } := by
        rw [hseq]
        exact hzone
      have hrun : seekRequest (zoneCode z) (if up then 0 else 1) p = (.ok, s) := by
        rw [seekRequest_zone, seekZone_alone up ha hc hon hs hm' hplays hcl ho, hs', hm]
      obtain ⟨rl, hrl⟩ := noteReports_eq p s
      refine ⟨noteReports p s, exec_seek_done w ht hrun hsq, ?_⟩
      rw [hrl]
      refine ⟨congrArg Tuner.state hst, congrArg Tuner.chan hst, ?_, congrArg Tuner.seek hst, ?_,
        congrArg Zone.state hsz, ?_, ?_, ?_⟩
      · exact (congrArg Tuner.claims hst).trans (by rw [hm]; exact hcl)
      · rw [hseq]
        exact hsent
      · exact (congrArg Zone.chan hsz).trans (by rw [hm]; exact hc)
      · rw [hseq, hm]
        rfl
      · rw [hseq, hm]
        rfl
  case untuned =>
    have hrun : seekJudgeTimeout t p = p := by simp [seekJudgeTimeout, hk, hc, hd]
    exact congrArg (fun q => Host.Outcome.next (⟨q, w⟩ : State)) (settle_quiet hrun hq rfl)
  case timeout =>
    have hrun : seekJudgeTimeout t p = seekStep t k c (p.setTuner t (p.tuner t)) := by
      simp [seekJudgeTimeout, hk, hc, hr, hd, hret]
    obtain ⟨q, e, h⟩ := settle_seekStep (.inl hq) hrun rfl ha hre
    exact ⟨q, congrArg (fun q => Host.Outcome.next (⟨q, w⟩ : State)) e, h⟩
  case report =>
    dsimp only
    obtain ⟨m, hm⟩ : ∃ m, m = p.setTuner t (reported t fs mp adj pilot p) := ⟨_, rfl⟩
    have hmt : m.tuner t = reported t fs mp adj pilot p := by rw [hm]; simp
    have htake : takeScores t settled m = countReport t m := by
      rw [takeScores, hmt, if_pos (by simpa [Tuner.scored] using hd)]
    have hcount := countReport_seek (t := t) (k := k) (p := m) (by rw [hmt]; exact hk)
    have happlied := qualityReport_applied fs mp adj settled pilot hl (by simp [Tuner.working, hs]) ha
    rw [← hm, htake, hcount] at happlied
    have hcounted : m.setTuner t { m.tuner t with seek := some { k with reports := k.reports + 1 } }
        = p.setTuner t { reported t fs mp adj pilot p with seek := some { k with reports := k.reports + 1 } } := by
      rw [hmt, hm]
      cases t <;> rfl
    rw [hcounted] at happlied
    have hcfg : (p.setTuner t { reported t fs mp adj pilot p with
        seek := some { k with reports := k.reports + 1 } }).radioCfg = p.radioCfg := rfl
    have hscore : (reported t fs mp adj pilot p).s = (p.tuner t).s - (p.tuner t).s / 8 + 2 * (max 0 (min 100
        (2 * ((fs : Int) - p.radioCfg.fsFloor) - (mp : Int) / 8 - (adj : Int) / 16))).toNat := by
      rw [← rawScore_eq]
      rfl
    rw [← hscore]
    obtain ⟨r, hrec⟩ : ∃ r, r = { reported t fs mp adj pilot p with
      seek := some { k with reports := k.reports + 1 } } := ⟨_, rfl⟩
    rw [← hrec] at happlied
    have hrc : r.chan = some c := by rw [hrec]; exact hc
    have hrcl : r.claims = (p.tuner t).claims := by rw [hrec]; rfl
    have hrd : r.done = true := by rw [hrec]; exact hd
    have hrh : r.heard = (p.tuner t).heard := by rw [hrec]; rfl
    have hpt : (p.setTuner t r).tuner t = r := by simp
    have hjudge : seekJudge t { k with reports := k.reports + 1 } (p.setTuner t r)
        = if p.radioCfg.seekThreshold ≤ (reported t fs mp adj pilot p).s / 16
          then endSeek t { k with reports := k.reports + 1 } true (p.setTuner t r)
          else seekStep t { k with reports := k.reports + 1 } c (p.setTuner t r) := by
      unfold seekJudge
      rw [hpt, hrc, hrec]
      rfl
    refine ⟨fun hk2 => ?_, fun hk2 hth => ?_, fun hk2 hth haddr hre => ?_⟩
    · have hrun : qualityReport t fs mp adj settled pilot p = p.setTuner t r := by
        rw [happlied, if_neg (by simp [hret]; omega)]
        exact watchQuality_unheard hst hl haf rfl rfl (.inl (by rw [hpt, hrh]))
      have hqst : (p.setTuner t r).still = true := still_setTuner hst rfl ⟨rfl, rfl, rfl, rfl⟩ rfl hrcl
      refine ⟨p.setTuner t r, ?_, ?_⟩
      · refine congrArg (fun q => Host.Outcome.next (⟨q, w⟩ : State)) ?_
        rw [settle, hrun, stmSettle_still hqst hl]
        exact noteReports_same fun _ => rfl
      · rw [hpt, hrec]
        exact ⟨rfl, hs, hc, rfl, rfl⟩
    · rw [if_pos (by simp [hk2, hret]), hjudge, if_pos hth] at happlied
      have hrun : qualityReport t fs mp adj settled pilot p
          = endSeek t { k with reports := k.reports + 1 } true (p.setTuner t r) := by
        rw [happlied, watchQuality_endSeek hst hl haf hrc hrh]
      obtain ⟨q, e, hq⟩ := settle_endSeek hst hl hrun hrc hrcl hrd
      exact ⟨q, congrArg (fun q => Host.Outcome.next (⟨q, w⟩ : State)) e, hq⟩
    · rw [if_pos (by simp [hk2, hret]), hjudge, if_neg (by omega)] at happlied
      have hrun : qualityReport t fs mp adj settled pilot p
          = seekStep t { k with reports := k.reports + 1 } c (p.setTuner t r) := by
        rw [happlied, watchQuality_seekStep hst hl haf haddr (by rw [hrec]; exact hre)]
      obtain ⟨q, e, hq⟩ := settle_seekStep (.inr ⟨hst, hl⟩) hrun hrcl haddr (by rw [hrec]; exact hre)
      exact ⟨q, congrArg (fun q => Host.Outcome.next (⟨q, w⟩ : State)) e, hq⟩
  case back =>
    refine ⟨fun fs mp adj pilot ha => ?_, fun hr hse => ?_⟩
    · have happlied := qualityReport_applied fs mp adj true pilot hl (by simp [Tuner.working, hs]) ha
      have htake : takeScores t true (p.setTuner t (reported t fs mp adj pilot p))
          = endSeek t k false (p.setTuner t { reported t fs mp adj pilot p with settle := false, done := true }) := by
        rw [takeScores, Part.tuner_setTuner_self, if_neg (by simp [Tuner.scored, hd]), if_pos rfl]
        exact completeTune_returning (r := reported t fs mp adj pilot p) hs hk hret
      rw [htake, watchQuality_endSeek hst hl haf (by exact hc) (by rfl)] at happlied
      obtain ⟨q, e, hq⟩ := settle_endSeek (c := c) hst hl happlied (by exact hc) (by rfl) (by rfl)
      exact ⟨q, congrArg (fun q => Host.Outcome.next (⟨q, w⟩ : State)) e, hq⟩
    · have hrun : settleTimeout t p
          = endSeek t k false (p.setTuner t { timedOut t p with settle := false, done := true }) := by
        rw [← completeTune_returning (r := timedOut t p) hs hk hret]
        simp only [settleTimeout, hr, hse, Bool.and_self, if_true, ownerReads_clean _ hl]
        rfl
      obtain ⟨q, e, hq⟩ := settle_endSeek (c := c) hst hl hrun (by exact hc) (by rfl) (by rfl)
      exact ⟨q, congrArg (fun q => Host.Outcome.next (⟨q, w⟩ : State)) e, hq⟩

end Sys2Proof.Machine
end

section
/-! PROOFS. A scan moves up the band (O33). -/

namespace Sys2Proof.Machine

/-! ### What sheds claims -/

/-- From `p` to `q` claims may only have gone: what the Station Manager keeps up and what is posted stand as they
were. -/
structure ShedsClaims (p q : Part) : Prop where
  nfu : q.nfu = p.nfu
  latent : q.tst.latent = p.tst.latent
  radio : q.radioCfg = p.radioCfg
  bulletin : q.stm.bulletin = p.stm.bulletin
  watch : q.stm.watch = p.stm.watch
  watchState : q.stm.watchState = p.stm.watchState
  scan : q.stm.scan = p.stm.scan
  claims : ∀ t, ∀ k ∈ (q.tuner t).claims, k ∈ (p.tuner t).claims

theorem ShedsClaims.refl (p : Part) : ShedsClaims p p := ⟨rfl, rfl, rfl, rfl, rfl, rfl, rfl, fun _ _ h => h⟩

theorem ShedsClaims.trans {p q r : Part} (h : ShedsClaims p q) (g : ShedsClaims q r) : ShedsClaims p r where
  nfu := g.nfu.trans h.nfu
  latent := g.latent.trans h.latent
  radio := g.radio.trans h.radio
  bulletin := g.bulletin.trans h.bulletin
  watch := g.watch.trans h.watch
  watchState := g.watchState.trans h.watchState
  scan := g.scan.trans h.scan
  claims t k hk := h.claims t k (g.claims t k hk)

/-- What sheds claims and leaves the tables and the Station Manager, but for the following of the tuners. -/
theorem shedsClaims_of {p q : Part} (hn : q.nfu = p.nfu) (ht : q.tst = p.tst)
    (hs : ∃ f, q.stm = { p.stm with follow := f }) (hc : ∀ t, ∀ k ∈ (q.tuner t).claims, k ∈ (p.tuner t).claims) :
    ShedsClaims p q := by
  obtain ⟨f, hs⟩ := hs
  exact ⟨hn, by rw [ht], by unfold Part.radioCfg Part.unitPoisoned; rw [ht], by rw [hs], by rw [hs], by rw [hs],
    by rw [hs], hc⟩

theorem idleIfFree_sheds (t : TunerId) (p : Part) : ShedsClaims p (idleIfFree t p) := by
  obtain ⟨tu, f, e, hc, -⟩ := idleIfFree_only t p
  rw [e]
  exact shedsClaims_of rfl rfl ⟨f, rfl⟩ fun u k hk => by rwa [← (hc u).1]

theorem storeQuality_sheds (c : Chan) (n : Nat) {p : Part} (hl : p.tst.latent = []) :
    ShedsClaims p (storeQuality c n p) := by
  obtain ⟨st, e⟩ := storeQuality_only c n hl
  rw [e]
  exact ⟨rfl, rfl, rfl, rfl, rfl, rfl, rfl, fun _ _ h => h⟩

theorem setTuner_sheds {t : TunerId} {r : Tuner} {p : Part} (h : ∀ k ∈ r.claims, k ∈ (p.tuner t).claims) :
    ShedsClaims p (p.setTuner t r) := by
  refine shedsClaims_of rfl rfl ⟨p.stm.follow, rfl⟩ fun u k hk => ?_
  by_cases hu : u = t
  · subst hu
    rw [Part.tuner_setTuner_self] at hk
    exact h k hk
  · rwa [Part.tuner_setTuner_of_ne _ _ _ _ hu] at hk

theorem leaveFade_sheds (p : Part) : ShedsClaims p (leaveFade p) := by
  rw [leaveFade_eq]
  exact shedsClaims_of rfl rfl ⟨p.stm.follow, rfl⟩ fun _ _ h => h

theorem setFollow_sheds (t : TunerId) (f : Follow) (p : Part) : ShedsClaims p (p.setFollow t f) :=
  shedsClaims_of rfl rfl ⟨p.stm.follow.set t f, rfl⟩ fun _ _ h => h

/-- The end of a switch behind what it stores: the weak tuner `t` watches again, the other loses its provisional claims
(R89, R90). -/
def unswitch (t : TunerId) (p : Part) : Part :=
  let p := leaveFade p
  let p := p.setFollow t { (p.follow t).ended with lowTimer := true }
  let p := p.setTuner t.other { p.tuner t.other with claims := (p.tuner t.other).claims.filter fun c => !c.prov }
  idleIfFree t.other p

theorem unswitch_sheds (t : TunerId) (p : Part) : ShedsClaims p (unswitch t p) :=
  (((leaveFade_sheds p).trans (setFollow_sheds t _ _)).trans
    (setTuner_sheds fun _ hk => List.mem_of_mem_filter hk)).trans (idleIfFree_sheds _ _)

/-- A switch abandoned sheds its provisional claims (R89). -/
theorem abandonSwitch_sheds {t : TunerId} {p : Part} (hl : p.tst.latent = []) :
    ShedsClaims p (abandonSwitch t p) := by
  cases hs : p.switching t with
  | false =>
    rw [abandonSwitch_none hs]
    exact .refl p
  | true =>
    cases hc : (p.tuner t.other).chan with
    | some c =>
      have he : abandonSwitch t p = unswitch t (storeQuality c (p.tuner t.other).qs p) := by
        simp only [abandonSwitch, unswitch, hs, hc, if_true]
      rw [he]
      exact (storeQuality_sheds c _ hl).trans (unswitch_sheds t _)
    | none =>
      have he : abandonSwitch t p = unswitch t p := by simp only [abandonSwitch, unswitch, hs, hc, if_true]
      rw [he]
      exact unswitch_sheds t p

/-- A claim that no zone listens by, withdrawn: the claimant holds none (R70). -/
theorem withdraw_sheds {w : Claimant} {p : Part} (hw : w.zone? = none) (hl : p.tst.latent = []) :
    ShedsClaims p (withdraw w p) ∧ ∀ t, ∀ k ∈ ((withdraw w p).tuner t).claims, k.who ≠ w := by
  obtain ⟨m, hm⟩ : ∃ m, m = dropClaim w .b (dropClaim w .a p) := ⟨_, rfl⟩
  have hclaims (t : TunerId) : (m.tuner t).claims = (p.tuner t).claims.filter fun k => k.who != w := by
    rw [hm, dropClaim_both]
    cases t <;> rfl
  have hfirst : ShedsClaims p m := by
    refine shedsClaims_of (by rw [hm]; rfl) (by rw [hm]; rfl) ⟨p.stm.follow, by rw [hm]; rfl⟩ fun t k hk => ?_
    rw [hclaims] at hk
    exact List.mem_of_mem_filter hk
  have hfree (t : TunerId) {q : Part} (hq : q.tst.latent = []) :
      ShedsClaims q (if (q.tuner t).listened then q else abandonSwitch t q) := by
    split
    · exact .refl q
    · exact abandonSwitch_sheds hq
  have ha := hfree .a (hfirst.latent.trans hl)
  have hb := hfree .b (ha.latent.trans (hfirst.latent.trans hl))
  have hrest : ShedsClaims m (withdraw w p) := by
    unfold withdraw
    rw [hw, ← hm]
    exact ((ha.trans hb).trans (idleIfFree_sheds _ _)).trans (idleIfFree_sheds _ _)
  refine ⟨hfirst.trans hrest, fun t k hk => ?_⟩
  have hin := hrest.claims t k hk
  rw [hclaims, List.mem_filter] at hin
  simpa using hin.2

/-! ### Claims that no zone listens by -/

/-- A claim that no zone listens by, granted on a free tuner: it stands there alone, and the tune starts (R58, R68). -/
theorem grant_unlistened {w : Claimant} {c : Chan} {t : TunerId} {p : Part} (hw : w.zone? = none)
    (hf : p.tunersFree = true) (ha : p.hasAddress t = true) :
    ∃ tu f lb, grant w c t false p = { p with tuc := tu, stm := { p.stm with follow := f, labels := lb } }
      ∧ tu.tuners = p.tuc.tuners.set t (tunedRecord c none false { p.tuner t with claims := [⟨w, false⟩] })
      ∧ ∀ u, f.get u = p.follow u ∨ (f.get u).lowTimer = false := by
  obtain ⟨hg, htuners⟩ := tunersFree_iff.mp hf
  obtain ⟨-, hc, hr, hk, hn, -⟩ := htuners t
  obtain ⟨q, hq⟩ : ∃ q, q = (p.setFollow t (p.follow t).ended).setTuner t { p.tuner t with claims := [⟨w, false⟩] } :=
    ⟨_, rfl⟩
  have hadded : addClaim w t (displaceAll t p) = q := by
    rw [displaceAll_free hc hn hk fun u => (htuners u).2.2.2.2.2, addClaim_eq, hq]
    · have hclaims : (⟨w, false⟩ :: ((p.setFollow t (p.follow t).ended).tuner t).claims : List Claim)
        = [⟨w, false⟩] := by
        rw [Part.tuner_setFollow, hc]
      have hgrants : grantsWith w p.tuc.grants = p.tuc.grants := by
        unfold grantsWith
        rw [hw]
      have hsort : sortClaims p.tuc.grants [⟨w, false⟩] = [⟨w, false⟩] := by
        rw [← hgrants, hg]
        exact sortClaims_first w
      rw [hclaims, show (p.setFollow t (p.follow t).ended).tuc.grants = p.tuc.grants from rfl, hgrants, hsort]
      rfl
    · simp only [Part.switching, Part.follow_setFollow_self]
      rfl
  have hgrant : grant w c t false p = tuneStart t c none false q := by
    simp only [grant, Bool.false_eq_true, if_false, hw]
    rw [hadded]
  have htuner : q.tuner t = { p.tuner t with claims := [⟨w, false⟩] } := by rw [hq]; simp
  obtain ⟨tu, lb, e, htu, -⟩ := tuneStart_issued (t := t) (c := c) (note := none) (p := q) false (by rw [hq]; exact ha)
    (by rw [htuner]; exact hr)
  refine ⟨tu, p.stm.follow.set t (p.follow t).ended, lb, ?_, ?_, fun u => ?_⟩
  · rw [hgrant, e, hq]
    rfl
  · rw [htu, htuner, hq]
    cases t <;> rfl
  · rw [PerTuner.get_set]
    split
    · exact .inr rfl
    · exact .inl rfl

/-- A claim that no zone listens by, alone on a tuner that plays and does not switch, withdrawn: the tuner goes IDLE,
the other stays (R70). -/
theorem withdraw_alone {w : Claimant} {t : TunerId} {p : Part} (hw : w.zone? = none) (hs : ∀ u, p.switching u = false)
    (hc : (p.tuner t).claims = [⟨w, false⟩]) (hp : (p.tuner t).state ≠ .fault) :
    ∃ tu f, withdraw w p = { p with tuc := tu, stm := { p.stm with follow := f } }
      ∧ (tu.tuners.get t).state = .idle ∧ (∀ u, (tu.tuners.get u).claims = (p.tuner u).claims.filter fun k =>
        k.who != w)
      ∧ ∀ u, f.get u = p.follow u ∨ (f.get u).lowTimer = false := by
  obtain ⟨tu, f, e, htu, hf⟩ := giveUp_only w p
  have hnone : (p.tuner t).claims.filter (fun k => k.who != w) = [] := by simp [hc]
  refine ⟨tu, f, by rw [withdraw_only hw (hs .a) (hs .b), e], ?_, fun u => (htu u).1, hf⟩
  rw [(htu t).2, if_pos ⟨hnone, hp⟩]

/-! ### The commands -/

theorem exec_scan_done {h : ReqHeader} {n : Nat} {p q : Part} {r : Result} (w : List Instr)
    (ht : p.takes 0x32 h = true) (hz : scanStart n p = (r, q)) (hq : q.quiet = true) :
    exec (.scan h n) ⟨p, w⟩ = .next ⟨answered 0x32 h r [] (noteReports p q), w⟩ := by
  refine (congrArg (fun q => Host.Outcome.next (⟨q, w⟩ : State)) (ringRequest_taken ht (by decide))).trans ?_
  rw [settling_quiet hz hq]

theorem exec_scan_refused {h : ReqHeader} {n : Nat} {p : Part} {r : Result} (w : List Instr)
    (ht : p.takes 0x32 h = true) (hq : p.quiet = true) (hz : scanStart n p = (r, p)) :
    exec (.scan h n) ⟨p, w⟩ = .next ⟨answered 0x32 h r [] p, w⟩ := by
  rw [exec_scan_done w ht hz hq, noteReports_same fun _ => rfl]

theorem exec_scanStop_done {h : ReqHeader} {p q : Part} {r : Result} (w : List Instr)
    (ht : p.takes 0x33 h = true) (hz : scanStop p = (r, q)) (hq : q.quiet = true) :
    exec (.scanStop h) ⟨p, w⟩ = .next ⟨answered 0x33 h r [] (noteReports p q), w⟩ := by
  refine (congrArg (fun q => Host.Outcome.next (⟨q, w⟩ : State)) (ringRequest_taken ht (by decide))).trans ?_
  rw [settling_quiet hz hq]

theorem bandOf_bandCode (b : Band) : bandOf (bandCode b) = some b := by cases b <;> rfl

/-- SCAN with a tuner free (R87). -/
theorem scanStart_free {b : Band} {t : TunerId} {p : Part} (hm : p.pwc.mode = .active) (hs : p.stm.scan = none)
    (harb : p.arbitrate .scan ⟨b, bandBottom b⟩ none false = some (t, false)) : scanStart (bandCode b) p
      = (.ok, { grant .scan ⟨b, bandBottom b⟩ t false p with
          stm := { (grant .scan ⟨b, bandBottom b⟩ t false p).stm with scan := some { band := b, tuner := t } } }) := by
  unfold scanStart
  rw [bandOf_bandCode]
  dsimp only
  rw [if_neg (by simp [Part.isActive, hm]), if_neg (by simp [hs]), harb]

/-- A scan moves by its two timeouts, each in its own phase (R87). -/
theorem scan_timeout {s : Scan} {cmd : Instr} {p : Part} (w : List Instr) (hr : p.running = true)
    (hs : p.stm.scan = some s) (hcmd : cmd = .scanJudgeTimeout ∧ (p.tuner s.tuner).done = true ∧ s.dwelling = false
      ∨ cmd = .scanDwellTimeout ∧ s.dwelling = true) :
    ∃ f, exec cmd ⟨p, w⟩ = .next ⟨settle f p, w⟩ ∧ f p = scanMove p := by
  rcases hcmd with ⟨rfl, hd, hdw⟩ | ⟨rfl, hdw⟩
  · exact ⟨scanJudgeTimeout, rfl, by simp [scanJudgeTimeout, hs, hr, hd, hdw]⟩
  · exact ⟨scanDwellTimeout, rfl, by simp [scanDwellTimeout, hs, hr, hdw]⟩

theorem stopTimer_only (t : TunerId) (p : Part) :
    ∃ f, stopTimer t p = { p with stm := { p.stm with follow := f } } := by
  unfold stopTimer
  split
  · exact ⟨p.stm.follow, rfl⟩
  · exact ⟨_, rfl⟩

theorem calm_of_quiet {p : Part} (h : p.quiet = true) : p.calm = true := by
  simp only [Part.quiet, Bool.and_eq_true] at h
  exact h.1.1

/-- Settles O33. -/
theorem scanMovesUpTheBand : Obligations.ScanMovesUpTheBand := by
  refine ⟨fun h p w ht hq => ⟨fun n hn => ?unknown, fun b => ⟨fun hm => ?power, fun hm hs => ?busy, fun hm hs harb =>
    ?tuners,
    fun t hm hs hf ha hfirst => ?start⟩⟩, fun h s p w ht hq => ⟨fun hs => ?state,
      fun hs hcl hp hsw hosw hocl host => ?stop⟩, fun s c cmd p w hr hq hl hs hc hst hre hcmd => ?moves⟩
  case unknown =>
    refine exec_scan_refused w ht hq ?_
    have hnone : bandOf n = none := by
      match n, hn with
      | n + 2, _ => rfl
    rw [scanStart, hnone]
  case power =>
    refine exec_scan_refused w ht hq ?_
    simp [scanStart, bandOf_bandCode, Part.isActive, hm]
  case busy =>
    refine exec_scan_refused w ht hq ?_
    simp [scanStart, bandOf_bandCode, Part.isActive, hm, Option.isSome_iff_ne_none.mpr hs]
  case tuners =>
    refine exec_scan_refused w ht hq ?_
    simp [scanStart, bandOf_bandCode, Part.isActive, hm, hs, harb]
  case start =>
    obtain ⟨tu, f, lb, e, htu, hlow⟩ := grant_unlistened (w := .scan) (c := ⟨b, bandBottom b⟩) rfl hf ha
    have harb : p.arbitrate .scan ⟨b, bandBottom b⟩ none false = some (t, false) := 
      arbitrate_free hm hf ha hfirst _ _ _ _
    have hrun := scanStart_free hm hs harb
    obtain ⟨m, hm'⟩ : ∃ m, m = { grant .scan ⟨b, bandBottom b⟩ t false p with
      stm := { (grant .scan ⟨b, bandBottom b⟩ t false p).stm with scan := some { band := b, tuner := t } } } := ⟨_, rfl⟩
    rw [← hm'] at hrun
    have hmeq := hm'
    rw [e] at hmeq
    have htuner (u : TunerId) : m.tuner u = if u = t then tunedRecord ⟨b, bandBottom b⟩ none false
        { p.tuner t with claims := [⟨.scan, false⟩] } else p.tuner u := by
      rw [hmeq]
      show tu.tuners.get u = _
      rw [htu, PerTuner.get_set]
      rfl
    have hmt := (htuner t).trans (if_pos rfl)
    have hquiet : m.quiet = true := by
      refine quiet_of hq (by rw [hmeq]) (by rw [hmeq]) (by rw [hmeq]) (by rw [hmeq]) (fun u k hk hwho => ?_)
        fun u => by rw [hmeq]; exact hlow u
      rw [htuner] at hk
      split at hk
      · have hscan : k = ⟨.scan, false⟩ := List.mem_singleton.mp hk
        rw [hscan] at hwho
        exact absurd hwho (by decide)
      · exact hk
    refine ⟨m, ?_, by rw [hmeq], congrArg Tuner.claims hmt, congrArg Tuner.state hmt, congrArg Tuner.chan hmt, ?_, ?_⟩
    · rw [exec_scan_done w ht hrun hquiet, noteReports_same fun x => by rw [hmeq]; rfl]
    · rw [htuner, if_neg (by cases t <;> decide)]
    · rw [hmeq]
  case state =>
    have hrun : scanStop p = (.state, p) := by simp [scanStop, hs]
    rw [exec_scanStop_done w ht hrun hq, noteReports_same fun _ => rfl]
  case stop =>
    obtain ⟨tu, f, e, hidle, hclaims, hlow⟩ := withdraw_alone (w := .scan) rfl
      (fun u => by rcases eq_or_other s.tuner u with rfl | rfl <;> assumption) hcl (by rw [hp]; decide)
    obtain ⟨m, hm⟩ : ∃ m, m = { p with
      tuc := tu, stm := { p.stm with follow := f, scan := none }
      nfu := p.nfu.post .scanDone (bandCode s.band) (some (256 + s.found)) } := ⟨_, rfl⟩
    have hrun : scanStop p = (.ok, m) := by
      have hend : endScan true (withdraw .scan p) = m := by
        rw [e, endScan]
        dsimp only
        rw [hs, hm]
        rfl
      rw [scanStop, hs, hend]
      rfl
    have hmc (u : TunerId) : (m.tuner u).claims = (p.tuner u).claims.filter fun k => k.who != .scan := by
      rw [hm]
      exact hclaims u
    have hquiet : m.quiet = true := by
      refine quiet_of hq (by rw [hm]) (by rw [hm]) (by rw [hm]) (by rw [hm]) (fun u k hk _ => ?_)
        fun u => by rw [hm]; exact hlow u
      rw [hmc] at hk
      exact List.mem_of_mem_filter hk
    refine ⟨m, ?_, by rw [hm], ?_, ?_, by rw [hm], by rw [hm]⟩
    · rw [exec_scanStop_done w ht hrun hquiet, noteReports_same fun x => by rw [hm]; rfl]
    · rw [hm]
      exact hidle
    · rw [hmc, hcl]
      rfl
  case moves =>
    obtain ⟨f, hexec, hf⟩ := scan_timeout w hr hs hcmd
    refine ⟨fun hle ha => ?_, fun hgt => ?_⟩
    · obtain ⟨tu, lb, e, htu, hsent⟩ := tuneStart_issued (t := s.tuner) (c := ⟨s.band, c.freq + bandStep s.band⟩)
        (note := none) (p := { p with stm := { p.stm with scan := some { s with reports := 0, dwelling := false } } })
        false ha hre
      obtain ⟨m, hm⟩ : ∃ m, m = { p with tuc := tu, stm := { p.stm with
        scan := some { s with reports := 0, dwelling := false }, labels := lb } } := ⟨_, rfl⟩
      have hrun : f p = m := by
        rw [hf, hm, ← e]
        unfold scanMove
        rw [hs]
        dsimp only
        rw [hc]
        exact if_pos hle
      have hmt : m.tuner s.tuner = tunedRecord ⟨s.band, c.freq + bandStep s.band⟩ none false (p.tuner s.tuner) := by
        rw [hm]
        show tu.tuners.get _ = _
        rw [htu, PerTuner.get_set_self]
        rfl
      have hquiet : m.quiet = true := by
        refine quiet_of hq (by rw [hm]) (by rw [hm]) (by rw [hm]) (by rw [hm]) (fun u k hk _ => ?_)
          fun u => by rw [hm]; exact .inl rfl
        rw [hm] at hk
        change k ∈ (tu.tuners.get u).claims at hk
        rwa [htu, claims_setTuner (by rfl)] at hk
      refine ⟨m, ?_, by rw [hm], congrArg Tuner.chan hmt, congrArg Tuner.state hmt, 
        (congrArg Tuner.claims hmt).trans (by rfl), ?_, by rw [hm]⟩
      · rw [hexec, settle_quiet hrun hquiet (by rw [hm]; rfl)]
      · rw [hm]
        exact hsent
    · obtain ⟨hshed, hgone⟩ := withdraw_sheds (w := .scan) (p := p) rfl hl
      obtain ⟨v, hv⟩ : ∃ v, v = withdraw .scan p := ⟨_, rfl⟩
      rw [← hv] at hshed hgone
      obtain ⟨m, hm⟩ : ∃ m, m = { v with
        stm := { v.stm with scan := none }
        nfu := v.nfu.post .scanDone (bandCode s.band) (some s.found) } := ⟨_, rfl⟩
      have hrun : f p = m := by
        have hend : endScan false v = m := by
          rw [endScan, hshed.scan, hs, hm]
          simp [Part.post, codeOfBool]
        rw [hf, ← hend, hv]
        unfold scanMove
        rw [hs]
        dsimp only
        rw [hc]
        exact if_neg (by simpa using hgt)
      have hcalm : m.calm = true := by
        refine calm_of (calm_of_quiet hq) (by rw [hm]; exact hshed.radio)
          (by rw [hm]; exact congrArg Bulletin.latch hshed.bulletin)
          (by rw [hm]; exact hshed.watch) (by rw [hm]; exact hshed.watchState) fun u k hk _ => .inr ?_
        rw [hm] at hk
        exact hshed.claims u k hk
      have hml : m.tst.latent = [] := by rw [hm]; exact hshed.latent.trans hl
      have hstop := settle_of_calm (f := f) (p := p) (by rw [hrun]; exact hcalm) (by rw [hrun]; exact hml)
      rw [hrun] at hstop
      obtain ⟨f1, e1⟩ := stopTimer_only .a m
      obtain ⟨f2, e2⟩ := stopTimer_only .b (stopTimer .a m)
      obtain ⟨rl, hrl⟩ := noteReports_eq p (stopTimer .b (stopTimer .a m))
      refine ⟨settle f p, hexec, ?_⟩
      rw [hstop, hrl, e2, e1, hm]
      exact ⟨rfl, hgone, by rw [hshed.nfu]⟩

end Sys2Proof.Machine
end

section
/-! PROOFS. The background cycle goes on at the end of a dwell (O39). -/

namespace Sys2Proof.Machine

/-- The visits that an index has by its shape (R86). -/
def visitsOfShape (x : Option (Nat × Band × List Nat) × Nat) : List (Nat × Nat × Chan) :=
  match x.1 with
  | some s => s.2.2.zipIdx.map fun y => (x.2, y.2, ⟨s.2.1, y.1⟩)
  | none => []

theorem allVisits_shape (p : Part) : allVisits p = (p.tst.stations.map StationSlot.shape).zipIdx.flatMap
    visitsOfShape := by
  rw [List.zipIdx_map, List.flatMap_map, allVisits]
  congr 1
  funext ⟨s, i⟩
  unfold visitsOfShape StationSlot.shape
  cases he : s.entry with
  | none => simp [he]
  | some e => simp [he, List.zipIdx_map, Function.comp_def]

/-- The visit that is next lies in the frequencies listed, not in their qualities. -/
theorem nextVisit_of_shape {p q : Part}
    (h : q.tst.stations.map StationSlot.shape = p.tst.stations.map StationSlot.shape)
    (hu : q.tuc = p.tuc) (hi : q.stm.bgIndex = p.stm.bgIndex) (hj : q.stm.bgItem = p.stm.bgItem) (u : TunerId) :
    nextVisit u q = nextVisit u p := by
  have ht : q.tunedTo u = p.tunedTo u := by unfold Part.tunedTo Part.tuner; rw [hu]
  unfold nextVisit
  rw [allVisits_shape, allVisits_shape, h, ht, hi, hj]

/-- What is up to date is left so. -/
theorem keepClaims_same {ask : Bool} {p : Part} (hw : keepWatch ask p = p) (hb : keepBackground p = p) :
    keepClaims ask p = p := by
  simp [keepClaims, keepRounds, hw, hb, undisturbed, becameIdle_self]

/-- Where no watch is set and none stands the watch is up to date. -/
theorem keepWatch_unset {p : Part} (hw : p.stm.watch = none) (hs : p.stm.watchState = .inactive)
    (hn : p.holding .watch = none) (ask : Bool) : keepWatch ask p = p := by
  have hc : watchCondition p = .inactive := by simp [watchCondition, hw]
  have hd : dropWatch p = p := by simp [dropWatch, hn]
  have hj : judgeWatch p = p := by
    have hp : ({ p with stm := { p.stm with watchState := .inactive } } : Part) = p := by rw [← hs]
    simp only [judgeWatch, hc, hs]
    exact hp
  have hr : readWatched p = p := by simp [readWatched, hw]
  have hu : (WatchState.inactive == WatchState.uncovered) = false := rfl
  simp only [keepWatch, hr, hd, hj, hs, hu, Bool.false_and, Bool.false_eq_true, if_false]

/-- With a BACKGROUND claim that may stand, no watch and no timer the Station Manager changes nothing. -/
theorem stmSettle_cycling {before p : Part} (hl : p.tst.latent = []) (hb : p.stm.bulletin.latch = .none)
    (hw : p.stm.watch = none) (hs : p.stm.watchState = .inactive) (hn : p.holding .watch = none)
    (hon : p.radioCfg.background = true) (hm : p.pwc.mode = .active) (hh : p.holding .background ≠ none)
    (hlow : ∀ t, (p.follow t).lowTimer = false) : stmSettle before p = p := by
  have hback : keepBackground p = p := by
    obtain ⟨t, ht⟩ := Option.ne_none_iff_exists'.mp hh
    simp [keepBackground, ht, hon, Part.isActive, hm]
  have hkeep := keepClaims_same (keepWatch_unset hw hs hn (becameIdle before p)) hback
  simp [stmSettle, readKept_clean hl, hb, hkeep, stopTimer_idle, hlow]

/-- Settles O39. -/
theorem backgroundCycleGoesOn : Obligations.BackgroundCycleGoesOn := by
  intro t c v p w hr hl hm hon hw hs hb hn hlowa hlowb hcl hocl hst hd hre hc ha hv
  have hhold : p.holding .background = some t := by
    have hno : ((p.tuner t.other).claims.any fun k => k.who == .background && !k.prov) = false := by
      rw [← Bool.not_eq_true, List.any_eq_true]
      rintro ⟨k, hk, hkb⟩
      simp only [Bool.and_eq_true, beq_iff_eq] at hkb
      exact hocl k hk hkb.1
    cases t with
    | a => simp [Part.holding, TunerId.all, hcl]
    | b =>
      change ((p.tuner .a).claims.any fun k => k.who == .background && !k.prov) = false at hno
      simp [Part.holding, TunerId.all, hcl, hno]
  obtain ⟨st, hstored⟩ := storeQuality_only c (p.tuner t).qs hl
  have hshape := shape_storeQuality c (p.tuner t).qs hl
  rw [hstored] at hshape
  obtain ⟨x, hx⟩ : ∃ x, x = { p with tst := { p.tst with stations := st }
                                     stm := { p.stm with bgItem := p.stm.bgItem + 1 } } := ⟨_, rfl⟩
  have hnext : readVisit t.other x = (some v, x) := by
    rw [readVisit_clean _ (by rw [hx]; exact hl), ← hv]
    rw [nextVisit_of_shape (p := { p with stm := { p.stm with bgItem := p.stm.bgItem + 1 } }) (by rw [hx]; exact hshape)
      (by rw [hx]) (by rw [hx]) (by rw [hx])]
  obtain ⟨tu, lb, e, htu, hsent⟩ := tuneStart_issued (t := t) (c := v.2.2) (note := none) (p := atVisit v x) false
    (by rw [hx]; exact ha) (by rw [hx]; exact hre)
  obtain ⟨m, hmm⟩ : ∃ m, m = tuneStart t v.2.2 none false (atVisit v x) := ⟨_, rfl⟩
  have hmeq : m = { p with
      tst := { p.tst with stations := st }, tuc := tu
      stm := { p.stm with bgIndex := v.1, bgItem := v.2.1, labels := lb } } := by
    rw [hmm, e, hx]
    rfl
  have hrun : backgroundDwellEnd p = m := by
    have hcond : (p.running && (p.tuner t).state == .playing && (p.tuner t).done) = true := by simp [hr, hst, hd]
    unfold backgroundDwellEnd
    rw [hhold]
    dsimp only
    rw [if_pos hcond, hc]
    dsimp only
    rw [hstored, ← hx, hnext, hmm]
  have hmt (u : TunerId) : m.tuner u = if u = t then tunedRecord v.2.2 none false (p.tuner t) else p.tuner u := by
    rw [hmeq]
    show tu.tuners.get u = _
    rw [htu, PerTuner.get_set, hx]
    rfl
  have hself := (hmt t).trans (if_pos rfl)
  have hclaims (u : TunerId) : (m.tuner u).claims = (p.tuner u).claims := by
    rw [hmt]
    split
    · rename_i hu
      rw [hu]
      rfl
    · rfl
  have hholding (a : Claimant) : m.holding a = p.holding a := by simp only [Part.holding, hclaims]
  have hsettled : stmSettle p m = m := by
    refine stmSettle_cycling (by rw [hmeq]; exact hl) (by rw [hmeq]; exact hb) (by rw [hmeq]; exact hw)
      (by rw [hmeq]; exact hs) ((hholding _).trans hn) (by rw [hmeq]; exact hon) (by rw [hmeq]; exact hm)
      (by rw [hholding, hhold]; exact nofun) fun u => ?_
    rw [hmeq]
    cases u
    · exact hlowa
    · exact hlowb
  refine ⟨m, ?_, by rw [hmeq], congrArg Tuner.state hself, congrArg Tuner.chan hself, (hclaims t).trans hcl, ?_, ?_, ?_,
    by rw [hmeq]⟩
  · refine congrArg (fun q => Host.Outcome.next (⟨q, w⟩ : State)) ?_
    rw [settle, hrun, hsettled]
    exact noteReports_same fun r => by rw [hmeq]; rfl
  · rw [hmeq]
    exact hsent
  · rw [hmt, if_neg (by cases t <;> decide)]
  · intro i en hi hen
    have hstation := storeQuality_station (c := c) (k := (p.tuner t).qs) hl i
    rw [if_pos hi, hen, hstored] at hstation
    refine ⟨_, by rw [hmeq]; exact hstation, fun it hit hf => ?_⟩
    obtain ⟨it0, -, hit0⟩ := List.mem_map.mp hit
    have hfreq : it0.freq = c.freq := by
      by_cases h : it0.freq = c.freq
      · exact h
      · rw [if_neg h] at hit0
        rw [hit0]
        exact hf
    rw [← hit0, if_pos hfreq]
    exact ⟨rfl, rfl⟩

end Sys2Proof.Machine
end

section
/-! PROOFS. The statement on the watch (O40) does not hold as written: the clause on the claim withdrawn by WATCH 255
takes any tuner outside FAULT that the WATCH claim alone holds, also one that is IDLE already. Such a tuner stays as it
is, and no STANDBY goes to it. -/

namespace Sys2Proof.Machine

/-- WATCH's header from the head unit. -/
def watchHeader : ReqHeader := { source := 0, seq := 1 }

/-- A part in ACTIVE whose tuner A is IDLE with the WATCH claim on its list, and whose tuner B a scan holds. -/
def idleWatcher : Part :=
  { rif := { joined := true }
    pwc := { mode := .active }
    tst := { radio := { addresses := ⟨some 0x60, some 0x61⟩, background := false } }
    tuc := { tuners := ⟨{ claims := [⟨.watch, false⟩] }, { claims := [⟨.scan, false⟩] }⟩ } }

theorem idleWatcher_takes : idleWatcher.takes 0x34 watchHeader = true := by decide +kernel

/-- WATCH 255 sends nothing to the tuners. -/
theorem idleWatcher_unsent : (ringRequest 0x34 1 watchHeader false (settling (watchRequest 255)) idleWatcher).tuc.link
    = none
    ∧ (ringRequest 0x34 1 watchHeader false (settling (watchRequest 255)) idleWatcher).tuc.queue = [] := by
  decide +kernel

/-- Refutes O40: WATCH 255 to a part whose tuner A, with the WATCH claim alone, is IDLE already. The claim is withdrawn,
and no STANDBY is on the link or waits for it. -/
theorem not_watchAsksForATuner : ¬ Obligations.WatchAsksForATuner := by
  unfold Obligations.WatchAsksForATuner
  rintro ⟨-, hclear, -⟩
  obtain ⟨-, hwithdrawn⟩ := hclear watchHeader idleWatcher [] idleWatcher_takes rfl rfl rfl (by decide) rfl rfl
  obtain ⟨q, hq, -, -, -, -, -, hsent, -⟩ :=
    hwithdrawn .a rfl (by decide) (by decide) rfl (by decide) rfl
  have htuc := congrArg (fun s => s.part.tuc) (Host.Outcome.next.inj hq)
  obtain ⟨hlink, hqueue⟩ := idleWatcher_unsent
  have hq' : q.tuc = (ringRequest 0x34 1 watchHeader false (settling (watchRequest 255)) idleWatcher).tuc := htuc.symm
  rw [hq', hlink, hqueue] at hsent
  exact absurd hsent (by decide)

end Sys2Proof.Machine
end

section
/-! PROOFS. Captures, notices and the diagnostic record are fetched (O41). -/

namespace Sys2Proof.Machine

/-! ### Posting -/

theorem post_here {n : Nfu} {k : NoticeKind} {i : Nat} (v : Option Nat)
    (h : n.notices.any (fun m => m.kind == k && m.subject == i) = true) :
    n.post k i v = { n with notices := n.notices.map fun m =>
      if m.kind == k && m.subject == i then { m with value := v, count := min 255 (m.count + 1) } else m } :=
  if_pos h

theorem post_new {n : Nfu} {k : NoticeKind} {i : Nat} (v : Option Nat)
    (h : n.notices.any (fun m => m.kind == k && m.subject == i) = false) :
    n.post k i v = if n.notices.length < 32 then { n with notices := n.notices ++ [⟨k, i, v, 1⟩] }
      else { n with overflow := true } :=
  if_neg (ne_true_of_eq_false h)

/-- Posting changes the notices and the overflow flag alone. -/
theorem post_only (n : Nfu) (k : NoticeKind) (i : Nat) (v : Option Nat) :
    ∃ l o, n.post k i v = { n with notices := l, overflow := o } := by
  unfold Nfu.post
  split
  · exact ⟨_, n.overflow, rfl⟩
  · split
    · exact ⟨_, n.overflow, rfl⟩
    · exact ⟨n.notices, true, rfl⟩

/-- A notice posted stands in the queue where it finds its own or a place. -/
theorem post_posted {n : Nfu} {k : NoticeKind} {i : Nat} (v : Option Nat) (h : n.notices.length < 32
    ∨ n.notices.any (fun m => m.kind == k && m.subject == i) = true) :
    (n.post k i v).notices.any (fun m => m.kind == k) = true := by
  cases hh : n.notices.any (fun m => m.kind == k && m.subject == i) with
  | true =>
    rw [post_here v hh]
    obtain ⟨m, hm, hk⟩ := List.any_eq_true.mp hh
    simp only [Bool.and_eq_true, beq_iff_eq] at hk
    obtain ⟨hkind, hsub⟩ := hk
    refine List.any_eq_true.mpr ⟨_, List.mem_map.mpr ⟨m, hm, rfl⟩, ?_⟩
    simp [hkind, hsub]
  | false =>
    have hlt : n.notices.length < 32 := h.resolve_right (by rw [hh]; exact Bool.false_ne_true)
    rw [post_new v hh, if_pos hlt]
    simp

/-! ### Fault reports -/

/-- A fault report, behind its count (R171). -/
def Nfu.counted (n : Nfu) (k : FaultKind) : Nfu :=
  { n with counts := updAt n.counts (faultCode k) fun c => count16 c 1 }

theorem counts_counted {n : Nfu} (k : FaultKind) (h : n.counts.length = 7) :
    (n.counted k).counts = n.counts.set (faultCode k) (min 65535 (n.counts.getD (faultCode k) 0 + 1)) := by
  have hlt : faultCode k < n.counts.length := by rw [h]; cases k <;> decide
  show n.counts.modify _ _ = _
  rw [List.modify_eq_set_getElem?, List.getElem?_eq_getElem hlt, List.getD_eq_getElem _ _ hlt]
  rfl

theorem fault_unrecorded {n : Nfu} {k : FaultKind} (i e : Option Nat) (t : Nat) (h : recordedAt k n.level = false) :
    n.fault k i e t = n.counted k := if_neg (ne_true_of_eq_false h)

theorem fault_first {n : Nfu} {k : FaultKind} (i e : Option Nat) (t : Nat) (h : recordedAt k n.level = true)
    (hr : n.record = none) :
    n.fault k i e t = ({ n.counted k with record := some ⟨k, i, e, t, 0⟩ } : Nfu).post .fault 0 none := by
  unfold Nfu.fault
  dsimp only
  rw [if_pos h, hr]
  rfl

theorem fault_later {n : Nfu} {k : FaultKind} {d : Diagnostic} (i e : Option Nat) (t : Nat)
    (h : recordedAt k n.level = true) (hr : n.record = some d) :
    n.fault k i e t = { n.counted k with record := some { d with later := min 65535 (d.later + 1) } } := by
  unfold Nfu.fault
  dsimp only
  rw [if_pos h, hr]
  rfl

/-! ### The commands -/

theorem captureIdle_eq (p : Part) : captureIdle p = if p.running = true ∧ p.stm.capTimer = true then
    { p with stm := { p.stm with capTimer := false }
             nfu := if p.stm.capQueue = [] then p.nfu else p.nfu.post .captureReady 0 none } else p := by
  unfold captureIdle
  simp only [Bool.and_eq_true, List.isEmpty_iff]
  split
  · split <;> rfl
  · rfl

/-- Settles O41. -/
theorem queuesAndRecordsAreFetched : Obligations.QueuesAndRecordsAreFetched := by
  refine ⟨⟨fun h tuner count p w ht => ?capture, fun h p w ht => ?captureRead, fun p w => ?captureIdle⟩,
    fun h p w ht => ?noticeFetch, fun h p w ht => ?faultRead, fun h p w ht => ⟨fun l => ?level, fun n hn => ?noLevel⟩,
    fun n k i v => ⟨post_here v, post_new v⟩, fun n k i e t hlen => ?fault⟩
  case capture =>
    refine (congrArg (fun q => Host.Outcome.next (⟨q, w⟩ : State)) (ringRequest_taken ht (by decide))).trans ?_
    unfold captureStart
    by_cases h255 : tuner = 255
    · rw [if_pos h255, if_pos h255]
      rfl
    · rw [if_neg h255, if_neg h255]
      by_cases hbad : 1 < tuner ∨ count = 0 ∨ 255 < count
      · rw [if_pos (by simpa [or_assoc] using hbad), if_pos hbad]
        rfl
      · rw [if_neg (by simpa [or_assoc] using hbad), if_neg hbad]
        rfl
  case captureRead =>
    refine (congrArg (fun q => Host.Outcome.next (⟨q, w⟩ : State)) (ringRequest_taken ht (by decide))).trans ?_
    simp only [captureRead, List.length_drop, List.length_take]
  case captureIdle =>
    refine (congrArg (fun q => Host.Outcome.next (⟨q, w⟩ : State)) (captureIdle_eq p)).trans ?_
    split <;> rfl
  case noticeFetch =>
    refine (congrArg (fun q => Host.Outcome.next (⟨q, w⟩ : State)) (ringRequest_taken ht (by decide))).trans ?_
    simp only [noticeFetch, List.length_take]
    rfl
  case faultRead =>
    refine (congrArg (fun q => Host.Outcome.next (⟨q, w⟩ : State)) (ringRequest_taken ht (by decide))).trans ?_
    unfold faultRead
    cases p.nfu.record <;> rfl
  case level =>
    refine (congrArg (fun q => Host.Outcome.next (⟨q, w⟩ : State)) (ringRequest_taken ht (by decide))).trans ?_
    cases l <;> rfl
  case noLevel =>
    refine (congrArg (fun q => Host.Outcome.next (⟨q, w⟩ : State)) (ringRequest_taken ht (by decide))).trans ?_
    have hnone : levelOf n = none := by
      match n, hn with
      | n + 4, _ => rfl
    rw [faultLevel, hnone]
    rfl
  case fault =>
    have hcounts := counts_counted k hlen
    cases hrec : recordedAt k n.level with
    | false =>
      rw [fault_unrecorded i e t hrec]
      exact ⟨hcounts, rfl, fun _ => ⟨rfl, rfl⟩, fun h => absurd h Bool.false_ne_true,
        fun _ h => absurd h Bool.false_ne_true⟩
    | true =>
      cases hr : n.record with
      | none =>
        obtain ⟨l, o, hpost⟩ := post_only ({ n.counted k with record := some ⟨k, i, e, t, 0⟩ } : Nfu) .fault 0 none
        rw [fault_first i e t hrec hr]
        refine ⟨by rw [hpost]; exact hcounts, by rw [hpost]; rfl, fun h => absurd h.symm Bool.false_ne_true,
          fun _ _ => ⟨by rw [hpost], fun h => post_posted none h⟩, fun _ _ h => absurd h nofun⟩
      | some d =>
        rw [fault_later i e t hrec hr]
        refine ⟨hcounts, rfl, fun h => absurd h.symm Bool.false_ne_true, fun _ h => absurd h nofun, fun d' _ hd => ?_⟩
        obtain rfl : d = d' := Option.some.inj hd
        exact ⟨rfl, rfl⟩

end Sys2Proof.Machine
end

section
/-! PROOFS. Service packets are filed, and show a bulletin (O42). -/

namespace Sys2Proof.Machine

/-! ### What a packet changes -/

/-- The programme code heard is set, and the label assembly at most emptied (R77). -/
theorem hear_eq (t : TunerId) (code : Nat) (p : Part) : ∃ lb, hear t code p = { p with
    tuc := { p.tuc with tuners := p.tuc.tuners.set t { p.tuner t with heard := if code = 0 then none else some code } }
    stm := { p.stm with labels := lb } } := by
  obtain ⟨h, hh⟩ : ∃ h, h = if code = 0 then none else some code := ⟨_, rfl⟩
  rw [← hh]
  by_cases hs : (p.tuner t).heard = h
  · have hsame : ({ p.tuner t with heard := h } : Tuner) = p.tuner t := by rw [← hs]
    have hnone : hear t code p = p := if_pos (beq_iff_eq.mpr (hs.trans hh))
    refine ⟨p.stm.labels, ?_⟩
    rw [hnone, hsame]
    exact (Part.setTuner_same p t).symm
  · rw [hh] at hs ⊢
    exact ⟨_, if_neg (by simpa using hs)⟩

/-- Of a tuner's zones those that listen take an entry's index and code, and nothing else changes (R78). -/
theorem zonesTake_eq (t : TunerId) (i code : Nat) (p : Part) : zonesTake t i code p = { p with zmx := { p.zmx with
    zones := .of fun z => if z ∈ [ZoneId.front, .hpLeft, .hpRight] ∧ ((p.zone z).attachedTo t && p.listening z) = true
      then { p.zone z with station := some i, code := some code } else p.zone z } } := by
  have hfix (l : List ZoneId) (q : Part) (hq : q.listening = p.listening) :
      l.foldl (fun q z => if (q.zone z).attachedTo t && q.listening z then
          q.setZone z { q.zone z with station := some i, code := some code } else q) q
        = l.foldl (fun q z => if (q.zone z).attachedTo t && p.listening z then
          q.setZone z { q.zone z with station := some i, code := some code } else q) q := by
    induction l generalizing q with
    | nil => rfl
    | cons z l ih =>
      rw [List.foldl_cons, List.foldl_cons, hq]
      exact ih _ (by split <;> exact hq)
  exact (hfix _ p rfl).trans (foldl_setZone_if (fun z r => r.attachedTo t && p.listening z)
    (fun _ r => { r with station := some i, code := some code }) (by decide) p)

/-- A zone behind that: as it was, or with the entry's index and code. -/
theorem zonesTake_zone (t : TunerId) (i code : Nat) (p : Part) (z : ZoneId) :
    (zonesTake t i code p).zone z = p.zone z
      ∨ (zonesTake t i code p).zone z = { p.zone z with station := some i, code := some code } := by
  rw [zonesTake_eq]
  show PerZone.get (.of _) z = _ ∨ PerZone.get (.of _) z = _
  rw [PerZone.get_of]
  split
  · exact .inr rfl
  · exact .inl rfl

theorem captureCopy_none (t : TunerId) (pk : Packet) {p : Part} (h : p.stm.capTuner = none) : captureCopy t pk p = p :=
  if_neg (by simp [h])

/-- An IDENT that is taken by a tuner which neither checks nor is a switch's other one, with no scan and no capture: it
is filed, and shown to bulletin detection (R77, R93). -/
theorem takePacket_ident {t : TunerId} {code : Nat} {cap act : Bool} {p q : Part} {i : Option Nat}
    (hl : p.tst.latent = []) (hfile : fileIdent t code cap act (hear t code p) = (i, q)) (hql : q.tst.latent = [])
    (hcap : q.stm.capTuner = none) (hm : (q.follow t).state = .monitor) (hsw : q.switching t.other = false) :
    takePacket t (.ident code cap act) p = scanIdent t (bulletinIdent t i q) := by
  have hcopy := captureCopy_none t (.ident code cap act) hcap
  have hcheck : checkIdent t code q = q := by
    unfold checkIdent
    dsimp only
    rw [hm]
  have hswitch : switchIdent t code q = q := by
    have hno : ((q.follow t.other).state == .switchVerify) = false := by
      rw [← Bool.not_eq_true]
      intro h
      simp [Part.switching, h] at hsw
    unfold switchIdent
    dsimp only
    rw [hno]
    rfl
  unfold takePacket
  rw [correctReads_clean _ hl]
  dsimp only
  rw [hfile]
  dsimp only
  rw [ownerReads_clean _ hql, hcopy, hcheck, hswitch]

theorem scanIdent_none {t : TunerId} {p : Part} (h : p.stm.scan = none) : scanIdent t p = p := by
  simp [scanIdent, h]

/-- A packet with its check passed, of a tuner that plays. -/
theorem servicePacket_taken {t : TunerId} (pk : Packet) {p : Part} (hl : p.tst.latent = []) (hp : p.playsOn t = true) :
    servicePacket t true pk p = takePacket t pk p := by
  obtain ⟨hst, -, hd, -, -, -, -, -, -, -⟩ := playsOn_iff.mp hp
  simp [servicePacket, Tuner.working, hst, hd, hl]

theorem setMark_fresh {i : Nat} {p : Part} (h : (p.tst.stations.getD i {}).mark = false) :
    setMark i p = (p.updStation i fun s => { s with mark := true }).post .stationChanged :=
  if_neg (ne_true_of_eq_false h)

/-- A new entry at a free index without a mark: its mark is set, and STATION_CHANGED posted (R80). -/
theorem createStation_eq {i : Nat} {e : Station} {p : Part} (hi : i < p.tst.stations.length)
    (hm : (p.tst.stations.getD i {}).mark = false) (hl : p.tst.latent = []) :
    ∃ po st, createStation i e p = { p with tst := { p.tst with stations := st, poisoned := po }
                                            nfu := p.nfu.post .stationChanged 0 none }
      ∧ st[i]? = some { entry := some e, mark := true } ∧ (∀ j, j ≠ i → st[j]? = p.tst.stations[j]?)
      ∧ (po.contains ⟨tblRadio, 0, 0⟩) = p.tst.poisoned.contains ⟨tblRadio, 0, 0⟩ := by
  have hmark : ((p.tst.stations.modify i fun s => { s with entry := some e }).getD i {}).mark = false := by
    rw [List.getD_eq_getElem?_getD, List.getElem?_modify_eq, List.getElem?_eq_getElem hi]
    rwa [List.getD_eq_getElem _ _ hi] at hm
  have hlatent : (p.tst.latent.filter fun u => !(u.unit.table == tblStations && u.unit.entry == i)) = p.tst.latent := by
    rw [hl]
    rfl
  refine ⟨p.tst.poisoned.filter fun u => !(u.table == tblStations && u.entry == i),
    (p.tst.stations.modify i fun s => { s with entry := some e }).modify i fun s => { s with mark := true },
    ?_, ?_, fun j hj => ?_, ?_⟩
  · rw [createStation, setMark_fresh (by exact hmark), cleanEntry]
    simp only [Part.updStation, hlatent]
    rfl
  · rw [List.getElem?_modify_eq, List.getElem?_modify_eq, List.getElem?_eq_getElem hi]
    rfl
  · simp [Ne.symm hj]
  · rw [Bool.eq_iff_iff]
    simp [List.mem_filter]

/-- An IDENT of no code is counted as unfiled (R80). -/
theorem fileIdent_none (t : TunerId) (cap act : Bool) (p : Part) : fileIdent t 0 cap act p
    = (none, { p with stm := { p.stm with unfiled := count16 p.stm.unfiled 1 } }) := by
  have hnone : ((p.tuner t).chan.bind fun ch => fileSteps t ch 0 cap act p) = none := by
    cases (p.tuner t).chan <;> rfl
  rw [fileIdent, hnone]

/-- An IDENT of a code and a channel that no entry has, where an index is free (R80). -/
theorem fileIdent_new {t : TunerId} {code i : Nat} {cap act : Bool} {c : Chan} {p : Part} (h0 : 1 ≤ code)
    (hc : (p.tuner t).chan = some c) (hi : p.indexOfCode code = none) (hh : p.holderOf c = none)
    (hf : p.freeIndex = some i) : fileIdent t code cap act p
      = (some i, zonesTake t i code (recordFollows t i (createStation i
          { code := code, band := c.band, capable := cap, active := act, learned := true
            items := [⟨c.freq, some (p.tuner t).qs, some p.rif.ringTime⟩] } p))) := by
  have hsteps : fileSteps t c code cap act p = some (i, createStation i
      { code := code, band := c.band, capable := cap, active := act, learned := true
        items := [⟨c.freq, some (p.tuner t).qs, some p.rif.ringTime⟩] } p) := by
    rw [fileSteps, if_neg (by omega), freeChannel, hh]
    show fileUnder t c code cap act p = _
    rw [fileUnder, hi, hf]
  have hbind : ((some c).bind fun ch => fileSteps t ch code cap act p) = some (i, createStation i
      { code := code, band := c.band, capable := cap, active := act, learned := true
        items := [⟨c.freq, some (p.tuner t).qs, some p.rif.ringTime⟩] } p) := hsteps
  rw [fileIdent, hc, hbind]

/-- An IDENT taken while bulletins are disabled and none is prompted or spent (R93). -/
theorem bulletinIdent_disabled {t : TunerId} {i : Option Nat} {p : Part} (hb : p.stm.bulletin.latch = .none)
    (hoff : p.radioCfg.bulletins = false) : bulletinIdent t i p = p := by
  unfold bulletinIdent
  dsimp only
  rw [hb, hoff]
  dsimp only
  cases bulletinStation p with
  | none => rfl
  | some j => cases (p.tuner t).chan <;> rfl

theorem recordFollows_none {t : TunerId} {i : Nat} {p : Part} (hb : p.stm.bulletin.latch = .none) :
    recordFollows t i p = p := by simp [recordFollows, hb]

/-- The flags of an entry take the packet's; its mark and the notice of it apart, nothing else changes (R79). -/
theorem setFlags_eq {i : Nat} {e : Station} (cap act : Bool) {p : Part} (he : p.station i = some e) :
    ∃ st n, setFlags i cap act p = { p with tst := { p.tst with stations := st }, nfu := n }
      ∧ ({ p with tst := { p.tst with stations := st }, nfu := n } : Part).station i
        = some { e with capable := cap, active := act } := by
  have hi : i < p.tst.stations.length := by
    by_contra hlt
    have hnone : p.station i = none := by
      unfold Part.station
      rw [List.getD_eq_default _ _ (not_lt.mp hlt)]
    rw [hnone] at he
    exact absurd he nofun
  have hentry : p.tst.stations[i].entry = some e := by
    unfold Part.station at he
    rwa [List.getD_eq_getElem _ _ hi] at he
  by_cases hsame : e.capable = cap ∧ e.active = act
  · obtain ⟨rfl, rfl⟩ := hsame
    refine ⟨p.tst.stations, p.nfu, ?_, he⟩
    rw [setFlags, he]
    exact if_pos (by simp)
  · obtain ⟨q, hq⟩ : ∃ q, q = p.updStation i fun s => { s with entry := s.entry.map fun (e : Station) =>
      { e with capable := cap, active := act } } := ⟨_, rfl⟩
    have hflags : setFlags i cap act p = setMark i q := by
      rw [setFlags, he, hq]
      exact if_neg (by simpa using hsame)
    have hstation : (q.tst.stations.getD i {}).entry = some { e with capable := cap, active := act } := by
      rw [hq]
      show ((p.tst.stations.modify i _).getD i {}).entry = _
      rw [List.getD_eq_getElem?_getD, List.getElem?_modify_eq, List.getElem?_eq_getElem hi]
      show p.tst.stations[i].entry.map _ = _
      rw [hentry]
      rfl
    rw [hflags]
    cases hm : (q.tst.stations.getD i {}).mark with
    | true => exact ⟨q.tst.stations, q.nfu, by rw [setMark, hm, hq]; rfl, hstation⟩
    | false =>
      refine ⟨q.tst.stations.modify i fun s => { s with mark := true }, q.nfu.post .stationChanged 0 none,
        by rw [setMark_fresh hm, hq]; rfl, ?_⟩
      show ((q.tst.stations.modify i fun s => { s with mark := true }).getD i {}).entry = _
      rw [List.getD_eq_getElem?_getD, List.getElem?_modify_eq, ← hstation, List.getD_eq_getElem?_getD]
      cases q.tst.stations[i]? <;> rfl

/-- An IDENT of a code and a channel that one entry has (R80). -/
theorem fileIdent_known {t : TunerId} {i : Nat} {cap act : Bool} {c : Chan} {e : Station} {p : Part} (h0 : 1 ≤ e.code)
    (hc : (p.tuner t).chan = some c) (he : p.station i = some e) (hholds : e.holds c = true)
    (hi : p.indexOfCode e.code = some i) (hh : p.holderOf c = some i) : fileIdent t e.code cap act p
      = (some i, zonesTake t i e.code (recordFollows t i (setFlags i cap act p))) := by
  simp only [Station.holds, Bool.and_eq_true, beq_iff_eq] at hholds
  obtain ⟨hband, hitem⟩ := hholds
  have hadd (it : Item) (hf : it.freq = c.freq) : addChannel i it p = p := by
    rw [addChannel, he]
    exact if_pos (by rw [hf]; exact hitem)
  have hsteps : ((some c).bind fun ch => fileSteps t ch e.code cap act p) = some (i, setFlags i cap act p) := by
    show fileSteps t c e.code cap act p = _
    have hfree : freeChannel t c e.code p = some p := by
      rw [freeChannel, hh]
      exact if_pos (by simp [he])
    rw [fileSteps, if_neg (by omega), hfree]
    show fileUnder t c e.code cap act p = _
    rw [fileUnder, hi]
    dsimp only
    rw [if_pos (by simp [he, hband]), hadd _ (by rfl)]
  rw [fileIdent, hc, hsteps]

/-- A bulletin's start on a tuner that does not switch, with room in the queue: its claim joins the tuner's, and its
prompt the queue (R93). -/
theorem bulletinStart_eq {t : TunerId} {i : Nat} {c : Chan} {p : Part} (hc : (p.tuner t).chan = some c)
    (hw : p.anu.waiting.length < 12) (hz : p.radioCfg.bulletinZones.isEmpty = false)
    (htag : p.anu.tagHeld p.anu.tagCounter = false) (hs : p.switching t = false) : bulletinStart t i p = { p with
      tuc := { p.tuc with
        tuners := p.tuc.tuners.set t
          { p.tuner t with claims := sortClaims p.tuc.grants (⟨.bulletin, false⟩ :: (p.tuner t).claims) } }
      stm := { p.stm with
        bulletin := { latch := .prompted, tag := p.anu.tagCounter, tuner := t, station := some i } }
      anu := { p.anu with
        tagCounter := if p.anu.tagCounter = 65535 then 32768 else p.anu.tagCounter + 1
        waiting := p.anu.waiting ++ [{ tag := p.anu.tagCounter, cls := .bulletin, source := .tuner t
                                       zones := p.radioCfg.bulletinZones, level := p.radioCfg.bulletinLevel
                                       maxDuration := some 300000, front := false }] } } := by
  have hgrant : grant .bulletin c t true p = { p with tuc := { p.tuc with
      tuners := p.tuc.tuners.set t
        { p.tuner t with claims := sortClaims p.tuc.grants (⟨.bulletin, false⟩ :: (p.tuner t).claims) } } } :=
    (show grant .bulletin c t true p = addClaim .bulletin t p from rfl).trans (addClaim_eq hs)
  have hassign : assignTag p.anu = (p.anu.tagCounter, { p.anu with tagCounter := nextTag p.anu.tagCounter }) := by
    have hfree : freeTag p.anu 14 p.anu.tagCounter = p.anu.tagCounter := by
      rw [freeTag, htag]
      rfl
    rw [assignTag, hfree]
  unfold bulletinStart
  rw [hc]
  dsimp only
  rw [if_neg (by simp [hz, hw]), hgrant]
  dsimp only
  rw [hassign]
  rfl

/-- Settles O42. -/
theorem servicePacketsAreFiled : Obligations.ServicePacketsAreFiled := by
  refine ⟨fun t c p w hq hl hp hc hcap hb hoff haf => ⟨fun pk => ?failed, fun cap act => ?nocode,
    fun code cap act i h0 hi hh hf hm hpo => ?filed, fun fs hn => ?freqs, fun n c1 c2 code hh hi => ?label⟩,
    fun t c i e p w hr hq hl hm hp hc hs hcap hon hb hz hfs hfr hfi he hholds h0 hi hh hw htag => ?bulletin,
    fun t ok pk p w hq hidle => ?disregarded⟩
  case failed =>
    obtain ⟨hst, -, hd, -⟩ := playsOn_iff.mp hp
    have hrun : servicePacket t false pk p = { p with stm := { p.stm with
        checkFails := p.stm.checkFails.set t (min 65535 (p.stm.checkFails.get t + 1)) } } := by
      simp [servicePacket, Tuner.working, hst, hd, count16]
    exact congrArg (fun q => Host.Outcome.next (⟨q, w⟩ : State)) (settle_quiet hrun hq rfl)
  case nocode =>
    obtain ⟨-, -, -, -, -, -, -, hmon, hsw, hscan⟩ := playsOn_iff.mp hp
    obtain ⟨lb, hx⟩ := hear_eq t 0 p
    obtain ⟨m, hm⟩ : ∃ m, m = { hear t 0 p with stm := { (hear t 0 p).stm with
      unfiled := count16 (hear t 0 p).stm.unfiled 1 } } := ⟨_, rfl⟩
    have hmeq := hm
    rw [hx] at hmeq
    have hfile : fileIdent t 0 cap act (hear t 0 p) = (none, m) := by rw [fileIdent_none, hm]
    have hrun : servicePacket t true (.ident 0 cap act) p = m := by
      rw [servicePacket_taken _ hl hp, takePacket_ident hl hfile (by rw [hmeq]; exact hl) (by rw [hmeq]; exact hcap)
        (by rw [hmeq]; exact hmon) (by rw [hmeq]; exact hsw),
        bulletinIdent_disabled (by rw [hmeq]; exact hb) (by rw [hmeq]; exact hoff),
          scanIdent_none (by rw [hmeq]; exact hscan)]
    have hmt : m.tuner t = { p.tuner t with heard := none } := by
      rw [hmeq]
      exact PerTuner.get_set_self _ _ _
    have hquiet : m.quiet = true := by
      refine quiet_of hq (by rw [hmeq]) (by rw [hmeq]) (by rw [hmeq]) (by rw [hmeq]) (fun u k hk _ => ?_)
        fun u => by rw [hmeq]; exact .inl rfl
      rw [hmeq] at hk
      change k ∈ ((p.tuc.tuners.set t _).get u).claims at hk
      rwa [claims_setTuner (by rfl)] at hk
    refine ⟨m, ?_, by rw [hmeq]; rfl, congrArg Tuner.heard hmt, by rw [hmeq], by rw [hmeq], by rw [hmeq]⟩
    exact congrArg (fun q => Host.Outcome.next (⟨q, w⟩ : State)) (settle_quiet hrun hquiet (by rw [hmeq]; rfl))
  case filed =>
    obtain ⟨-, -, -, -, -, -, -, hmon, hsw, hscan⟩ := playsOn_iff.mp hp
    obtain ⟨lb, hx⟩ := hear_eq t code p
    rw [if_neg (by omega)] at hx
    obtain ⟨x, hxx⟩ : ∃ x, x = hear t code p := ⟨_, rfl⟩
    rw [← hxx] at hx
    have hxt : x.tuner t = { p.tuner t with heard := some code } := by
      rw [hx]
      exact PerTuner.get_set_self _ _ _
    have hqs : (x.tuner t).qs = (p.tuner t).qs := by rw [hxt]; rfl
    have hlt : i < p.tst.stations.length := by
      obtain ⟨⟨s, j⟩, hfind, hj⟩ := Option.map_eq_some_iff.mp hf
      have hin := List.mem_of_find?_eq_some hfind
      obtain rfl : j = i := hj
      exact (List.mem_zipIdx' hin).1
    obtain ⟨po, st, hcreate, hsti, hstj, hpo'⟩ := createStation_eq (i := i)
      (e := { code := code, band := c.band, capable := cap, active := act, learned := true
              items := [⟨c.freq, some (x.tuner t).qs, some x.rif.ringTime⟩] }) (p := x) (by rw [hx]; exact hlt)
      (by rw [hx]; exact hm) (by rw [hx]; exact hl)
    have hfile := fileIdent_new (t := t) (code := code) (i := i) (cap := cap) (act := act) (c := c) (p := x) h0
      ((congrArg Tuner.chan hxt).trans hc) (by rw [hx]; exact hi) (by rw [hx]; exact hh) (by rw [hx]; exact hf)
    rw [hcreate, recordFollows_none (by rw [hx]; exact hb), zonesTake_eq] at hfile
    obtain ⟨m, hmm⟩ : ∃ m, m = (fileIdent t code cap act x).2 := ⟨_, rfl⟩
    have hfiled : fileIdent t code cap act x = (some i, m) := by rw [hmm, hfile]
    have hmeq := hmm.trans (congrArg Prod.snd hfile)
    dsimp only at hmeq
    have hmt (u : TunerId) : m.tuner u = x.tuner u := by rw [hmeq]; rfl
    have hradio : m.radioCfg = p.radioCfg := by
      have hsame : m.unitPoisoned tblRadio 0 0 = p.unitPoisoned tblRadio 0 0 := by
        rw [hmeq]
        exact hpo'.trans (by rw [hx]; rfl)
      unfold Part.radioCfg
      rw [hsame, hmeq, hx]
    have hstm : m.stm = { p.stm with labels := lb } := by rw [hmeq, hx]
    have hclaims (u : TunerId) : (m.tuner u).claims = (p.tuner u).claims := by
      rw [hmt, hx]
      exact claims_setTuner (by rfl) u
    have hml : m.tst.latent = [] := by rw [hmeq, hx]; exact hl
    have hrun : servicePacket t true (.ident code cap act) p = m := by
      rw [servicePacket_taken _ hl hp, takePacket_ident hl (by rw [← hxx]; exact hfiled) hml (by rw [hstm]; exact hcap)
        (by unfold Part.follow; rw [hstm]; exact hmon)
        (by unfold Part.switching Part.follow; rw [hstm]; exact hsw),
        bulletinIdent_disabled (by rw [hstm]; exact hb) (by rw [hradio]; exact hoff),
        scanIdent_none (by rw [hstm]; exact hscan)]
    have hquiet : m.quiet = true := by
      refine quiet_of_radio hq hradio (by rw [hstm]) (by rw [hstm]) (by rw [hstm]) (fun u k hk _ => ?_)
        fun u => by unfold Part.follow; rw [hstm]; exact .inl rfl
      rwa [hclaims] at hk
    have hexec : exec (.servicePacket t true (.ident code cap act)) ⟨p, w⟩ = .next ⟨noteReports p m, w⟩ := by
      refine congrArg (fun q => Host.Outcome.next (⟨q, w⟩ : State)) ?_
      rw [settle, hrun, stmSettle_quiet hquiet]
    have hstation : m.tst.stations = st := by rw [hmeq]
    have hzones (z : ZoneId) (a : Claimant) (ha : claimantOf z = some a) (hk : ⟨a, false⟩ ∈ (p.tuner t).claims)
        (hatt : (p.zone z).att = some t) : (m.zone z).station = some i ∧ (m.zone z).code = some code := by
      have hlisten : x.listening z = true :=
        listening_of_claim ha (t := t) (by rw [congrArg Tuner.claims hxt]; exact hk)
      have hatt' : (x.zone z).attachedTo t = true := by
        rw [hx]
        show ((p.zone z).att == some t || (p.zone z).att2 == some t) = true
        rw [hatt, beq_self_eq_true, Bool.true_or]
      have hmem : z ∈ [ZoneId.front, .hpLeft, .hpRight] := by
        cases z with
        | front | hpLeft | hpRight => decide
        | rearCabin | cargo | driver => exact absurd ha nofun
      have hz : m.zone z = { x.zone z with station := some i, code := some code } := by
        rw [hmeq]
        refine (PerZone.get_of _ _).trans (if_pos ⟨hmem, ?_⟩)
        exact Bool.and_eq_true_iff.mpr ⟨hatt', hlisten⟩
      exact ⟨congrArg Zone.station hz, congrArg Zone.code hz⟩
    obtain ⟨rl, hrl⟩ := noteReports_eq p m
    refine ⟨noteReports p m, hexec, ?_⟩
    rw [hrl]
    refine ⟨?_, ?_, ?_, fun j hj => ?_, hzones, ?_, by rw [hstm], ?_, ?_, ?_, ?_, ?_⟩
    · show (m.tst.stations.getD i {}).entry = _
      rw [hstation, List.getD_eq_getElem?_getD, hsti]
      show some _ = some _
      rw [hqs, hx]
    · show (m.tst.stations.getD i {}).mark = _
      rw [hstation, List.getD_eq_getElem?_getD, hsti]
      rfl
    · exact congrArg Tuner.heard ((hmt t).trans hxt)
    · show m.tst.stations[j]? = _
      rw [hstation, hstj j hj, hx]
    all_goals rw [hmeq, hx]
  case freqs =>
    have hrun : servicePacket t true (.freqs fs) p
        = { p with stm := { p.stm with dropped := min 65535 (p.stm.dropped + fs.length) } } := by
      have hfile : fileFreqs t fs p
          = { p with stm := { p.stm with dropped := min 65535 (p.stm.dropped + fs.length) } } := by
        simp only [fileFreqs, hn, hc]
        rfl
      rw [servicePacket_taken _ hl hp, takePacket, correctReads_clean _ hl]
      dsimp only
      rw [hfile, ownerReads_clean _ (by exact hl), captureCopy_none _ _ (by exact hcap)]
    exact congrArg (fun q => Host.Outcome.next (⟨q, w⟩ : State)) (settle_quiet hrun hq rfl)
  case label =>
    have hrun : servicePacket t true (.label n c1 c2) p = { p with stm := { p.stm with
        labels := p.stm.labels.set t ((p.stm.labels.get t).set n (some (c1, c2))) } } := by
      have hfile : fileLabel t n c1 c2 p = { p with stm := { p.stm with
          labels := p.stm.labels.set t ((p.stm.labels.get t).set n (some (c1, c2))) } } := by
        have hi' : ({ p with stm := { p.stm with
          labels := p.stm.labels.set t ((p.stm.labels.get t).set n (some (c1, c2))) } } :
            Part).indexOfCode code = none := hi
        simp only [fileLabel, hh, hi']
        cases fullLabel ((p.stm.labels.get t).set n (some (c1, c2))) <;> rfl
      rw [servicePacket_taken _ hl hp, takePacket, correctReads_clean _ hl]
      dsimp only
      rw [hfile, ownerReads_clean _ (by exact hl), captureCopy_none _ _ (by exact hcap)]
    exact congrArg (fun q => Host.Outcome.next (⟨q, w⟩ : State)) (settle_quiet hrun hq rfl)
  case bulletin =>
    obtain ⟨hst, -, -, -, -, -, -, hmon, hsw, hscan⟩ := playsOn_iff.mp hp
    obtain ⟨lb, hx⟩ := hear_eq t e.code p
    obtain ⟨x, hxx⟩ : ∃ x, x = hear t e.code p := ⟨_, rfl⟩
    rw [← hxx] at hx
    have hxt : x.tuner t = { p.tuner t with heard := if e.code = 0 then none else some e.code } := by
      rw [hx]
      exact PerTuner.get_set_self _ _ _
    obtain ⟨st, n, hflags, hstation⟩ := setFlags_eq true true (i := i) (e := e) (p := x) (by rw [hx]; exact he)
    have hfile := fileIdent_known (t := t) (i := i) (cap := true) (act := true) (c := c) (e := e) (p := x) h0
      ((congrArg Tuner.chan hxt).trans hc) (by rw [hx]; exact he) hholds (by rw [hx]; exact hi) (by rw [hx]; exact hh)
    rw [hflags, recordFollows_none (by rw [hx]; exact hb)] at hfile
    obtain ⟨m, hmm⟩ : ∃ m, m = (fileIdent t e.code true true x).2 := ⟨_, rfl⟩
    have hfiled : fileIdent t e.code true true x = (some i, m) := by rw [hmm, hfile]
    have hmeq := hmm.trans (congrArg Prod.snd hfile)
    dsimp only at hmeq
    have hzone := zonesTake_zone t i e.code { x with tst := { x.tst with stations := st }, nfu := n } .front
    rw [← hmeq] at hzone
    rw [zonesTake_eq] at hmeq
    have hstm : m.stm = { p.stm with labels := lb } := by rw [hmeq, hx]
    have hml : m.tst.latent = [] := by rw [hmeq, hx]; exact hl
    have hmt (u : TunerId) : m.tuner u = x.tuner u := by rw [hmeq]; rfl
    have hradio : m.radioCfg = p.radioCfg := by rw [hmeq, hx]; rfl
    have hmst : m.station i = some { e with capable := true, active := true } := by
      rw [hmeq]
      exact hstation
    have hmc : (m.tuner t).chan = some c := (congrArg Tuner.chan (hmt t)).trans ((congrArg Tuner.chan hxt).trans hc)
    have hmcl : (m.tuner t).claims = (p.tuner t).claims := by rw [hmt, hxt]
    have hmstate : (m.tuner t).state = .playing := (congrArg Tuner.state (hmt t)).trans
      ((congrArg Tuner.state hxt).trans hst)
    have hmf (u : TunerId) : m.follow u = p.follow u := by unfold Part.follow; rw [hstm]
    have hmanu : m.anu = p.anu := by rw [hmeq, hx]
    have hfront : frontStation m = some i := by
      have hz' : (m.zone .front).state = .playing ∧ (m.zone .front).source = .radio ∧ (m.zone .front).station
        = some i := by
        have hz0 : x.zone .front = p.zone .front := by rw [hx]; rfl
        rcases hzone with h | h
        · rw [h]
          change (x.zone .front).state = _ ∧ (x.zone .front).source = _ ∧ (x.zone .front).station = _
          rw [hz0]
          exact ⟨hfs, hfr, hfi⟩
        · rw [h]
          change (x.zone .front).state = _ ∧ (x.zone .front).source = _ ∧ _
          rw [hz0]
          exact ⟨hfs, hfr, rfl⟩
      obtain ⟨h1, h2, h3⟩ := hz'
      simp [frontStation, h1, h2, h3]
    have hbs : bulletinStation m = some i := by
      simp [bulletinStation, hfront, hmst, Option.filter]
    have hserves : m.serves t c = true := by
      have hsame : m.serves t c = p.serves t c := by
        unfold Part.serves
        dsimp only
        rw [hmstate, hmc, hmcl, hmf, hst, hc]
      rw [hsame, hs]
    have hstart : bulletinIdent t (some i) m = bulletinStart t i m := by
      have hholds' : ({ e with capable := true, active := true } : Station).holds c = true := hholds
      have hlatch : m.stm.bulletin.latch = .none := by rw [hstm]; exact hb
      have hactive : m.isActive = true := by
        rw [hmeq, hx]
        simp [Part.isActive, hm]
      have hnocheck : m.checkingNow t = false := by simp [Part.checkingNow, hmf, hmon]
      unfold bulletinIdent
      dsimp only
      rw [hlatch, hbs, hmc]
      dsimp only
      exact if_pos (by simp [hradio, hon, hactive, hmstate, hnocheck, hserves, hmst, hholds'])
    obtain ⟨g, hg⟩ : ∃ g, g = bulletinStart t i m := ⟨_, rfl⟩
    have hgeq := hg.trans (bulletinStart_eq (i := i) hmc (by rw [hmanu]; exact hw) (by rw [hradio]; exact hz)
      (by rw [hmanu]; exact htag) (switching_of_monitor (by rw [hmf]; exact hmon)))
    have hgt (u : TunerId) : g.tuner u = if u = t then { m.tuner t with
        claims := sortClaims m.tuc.grants (⟨.bulletin, false⟩ :: (m.tuner t).claims) } else m.tuner u := by
      rw [hgeq]
      exact PerTuner.get_set _ _ _ _
    have hgself := (hgt t).trans (if_pos rfl)
    have hrun : servicePacket t true (.ident e.code true true) p = g := by
      rw [servicePacket_taken _ hl hp, takePacket_ident hl (by rw [← hxx]; exact hfiled) hml (by rw [hstm]; exact hcap)
        (by rw [hmf]; exact hmon) (by unfold Part.switching; rw [hmf]; exact hsw), hstart, ← hg,
        scanIdent_none (by rw [hgeq]; show m.stm.scan = none; rw [hstm]; exact hscan)]
    have hgclaims (u : TunerId) (k : Claim) (hk : k ∈ (g.tuner u).claims) :
      k = ⟨.bulletin, false⟩ ∨ k ∈ (p.tuner u).claims := by
      rw [hgt] at hk
      split at hk
      · rename_i hu
        rw [hu, ← hmcl]
        exact List.mem_cons.mp (sortClaims_mem.mp hk)
      · rw [hmt, hx] at hk
        change k ∈ ((p.tuc.tuners.set t _).get u).claims at hk
        rw [claims_setTuner (by rfl)] at hk
        exact .inr hk
    have hstill : g.still = true := by
      obtain ⟨-, hq2, hq3, hq4, hq5, hq6, hq7⟩ := quiet_iff.mp hq
      have hnone {a : Claimant} (ha : a ≠ .bulletin) (hp : p.holding a = none) : g.holding a = none := by
        refine holding_none_iff.mpr fun u k hk hwho => ?_
        rcases hgclaims u k hk with hb | hin
        · rw [hb] at hwho
          exact absurd hwho.symm ha
        · exact holding_none_iff.mp hp u k hin hwho
      have hgradio : g.radioCfg = p.radioCfg := by rw [← hradio, hgeq]; rfl
      have hgstm : g.stm.watch = none ∧ g.stm.watchState = .inactive := by
        rw [hgeq]
        show m.stm.watch = none ∧ m.stm.watchState = .inactive
        rw [hstm]
        exact ⟨hq2, hq3⟩
      have hgf (u : TunerId) : (g.follow u).lowTimer = false := by
        rw [hgeq]
        show (m.follow u).lowTimer = false
        rw [hmf]
        exact hq7 u
      obtain ⟨hg2, hg3⟩ := hgstm
      simp [Part.still, hgradio, hon, hg2, hg3, hnone (a := .watch) (by decide) hq4,
        hnone (a := .background) (by decide) hq5, hq6, hgf]
    obtain ⟨rl, hrl⟩ := noteReports_eq p g
    refine ⟨noteReports p g, ?_, ?_⟩
    · refine congrArg (fun q => Host.Outcome.next (⟨q, w⟩ : State)) ?_
      rw [settle, hrun, stmSettle_still hstill (by rw [hgeq]; exact hml)]
    rw [hrl]
    refine ⟨?_, ?_, fun k hk => ?_, ?_, ?_, ?_, ?_, ?_, ?_, ?_, ?_⟩
    · rw [hgeq, hmanu]
    · exact (congrArg Tuner.claims hgself) ▸ sortClaims_mem.mpr (.head _)
    · exact (congrArg Tuner.claims hgself) ▸ sortClaims_mem.mpr (.tail _ (by rw [hmcl]; exact hk))
    · exact (congrArg Tuner.state hgself).trans hmstate
    · refine (hgt _).trans ((if_neg (by cases t <;> decide)).trans ((hmt _).trans ?_))
      rw [hx]
      exact PerTuner.get_set_of_ne _ _ _ _ (by cases t <;> decide)
    · rw [hgeq, hmanu, hradio]
    · rw [hgeq]
      exact hmst
    all_goals rw [hgeq, hmeq, hx]
  case disregarded =>
    have hrun : servicePacket t ok pk p = p := by
      have hcond : (!(p.tuner t).working || !(p.tuner t).done) = true := by
        rcases hidle with h | h | h <;> simp [Tuner.working, h]
      simp [servicePacket, hcond]
    exact congrArg (fun q => Host.Outcome.next (⟨q, w⟩ : State)) (settle_quiet hrun hq rfl)

end Sys2Proof.Machine
end

section
/-! PROOFS. Stations are written, removed and stored (O38). -/

namespace Sys2Proof.Machine

/-! ### A full write -/

/-- The values of an entry written whole. -/
def stationValues (e : Station) : Fields := [some (byte1 1), some (byte2 e.code), some (byte1 (bandCode e.band)),
  some (labelBytes e), some (itemsField (e.items.take 6)), some (itemsField (e.items.drop 6)),
  some (byte1 (codeOfOption e.favourite 0)),
  some (byte1 (codeOfBool e.capable + 2 * codeOfBool e.active + 4 * codeOfBool false + 8 * codeOfBool e.learned))]

/-- The items of a written entry: one that the entry had keeps its quality and time (R83). -/
def keptItems (old : Option Station) (e : Station) : List Item :=
  (e.items.map Item.freq).map fun f =>
    ((old.elim [] Station.items).find? fun (it : Item) => it.freq == f).getD { freq := f }

theorem keptItems_freq (old : Option Station) (e : Station) :
    (keptItems old e).map Item.freq = e.items.map Item.freq := by
  unfold keptItems
  rw [List.map_map]
  refine (List.map_congr_left fun f _ => ?_).trans (List.map_id _)
  show (((old.elim [] Station.items).find? fun it => it.freq == f).getD { freq := f }).freq = f
  cases hf : (old.elim [] Station.items).find? fun it => it.freq == f with
  | none => rfl
  | some it => simpa using List.find?_some hf

theorem mem_keptItems {old : Option Station} {e : Station} {it : Item} (h : it ∈ keptItems old e) :
    (∃ o, old = some o ∧ it ∈ o.items)
      ∨ it = { freq := it.freq } ∧ ∀ o, old = some o → ∀ x ∈ o.items, x.freq ≠ it.freq := by
  obtain ⟨f, -, rfl⟩ := List.mem_map.mp h
  cases hf : (old.elim [] Station.items).find? fun it => it.freq == f with
  | some it =>
    cases old with
    | none => exact absurd hf nofun
    | some o => exact .inl ⟨o, rfl, List.mem_of_find?_eq_some hf⟩
  | none =>
    refine .inr ⟨rfl, fun o ho x hx => ?_⟩
    subst ho
    simpa using List.find?_eq_none.mp hf x hx

theorem holds_of_freqs {e e' : Station} (hb : e'.band = e.band) (hf : e'.items.map Item.freq = e.items.map Item.freq)
    (c : Chan) : e'.holds c = e.holds c := by
  have hany (l : List Item) : (l.any fun it => it.freq == c.freq) = (l.map Item.freq).any (· == c.freq) := by
    rw [List.any_map]
    rfl
  simp only [Station.holds, hb, hany, hf]

/-- The conditions answered by DUPLICATE (R83). -/
theorem stationUnique_iff {p : Part} {i : Nat} {e : Station} : stationUnique p i e = true
    ↔ (e.items.map Item.freq).Nodup ∧ ∀ j o, j ≠ i → p.station j = some o → o.code ≠ e.code
        ∧ (e.favourite = none ∨ o.favourite ≠ e.favourite) ∧ ∀ it ∈ e.items, o.holds ⟨e.band, it.freq⟩ = false := by
  simp only [stationUnique, Bool.and_eq_true, otherStations_iff, distinct_iff, bne_iff_ne, Bool.or_eq_true,
    Option.isNone_iff_eq_none, Bool.not_eq_true', List.any_eq_false, Bool.not_eq_true]
  have hfav (o : Station) : o.favourite = none ∨ o.favourite ≠ e.favourite
      ↔ e.favourite = none ∨ o.favourite ≠ e.favourite := by
    by_cases h : o.favourite = e.favourite
    · simp [h]
    · simp [h]
  simp only [hfav, and_assoc]
  exact and_comm

theorem stationUnique_of_freqs {p : Part} {i : Nat} {e e' : Station} (hc : e'.code = e.code)
    (hv : e'.favourite = e.favourite)
    (hb : e'.band = e.band) (hf : e'.items.map Item.freq = e.items.map Item.freq) :
    stationUnique p i e' = stationUnique p i e := by
  have hany (o : Station) (b : Band) (l : List Item) : (l.any fun it => o.holds ⟨b, it.freq⟩)
      = (l.map Item.freq).any fun f => o.holds ⟨b, f⟩ := by
    rw [List.any_map]
    rfl
  simp only [stationUnique, hany, hc, hv, hb, hf]

/-- The condition answered by STATE (R83). -/
theorem losesListener_iff {p : Part} {i : Nat} {e : Station} : losesListener p i (p.station i) (some e) = true
    ↔ ∃ o z t c, p.station i = some o ∧ p.refersTo z i = true ∧ p.zoneTuner z = some t
        ∧ (p.tuner t).chan = some c ∧ o.holds c = true ∧ e.holds c = false := by
  simp only [losesListener, List.any_eq_true, Bool.and_eq_true]
  constructor
  · rintro ⟨z, -, href, hlose⟩
    cases ht : p.zoneTuner z with
    | none => simp [ht] at hlose
    | some t =>
      cases hc : (p.tuner t).chan with
      | none => simp [ht, hc] at hlose
      | some c =>
        simp only [ht, hc, Option.bind_some, Bool.and_eq_true, Option.any_eq_true, Bool.not_eq_true'] at hlose
        obtain ⟨⟨o, ho, hoc⟩, hec⟩ := hlose
        exact ⟨o, z, t, c, ho, href, ht, hc, hoc, hec⟩
  · rintro ⟨o, z, t, c, ho, href, ht, hc, hoc, hec⟩
    have hmem : z ∈ [ZoneId.front, .hpLeft, .hpRight] := by
      cases z with
      | front | hpLeft | hpRight => decide
      | rearCabin | cargo | driver => exact absurd href nofun
    exact ⟨z, hmem, href, by simp [ht, hc, ho, hoc, hec]⟩

/-- A full write of an index is decided by its values (R83, R164). -/
theorem tableWrite_station {i : Nat} {e : Station} {p : Part} (hl : p.tst.latent = []) (hi : i < 48)
    (h12 : e.items.length ≤ 12) (h8 : (labelBytes e).length = 8) :
    tableWrite 8 i 255 (stationFields e false).flatten p = takeWrite 8 i 255 (stationValues e) p := by
  unfold tableWrite
  rw [full_split e h12 h8, readReplaced_clean _ _ hl]
  show (if 14 ≤ 8 then _ else if 48 ≤ i then _ else _) = _
  rw [if_neg (by decide), if_neg (by omega)]
  rfl

theorem exec_write_refused {h : ReqHeader} {i m : Nat} {vs : List Byte} {p : Part} {r : Result} (w : List Instr)
    (ht : p.takes 0x11 h = true) (h1 : 1 ≤ vs.length) (h2 : vs.length ≤ 52) (hs : p.still = true)
    (hl : p.tst.latent = []) (hw : tableWrite 8 i m vs p = (r, p)) :
    exec (.tableWrite h 8 i m vs) ⟨p, w⟩ = .next ⟨answered 0x11 h r [] p, w⟩ := by
  rw [write_taken ht h1 h2, writing_refused rfl hw hs hl]

theorem exec_write_done {h : ReqHeader} {i m : Nat} {vs : List Byte} {p q : Part} (w : List Instr)
    (ht : p.takes 0x11 h = true) (h1 : 1 ≤ vs.length) (h2 : vs.length ≤ 52) (hs : q.still = true)
    (hl : q.tst.latent = []) (hw : tableWrite 8 i m vs p = (.ok, q)) :
    ∃ rl, exec (.tableWrite h 8 i m vs) ⟨p, w⟩ = .next ⟨answered 0x11 h .ok [] { q with rlu := rl }, w⟩ := by
  obtain ⟨rl, e⟩ := writing_ok rfl hw hs hl
  exact ⟨rl, by rw [write_taken ht h1 h2, e]⟩

theorem cleanEntry_still {i : Nat} {p : Part} (h : p.still = true) : (cleanEntry tblStations i p).still = true := by
  have hradio : (cleanEntry tblStations i p).radioCfg = p.radioCfg := by
    have hsame : (cleanEntry tblStations i p).unitPoisoned tblRadio 0 0 = p.unitPoisoned tblRadio 0 0 := by
      rw [Bool.eq_iff_iff]
      simp [cleanEntry, Part.unitPoisoned]
    unfold Part.radioCfg
    rw [hsame]
    rfl
  exact still_of h rfl hradio (.inl rfl) (by exact watchState_of_still (p := p) h)
    (fun u => ⟨fun _ => true, by
      show (p.tuner u).claims = _
      simp⟩) fun _ => .inl rfl

/-- The owner's decision of a full write (R83). -/
theorem ownerWrite_station {i : Nat} {e : Station} {p : Part} (hl : p.tst.latent = []) :
    ownerWrite 8 i (stationValues e) p = (writtenStation (stationValues e) (p.station i)).elim (.badValue, p) fun e' =>
      if stationUnique p i e' = false then (.duplicate, p)
      else if losesListener p i (p.station i) (some e') = true then (.state, p)
      else (.ok, storeStation i (p.station i) e' p) := by
  have h1 : valueOr (stationValues e) 0 (codeOfBool (p.station i).isSome) = 1 := rfl
  show writeStation i (stationValues e) p = _
  unfold writeStation
  dsimp only
  rw [h1, if_neg (by simp), if_neg (by simp)]
  cases writtenStation (stationValues e) (p.station i) with
  | none => rfl
  | some e' => simp only [readOthers_clean _ _ hl, Bool.not_eq_true', Option.elim_some]

/-- A write that its owner refuses is refused. -/
theorem takeWrite_refused {t i m : Nat} {fs : Fields} {p : Part} {r : Result} (h : ownerWrite t i fs p = (r, p))
    (hr : r ≠ .ok) : takeWrite t i m fs p = (r, p) := by
  unfold takeWrite
  rw [h]
  exact if_neg (by simpa using hr)

theorem takeWrite_station {i : Nat} {fs : Fields} {p q : Part} (h : ownerWrite 8 i fs p = (.ok, q)) :
    takeWrite 8 i 255 fs p = (.ok, cleanEntry tblStations i q) := by
  unfold takeWrite
  rw [h]
  rfl

/-! ### An entry removed -/

/-- The values of a write that frees an index. -/
def removal : Fields := some (byte1 0) :: List.replicate 7 none

theorem forgetBulletinStation_eq (i : Nat) (p : Part) : forgetBulletinStation i p = { p with stm := { p.stm with
    bulletin := { p.stm.bulletin with station := p.stm.bulletin.station.filter fun j => j != i } } } := by
  unfold forgetBulletinStation
  cases hb : p.stm.bulletin.station with
  | none =>
    have hsame : ({ p.stm.bulletin with station := none } : Bulletin) = p.stm.bulletin := by rw [← hb]
    rw [if_neg (by exact nofun)]
    show p = { p with stm := { p.stm with bulletin := { p.stm.bulletin with station := none } } }
    rw [hsame]
  | some j =>
    by_cases hj : j = i
    · rw [if_pos (by simp [hj])]
      simp [hj, Option.filter]
    · have hkept : (some j).filter (fun k => k != i) = some j := by simp [hj]
      have hsame : ({ p.stm.bulletin with station := some j } : Bulletin) = p.stm.bulletin := by rw [← hb]
      rw [if_neg (by simp [hj]), hkept, hsame]

/-- An entry removed by the head unit: no zone, watch or bulletin record names it any longer (R83). -/
theorem dropStation_eq {i : Nat} {p : Part} (hs : p.still = true) :
    ∃ ts zm st tu, dropStation i p = { p with tst := ts, zmx := zm, stm := st, tuc := tu }
      ∧ (dropStation i p).still = true ∧ ts.latent = (cleanEntry tblStations i p).tst.latent
      ∧ ts.stations = p.tst.stations.modify i (fun s => { s with entry := none })
      ∧ (∀ z, (dropStation i p).zone z = if (p.zone z).station = some i
        then { p.zone z with station := none } else p.zone z)
      ∧ st.watch = (if p.stm.watch = some i then none else p.stm.watch)
      ∧ st.bulletin = { p.stm.bulletin with station := p.stm.bulletin.station.filter fun j => j != i } := by
  obtain ⟨c, hc⟩ : ∃ c, c = cleanEntry tblStations i (p.updStation i fun s => { s with entry := none }) := ⟨_, rfl⟩
  have hcs : c.still = true := by
    rw [hc]
    exact cleanEntry_still (still_of hs rfl rfl (.inl rfl) (by exact watchState_of_still (p := p) hs)
      (fun u => ⟨fun _ => true, by
        show (p.tuner u).claims = _
        simp⟩) fun _ => .inl rfl)
  obtain ⟨zm, hun, hzones⟩ := unname_zone i c
  obtain ⟨b, hb⟩ : ∃ b, b = forgetBulletinStation i (unnameStation i c) := ⟨_, rfl⟩
  have hbeq := hb
  rw [forgetBulletinStation_eq, hun] at hbeq
  have hbs : b.still = true := by
    rw [hbeq]
    exact still_of hcs rfl rfl (.inl rfl) (by exact watchState_of_still (p := c) hcs)
      (fun u => ⟨fun _ => true, by
        show (c.tuner u).claims = _
        simp⟩) fun _ => .inl rfl
  have hbz (z : ZoneId) : b.zone z = if (p.zone z).station = some i
        then { p.zone z with station := none } else p.zone z := by
    have hfirst : b.zone z = (unnameStation i c).zone z := by rw [hbeq, hun]; rfl
    rw [hfirst, hzones, hc]
    rfl
  have hdrop : dropStation i p = if b.stm.watch == some i then clearWatch b else b := by
    rw [hb, hc]
    rfl
  have hbw : b.stm.watch = p.stm.watch := by rw [hbeq, hc]; rfl
  rw [hdrop, hbw]
  by_cases hw : p.stm.watch = some i
  · obtain ⟨tu, f, e, hstill⟩ := clearWatch_still hbs
    rw [if_pos (by simpa using hw), if_pos hw]
    refine ⟨b.tst, b.zmx, { b.stm with watch := none, watchState := .inactive, follow := f }, tu, ?_, hstill, ?_, ?_,
      fun z => ?_, rfl, ?_⟩
    · rw [e, hbeq, hc]
      rfl
    · rw [hbeq, hc]
      rfl
    · rw [hbeq, hc]
      rfl
    · rw [e]
      exact hbz z
    · rw [hbeq, hc]
      rfl
  · rw [if_neg (by simpa using hw), if_neg hw]
    refine ⟨b.tst, b.zmx, b.stm, b.tuc, ?_, hbs, ?_, ?_, hbz, hbw, ?_⟩
    all_goals
      rw [hbeq, hc]
      rfl

/-- A write that frees an index whose entry is not poisoned (R83). -/
theorem tableWrite_removal {i : Nat} {p : Part} (hl : p.tst.latent = []) (hi : i < 48)
    (hp : p.entryPoisoned 8 i = false) : tableWrite 8 i 1 (byte1 0) p
      = if losesListener p i (p.station i) none = true then (.state, p) else (.ok, dropStation i p) := by
  have hsplit : splitFields 8 1 (fieldSizes 8).zipIdx (byte1 0) = some removal := by decide
  have hpending : p.poisonPending 8 i = false := by simp [Part.poisonPending, hl]
  have hmerge : mergeWrite 8 i 1 removal p = takeWrite 8 i 1 removal p := by
    have hcheck : mergeCheck 8 i 1 p = p := checkEntry_clean 8 i hl
    unfold mergeWrite
    show (if (8 != tblCurves && p.poisonPending 8 i) = true then _ else takeWrite 8 i 1 removal (mergeCheck 8 i 1 p))
      = _
    rw [hpending, hcheck]
    rfl
  have howner : ownerWrite 8 i removal p
      = if losesListener p i (p.station i) none = true then (.state, p) else (.ok, dropStation i p) := rfl
  have hfull : tableWrite 8 i 1 (byte1 0) p = mergeWrite 8 i 1 removal p := by
    unfold tableWrite
    rw [hsplit]
    show (if 14 ≤ 8 then _ else if 48 ≤ i then _ else _) = _
    rw [if_neg (by decide), if_neg (by omega)]
    show (if (8 != tblCurves && p.entryPoisoned 8 i) = true then _ else _) = _
    rw [if_neg (by simp [hp])]
  rw [hfull, hmerge, takeWrite, howner]
  split <;> rfl

theorem losesListener_none_iff {p : Part} {i : Nat} {old : Option Station} :
    losesListener p i old none = true ↔ ∃ z, p.refersTo z i = true := by
  simp only [losesListener, List.any_eq_true, Bool.and_eq_true]
  constructor
  · rintro ⟨z, -, href, -⟩
    exact ⟨z, href⟩
  · rintro ⟨z, href⟩
    have hmem : z ∈ [ZoneId.front, .hpLeft, .hpRight] := by
      cases z with
      | front | hpLeft | hpRight => decide
      | rearCabin | cargo | driver => exact absurd href nofun
    refine ⟨z, hmem, href, ?_⟩
    cases (p.zoneTuner z).bind fun t => (p.tuner t).chan <;> rfl

theorem lt_of_station {i : Nat} {e : Station} {p : Part} (h : p.station i = some e) : i < p.tst.stations.length := by
  by_contra hlt
  have hnone : p.station i = none := by
    unfold Part.station
    rw [List.getD_eq_default _ _ (not_lt.mp hlt)]
  rw [hnone] at h
  exact absurd h nofun

/-- A slot changed with its mark as it was. -/
theorem marks_modify (l : List StationSlot) (i : Nat) (f : StationSlot → StationSlot) (h : ∀ s, (f s).mark = s.mark) :
    (l.modify i f).map StationSlot.mark = l.map StationSlot.mark := by
  apply List.ext_getElem?
  intro j
  rw [List.getElem?_map, List.getElem?_map, List.getElem?_modify]
  cases l[j]? with
  | none => rfl
  | some s => by_cases hj : i = j <;> simp [hj, h]

/-! ### A quality stored -/

theorem settleRead_self (p : Part) : settleRead p p = p := by simp [settleRead, undisturbed]

/-- QUALITY_STORE without errors in the tables (R85). -/
theorem qualityStore_eq {t : TunerId} {c : Chan} {p : Part} (hr : p.running = true) (hl : p.tst.latent = [])
    (hc : (p.tuner t).chan = some c) : qualityStore t p
      = if (p.tuner t).state = .playing ∧ (p.tuner t).done = true ∧ ∃ k ∈ (p.tuner t).claims, k.prov = false
            ∧ (k.who.listens = true ∨ k.who = .bulletin ∨ k.who = .watch)
        then storeQuality c (p.tuner t).qs p else p := by
  unfold qualityStore
  simp only [hr, hc, readHolder_clean c hl, settleRead_self, Bool.true_and, Bool.and_eq_true, beq_iff_eq,
    List.any_eq_true, Claim.own, Bool.not_eq_true', Bool.or_eq_true, or_assoc, and_assoc]

theorem storeQuality_unheld {c : Chan} {n : Nat} {p : Part} (hl : p.tst.latent = []) (h : p.holderOf c = none) :
    storeQuality c n p = p := by
  simp only [storeQuality, readHolder_clean c hl, h]

theorem storeQuality_stations {c : Chan} {n i : Nat} {p : Part} (hl : p.tst.latent = []) (h : p.holderOf c = some i) :
    ∃ f : StationSlot → StationSlot, (∀ s, (f s).mark = s.mark)
      ∧ storeQuality c n p = { p with tst := { p.tst with stations := p.tst.stations.modify i f } } := by
  refine ⟨fun s => { s with entry := s.entry.map fun (e : Station) => { e with items := e.items.map fun (it : Item) =>
    if it.freq == c.freq then { it with quality := some n, heard := some p.rif.ringTime } else it } }, fun _ => rfl, ?_⟩
  simp only [storeQuality, readHolder_clean c hl, h]
  rfl

/-- Settles O38. -/
theorem stationsAreWrittenRemovedAndStored : Obligations.StationsAreWrittenRemovedAndStored := by
  refine ⟨fun h i e p w ht hs hl hi hlen hcode h12 hf hfav hlab => ?write, fun h i o p w ht hs hl hi ho hpo => ?remove,
    fun t c p w hr hl hc => ⟨fun hno => ?unstored, fun i e hst hd hown hi he => ?stored⟩⟩
  case write =>
    have h8 : (labelBytes e).length = 8 := by
      unfold labelBytes
      cases hl : e.label with
      | none => rfl
      | some l => exact (hlab l hl).1
    have hlength := station_fields_length e h8
    have hwritten := written_full e (p.station i) hcode h12 hf hfav hlab
    have hwrite := tableWrite_station hl hi h12 h8
    obtain ⟨e', he'⟩ : ∃ e', e' = { e with
      items := keptItems (p.station i) e, learned := (p.station i).any Station.learned } := ⟨_, rfl⟩
    have hfreqs : e'.items.map Item.freq = e.items.map Item.freq := by rw [he']; exact keptItems_freq _ _
    have hholds (c : Chan) : e'.holds c = e.holds c := holds_of_freqs (by rw [he']) hfreqs c
    have hsome (hv : 1 ≤ e.code ∧ e.items ≠ [] ∧ (∀ it ∈ e.items, validFreq e.band it.freq = true)
        ∧ ∀ n, e.favourite = some n → n ≤ 12) : writtenStation (stationValues e) (p.station i) = some e' :=
      hwritten.trans ((if_pos hv).trans (by rw [he']; rfl))
    have hunique : stationUnique p i e' = stationUnique p i e :=
      stationUnique_of_freqs (by rw [he']) (by rw [he']) (by rw [he']) hfreqs
    have howner := ownerWrite_station (i := i) (e := e) hl
    refine ⟨fun hv => ?_, fun hv hu => ?_, fun hv hu hk => ?_, fun hv hu hk => ?_⟩
    · have hnone : writtenStation (stationValues e) (p.station i) = none := hwritten.trans (if_neg hv)
      rw [hnone] at howner
      exact exec_write_refused w ht (by omega) (by omega) hs hl (hwrite.trans (takeWrite_refused howner (by decide)))
    · rw [hsome hv, Option.elim_some,
        if_pos (by rw [hunique, ← Bool.not_eq_true]; exact fun h => hu (stationUnique_iff.mp h))] at howner
      exact exec_write_refused w ht (by omega) (by omega) hs hl (hwrite.trans (takeWrite_refused howner (by decide)))
    · have hlose : losesListener p i (p.station i) (some e') = true := by
        by_contra hno
        refine hk fun o z t c ho href ht hc hoc => ?_
        by_contra hec
        refine hno (losesListener_iff.mpr ⟨o, z, t, c, ho, href, ht, hc, hoc, ?_⟩)
        rw [hholds, ← Bool.not_eq_true]
        exact hec
      rw [hsome hv, Option.elim_some, if_neg (by rw [hunique, stationUnique_iff.mpr hu]; decide),
        if_pos hlose] at howner
      exact exec_write_refused w ht (by omega) (by omega) hs hl (hwrite.trans (takeWrite_refused howner (by decide)))
    · have hlose : ¬ losesListener p i (p.station i) (some e') = true := by
        rw [losesListener_iff]
        rintro ⟨o, z, t, c, ho, href, ht, hc, hoc, hec⟩
        rw [hholds, hk o z t c ho href ht hc hoc] at hec
        exact absurd hec (by decide)
      rw [hsome hv, Option.elim_some, if_neg (by rw [hunique, stationUnique_iff.mpr hu]; decide),
        if_neg hlose] at howner
      obtain ⟨hst, hsl, hsi, hmarks, hothers, hzones, hwatch, ts, zm, st, tu, hq⟩ :=
        storeStation_spec (i := i) (e := e') hs hl (by omega)
      obtain ⟨q, hqq⟩ : ∃ q, q = cleanEntry tblStations i (storeStation i (p.station i) e' p) := ⟨_, rfl⟩
      have hlatent : q.tst.latent = [] := by
        rw [hqq]
        show (storeStation i (p.station i) e' p).tst.latent.filter _ = []
        rw [hsl]
        rfl
      obtain ⟨rl, hexec⟩ := exec_write_done w ht (by omega) (by omega) (by rw [hqq]; exact cleanEntry_still hst) hlatent
        (hwrite.trans ((takeWrite_station howner).trans (by rw [hqq])))
      have hcode' : e'.code = e.code := by rw [he']
      have hcap' : e'.capable = e.capable := by rw [he']
      rw [hcode'] at hzones
      rw [hcap'] at hwatch
      refine ⟨_, keptItems (p.station i) e, hexec, ?_, keptItems_freq _ _, fun it hit => mem_keptItems hit, ?_, ?_,
        ?_, ?_,
        ?_, ?_⟩
      · rw [hqq]
        exact hsi.trans (by rw [he'])
      · rw [hqq]
        exact hmarks
      · rw [hqq]
        exact hothers
      · rw [hqq]
        simp only [Part.entryPoisoned, cleanEntry, List.any_filter, List.any_eq_false, Bool.not_eq_true]
        intro u _
        rw [Bool.not_and_self]
      · rw [hqq]
        exact hzones
      · rw [hqq]
        exact hwatch
      · rw [hqq, hq]
        rfl
  case remove =>
    have hwrite := tableWrite_removal hl hi hpo
    have hone : (byte1 0).length = 1 := rfl
    refine ⟨fun z href => ?_, fun hno => ?_⟩
    · have hlose : losesListener p i (p.station i) none = true := losesListener_none_iff.mpr ⟨z, href⟩
      rw [if_pos hlose] at hwrite
      exact exec_write_refused w ht (by omega) (by omega) hs hl hwrite
    · have hlose : ¬ losesListener p i (p.station i) none = true := by
        rw [losesListener_none_iff]
        rintro ⟨z, href⟩
        rw [hno z] at href
        exact absurd href (by decide)
      rw [if_neg hlose] at hwrite
      have hlt : i < p.tst.stations.length := lt_of_station ho
      obtain ⟨ts, zm, st, tu, e, hstill, hlatent, hstations, hzones, hwatch, hbulletin⟩ := dropStation_eq (i := i) hs
      obtain ⟨q, hq⟩ : ∃ q, q = dropStation i p := ⟨_, rfl⟩
      have hqeq := hq.trans e
      rw [← hq] at hwrite hstill hzones
      have hql : q.tst.latent = [] := by
        rw [hqeq]
        exact hlatent.trans (by show p.tst.latent.filter _ = []; rw [hl]; rfl)
      obtain ⟨rl, hexec⟩ := exec_write_done w ht (by omega) (by omega) hstill hql hwrite
      refine ⟨_, hexec, ?_, fun j hj => ?_, ?_, hzones, ?_, ?_, ?_⟩
      · show (q.tst.stations.getD i {}).entry = none
        rw [hqeq, hstations, List.getD_eq_getElem?_getD, List.getElem?_modify_eq, List.getElem?_eq_getElem hlt]
        rfl
      · show (q.tst.stations.getD j {}).entry = _
        rw [hqeq, hstations]
        simp [Part.station, List.getD, Ne.symm hj]
      · show q.tst.stations.map _ = _
        rw [hqeq, hstations]
        exact marks_modify _ _ _ fun _ => rfl
      · rw [hqeq]
        exact hwatch
      · rw [hqeq]
        exact hbulletin
      · rw [hqeq]
  case unstored =>
    refine congrArg (fun q => Host.Outcome.next (⟨q, w⟩ : State)) ((qualityStore_eq hr hl hc).trans ?_)
    rcases hno with hst | hd | hh | hprov
    · exact if_neg fun h => hst h.1
    · exact if_neg fun h => absurd (hd.symm.trans h.2.1) (by decide)
    · split
      · exact storeQuality_unheld hl hh
      · rfl
    · refine if_neg ?_
      rintro ⟨-, -, k, hk, hp, -⟩
      exact absurd ((hprov k hk).symm.trans hp) (by decide)
  case stored =>
    have hrun := (qualityStore_eq hr hl hc).trans (if_pos ⟨hst, hd, hown⟩)
    have hstation := storeQuality_station (c := c) (k := (p.tuner t).qs) hl i
    rw [if_pos hi, he] at hstation
    obtain ⟨f, hmark, e'⟩ := storeQuality_stations (c := c) (n := (p.tuner t).qs) hl hi
    refine ⟨storeQuality c (p.tuner t).qs p, congrArg (fun q => Host.Outcome.next (⟨q, w⟩ : State)) hrun, hstation,
      fun j hj => ?_, fun j => ?_, ?_⟩
    · rw [e']
      simp [Ne.symm hj]
    · rw [e']
      show ((p.tst.stations.modify i f).getD j {}).mark = _
      rw [List.getD_eq_getElem?_getD, List.getD_eq_getElem?_getD, List.getElem?_modify]
      cases p.tst.stations[j]? with
      | none => rfl
      | some s => by_cases hj : i = j <;> simp [hj, hmark]
    · rw [e']

end Sys2Proof.Machine
end

section
/-! PROOFS. Prompts are pushed and ended on request (O46). -/

namespace Sys2Proof.Machine

/-! ### Pushes -/

theorem assignTag_free {a : Anu} (h : a.tagHeld a.tagCounter = false) : assignTag a
    = (a.tagCounter, { a with tagCounter := if a.tagCounter = 65535 then 32768 else a.tagCounter + 1 }) := by
  have hfirst : freeTag a 14 a.tagCounter = a.tagCounter := by
    rw [freeTag, h]
    rfl
  rw [assignTag, hfirst]
  rfl

theorem pushedSource_none {cls source : Nat}
    (h : (cls ≠ 0 ∧ cls ≠ 2 ∧ cls ≠ 4) ∨ (cls = 2 ∧ source ≠ 16) ∨ (cls ≠ 2 ∧ 16 ≤ source)) :
    pushedSource cls source = none := by
  unfold pushedSource
  rw [if_neg (by simp; omega), if_neg (by simp; omega), if_neg (by simp; omega)]

theorem pushedSource_some {cls source : Nat} {c : PromptClass} {src : PromptSource}
    (h : cls = 2 ∧ source = 16 ∧ c = .nav ∧ src = .navVoice ∨ cls = 4 ∧ source < 16 ∧ c = .chime ∧
      src = .pattern source) :
    pushedSource cls source = some (c, src) ∧ c ≠ .safety := by
  rcases h with ⟨rfl, rfl, rfl, rfl⟩ | ⟨rfl, hs, rfl, rfl⟩
  · exact ⟨rfl, by decide⟩
  · refine ⟨?_, by decide⟩
    simp [pushedSource, hs]

theorem pushedRecord_invalid {tag cls source zones level dur pos : Nat}
    (h : 32767 < tag ∨ (cls ≠ 0 ∧ cls ≠ 2 ∧ cls ≠ 4) ∨ (cls = 2 ∧ source ≠ 16) ∨ (cls ≠ 2 ∧ 16 ≤ source) ∨ zones = 0
      ∨ 64 ≤ zones ∨ 384 < level ∨ dur = 0 ∨ 600000 < dur ∨ 1 < pos) :
    pushedRecord tag cls source zones level dur pos = none := by
  unfold pushedRecord
  cases hs : pushedSource cls source with
  | none => rfl
  | some cs =>
    obtain ⟨c, s⟩ := cs
    by_cases hz : zones < 64
    · rw [zoneSetOf_some hz]
      refine if_neg ?_
      have hclass : ¬ ((cls ≠ 0 ∧ cls ≠ 2 ∧ cls ≠ 4) ∨ (cls = 2 ∧ source ≠ 16) ∨ (cls ≠ 2 ∧ 16 ≤ source)) := by
        intro hbad
        rw [pushedSource_none hbad] at hs
        exact absurd hs nofun
      simp only [Bool.and_eq_true, decide_eq_true_eq, Bool.not_eq_true']
      rintro ⟨⟨⟨⟨⟨htag, hne⟩, hlevel⟩, hdur⟩, hdur'⟩, hpos⟩
      have h0 : zones ≠ 0 := by
        rintro rfl
        exact absurd hne (by decide)
      omega
    · have hnone : zoneSetOf zones = none := if_neg hz
      rw [hnone]

theorem pushedRecord_valid {tag cls source zones level dur pos : Nat} {c : PromptClass} {s : PromptSource}
    (hs : pushedSource cls source = some (c, s)) (htag : tag ≤ 32767) (h0 : 0 < zones) (hz : zones < 64)
    (hlevel : level ≤ 384) (hdur : 1 ≤ dur) (hdur' : dur ≤ 600000) (hpos : pos ≤ 1) :
    pushedRecord tag cls source zones level dur pos = some { tag := tag, cls := c, source := s
                                                             zones := .of fun x => zones.testBit (zoneCode x)
                                                             level := level, maxDuration := some dur
                                                             front := pos == 1 } := by
  unfold pushedRecord
  rw [hs, zoneSetOf_some hz]
  exact if_pos (by simp [htag, zoneSet_nonempty h0 hz, hlevel, hdur, hdur', hpos])

/-- A record other than a SAFETY is placed by its position, with room for it (R101). -/
theorem placePrompt_room {r : Prompt} {p : Part} (hs : r.cls ≠ .safety) (hw : p.anu.waiting.length < 12) :
    placePrompt r p = { p with anu := { p.anu with
      waiting := if r.front = true then r :: p.anu.waiting else p.anu.waiting ++ [r] } } := by
  have hdrop : dropBack 11 p = p := dropBack_under (by omega)
  rw [placePrompt, if_neg (by simpa using hs), joinQueue]
  cases r.front with
  | true => rw [if_pos rfl, if_pos rfl, hdrop]
  | false => rfl

theorem exec_promptPush {h : ReqHeader} {tag cls source zones level dur pos : Nat} {p : Part} (w : List Instr)
    (ht : p.takes 0x40 h = true) (hq : (promptPush tag cls source zones level dur pos p).part.quiet = true)
    (hv : reportView (promptPush tag cls source zones level dur pos p).part = reportView p) :
    exec (.promptPush h tag cls source zones level dur pos) ⟨p, w⟩
      = .next ⟨answered 0x40 h (promptPush tag cls source zones level dur pos p).result
          (promptPush tag cls source zones level dur pos p).body
          (promptPush tag cls source zones level dur pos p).part, w⟩ := by
  refine (congrArg (fun q => Host.Outcome.next (⟨q, w⟩ : State)) (ringRequest_taken ht (by decide))).trans ?_
  rw [settled, stmSettle_quiet hq, noteReports_same fun r => (congrFun hv r).symm]

/-- A SAFETY preempts a NAV: the NAV is dropped and the SAFETY plays its pattern's first segment (R102, R110). -/
theorem placePrompt_preempts {r old : Prompt} {n : Nat} {p : Part} (hr : r.cls = .safety) (hs : r.source = .pattern n)
    (ho : p.anu.playing = some old) (hn : old.cls = .nav) (hl : p.tst.latent = [])
    (hu : p.unitPoisoned tblChimes n 0 = false) :
    placePrompt r p = { p with
      anu := { p.anu with
        playing := some { r with elapsed := 0, pass := 1, segment := 0 }
        chime := Chime.begun ((p.tst.chimes.getD n {}).segments.getD 0 {}) 1 }
      nfu := (p.nfu.post .promptDropped old.tag none).post .promptStarted r.tag none } := by
  have hback : setBack old p = (stopPlaying p).post .promptDropped old.tag := if_pos (by rw [hn]; rfl)
  have hstarted (q : Part) : startedRecord q r = { r with elapsed := 0, pass := 1, segment := 0 } := by
    rw [startedRecord, if_neg (by rw [hr]; decide)]
  have hbegin (q : Part) (hq : q.tst = p.tst) : beginSegment n 1 0 1 q = { q with anu := { q.anu with
      chime := Chime.begun ((p.tst.chimes.getD n {}).segments.getD 0 {}) 1
      playing := q.anu.playing.map fun x => { x with pass := 1, segment := 0 } } } := by
    have hunit : q.unitPoisoned tblChimes n 0 = false := by
      rw [← hu, Part.unitPoisoned, Part.unitPoisoned, hq]
    rw [beginSegment, checkEntry_clean _ _ (by rw [hq]; exact hl), hunit, ← hq]
    rfl
  rw [placePrompt, if_pos (by rw [hr]; rfl), ho]
  dsimp only
  rw [if_pos (by rw [hn]; rfl), hback, startPrompt, if_neg (by rw [hr]; decide), hstarted]
  dsimp only
  rw [hs]
  dsimp only
  rw [hbegin _ (by rfl)]
  rfl

/-! ### Ends -/

/-- A part with one prompt fewer, the notice of its end posted (R107, R108). -/
def withoutPrompt (tag : Nat) (p : Part) : Part :=
  { p with
    anu := { p.anu with
      playing := p.anu.playing.filter fun x => x.tag != tag
      waiting := p.anu.waiting.filter fun x => x.tag != tag
      chime := if p.anu.playing.any fun x => x.tag == tag then {} else p.anu.chime }
    nfu := p.nfu.post .promptEnded tag none }

theorem find_eq_none {a : Anu} {tag : Nat} : a.find tag = none ↔ a.tagHeld tag = false := by
  unfold Anu.find Anu.tagHeld
  cases a.playing with
  | none => simp
  | some r => by_cases hr : r.tag = tag <;> simp [hr]

theorem find_withoutPrompt (tag : Nat) (p : Part) : (withoutPrompt tag p).anu.find tag = none := by
  rw [find_eq_none, Anu.tagHeld, Bool.or_eq_false_iff, List.any_eq_false]
  refine ⟨fun x hx => ?_, ?_⟩
  · simpa using (List.mem_filter.mp hx).2
  · show ((p.anu.playing.filter fun x => x.tag != tag).any fun r => r.tag == tag) = false
    cases p.anu.playing with
    | none => rfl
    | some r => by_cases hr : r.tag = tag <;> simp [Option.filter, hr]

theorem quiet_withoutPrompt {tag : Nat} {p : Part} (h : p.quiet = true) : (withoutPrompt tag p).quiet = true := h

/-- The Station Manager is told that its bulletin's prompt is gone (R94). -/
theorem bulletinGone_prompted {p : Part} (hb : p.stm.bulletin.latch = .prompted) (hl : p.tst.latent = []) :
    bulletinGone p = withdraw .bulletin { p with stm := { p.stm with bulletin := { p.stm.bulletin with
      latch := if (p.stm.bulletin.station.bind p.station).any Station.active then .spent else .none } } } := by
  rw [bulletinGone, if_pos (by rw [hb]; rfl), readBulletin_clean hl]
  dsimp only
  generalize p.stm.bulletin.station.bind p.station = x
  cases x <;> rfl

/-- PROMPT_CANCEL of a tag held by a record of which no owner is told (R108). -/
theorem promptCancel_plain {tag : Nat} {r : Prompt} {p : Part} (hr : p.anu.find tag = some r) (hc : r.cls ≠ .ring)
    (hb : r.cls = .bulletin → p.stm.bulletin.latch ≠ .prompted) : promptCancel tag p = (.ok, withoutPrompt tag p) := by
  rw [promptCancel, hr]
  dsimp only
  rw [removePrompt_post, tellPrompt]
  cases hk : r.cls with
  | ring => exact absurd hk hc
  | bulletin =>
    have hgone : bulletinGone (withoutPrompt tag p) = withoutPrompt tag p := by
      have hlatch : ¬ (p.stm.bulletin.latch == .prompted) = true := by simpa using hb hk
      exact if_neg hlatch
    exact congrArg (Prod.mk Result.ok) hgone
  | safety | nav | chime => rfl

theorem promptCancel_ring {tag : Nat} {r : Prompt} {p : Part} (hr : p.anu.find tag = some r) (hc : r.cls = .ring) :
    promptCancel tag p = (.ok, { withoutPrompt tag p with clp := { p.clp with ringTag := none } }) := by
  rw [promptCancel, hr]
  dsimp only
  rw [removePrompt_post, tellPrompt, hc]
  rfl

theorem promptEnd_nav {tag : Nat} {r : Prompt} {p : Part} (hr : p.anu.find tag = some r) (hc : r.cls = .nav) :
    promptEnd tag p = (.ok, withoutPrompt tag p) := by
  rw [promptEnd, hr]
  dsimp only
  rw [removePrompt_post, hc]
  rfl

theorem exec_promptCancel {h : ReqHeader} {tag : Nat} {p q : Part} {r : Result} (w : List Instr)
    (ht : p.takes 0x41 h = true) (hz : promptCancel tag p = (r, q)) (hq : q.quiet = true)
    (hv : reportView q = reportView p) :
    exec (.promptCancel h tag) ⟨p, w⟩ = .next ⟨answered 0x41 h r [] q, w⟩ := by
  refine (congrArg (fun q => Host.Outcome.next (⟨q, w⟩ : State)) (ringRequest_taken ht (by decide))).trans ?_
  rw [settling_quiet hz hq, noteReports_same fun k => (congrFun hv k).symm]

theorem exec_promptEnd {h : ReqHeader} {tag : Nat} {p q : Part} {r : Result} (w : List Instr)
    (ht : p.takes 0x42 h = true) (hz : promptEnd tag p = (r, q)) :
    exec (.promptEnd h tag) ⟨p, w⟩ = .next ⟨answered 0x42 h r [] q, w⟩ := by
  refine (congrArg (fun q => Host.Outcome.next (⟨q, w⟩ : State)) (ringRequest_taken ht (by decide))).trans ?_
  rw [hz]
  rfl

/-- Settles O46. -/
theorem promptsArePushedAndEndedOnRequest : Obligations.PromptsArePushedAndEndedOnRequest := by
  refine ⟨fun h tag cls source zones level dur pos p w ht hq hl => ⟨fun hbad => ?invalid,
    fun htag h0 hz hlevel hdur hdur' hpos => ⟨fun c src hcs => ⟨fun ht0 hheld => ?duplicate, fun hfree hw hp0 => ?full,
      fun given hgiven hw => ?pushed⟩, fun old hcls hsrc ht0 hfree hplay hnav hpo => ?safety⟩⟩,
    fun h tag r p w ht hs hl hswa hswb hr hb hlatch => ?bulletin,
    fun h tag c kind p w hc ht hq => ⟨fun hno => ?unheld, fun r hr hk hn => ?other, fun r hr hn => ?ended,
      fun r hr hk hring => ?ring⟩⟩
  case invalid =>
    have hrun : promptPush tag cls source zones level dur pos p = { result := .badValue, part := p } := by
      rw [promptPush, pushedRecord_invalid hbad]
    have hexec := exec_promptPush (h := h) (tag := tag) (cls := cls) (source := source) (zones := zones)
      (level := level)
      (dur := dur) (pos := pos) w ht (by rw [hrun]; exact hq) (by rw [hrun])
    rw [hrun] at hexec
    exact hexec
  case duplicate =>
    have hrun : promptPush tag cls source zones level dur pos p = { result := .duplicate, part := p } := by
      rw [promptPush, pushedRecord_valid (pushedSource_some hcs).1 htag h0 hz hlevel hdur hdur' hpos]
      exact if_pos (by simp [ht0, hheld])
    have hexec := exec_promptPush (h := h) (tag := tag) (cls := cls) (source := source) (zones := zones)
      (level := level)
      (dur := dur) (pos := pos) w ht (by rw [hrun]; exact hq) (by rw [hrun])
    rw [hrun] at hexec
    exact hexec
  case full =>
    have hrun : promptPush tag cls source zones level dur pos p = { result := .full, part := p } := by
      rw [promptPush, pushedRecord_valid (pushedSource_some hcs).1 htag h0 hz hlevel hdur hdur' hpos]
      dsimp only
      rw [if_neg (by rcases hfree with h | h <;> simp [h])]
      exact if_pos (by simp [hp0, (pushedSource_some hcs).2, hw])
    have hexec := exec_promptPush (h := h) (tag := tag) (cls := cls) (source := source) (zones := zones)
      (level := level)
      (dur := dur) (pos := pos) w ht (by rw [hrun]; exact hq) (by rw [hrun])
    rw [hrun] at hexec
    exact hexec
  case pushed =>
    have hcls := (pushedSource_some hcs).2
    have hrun : promptPush tag cls source zones level dur pos p = { result := .ok, body := byte2 given, part := { p with
        anu := { p.anu with
          waiting := if pos = 1
            then { tag := given, cls := c, source := src, zones := .of fun x => zones.testBit (zoneCode x)
                   level := level, maxDuration := some dur, front := pos == 1 } :: p.anu.waiting
            else p.anu.waiting ++ [{ tag := given, cls := c, source := src
                                     zones := .of fun x => zones.testBit (zoneCode x)
                                     level := level, maxDuration := some dur, front := pos == 1 }]
          tagCounter := if tag = 0 then (if given = 65535 then 32768 else given + 1) else p.anu.tagCounter } } } := by
      rw [promptPush, pushedRecord_valid (pushedSource_some hcs).1 htag h0 hz hlevel hdur hdur' hpos]
      dsimp only
      rw [if_neg (by rcases hgiven with ⟨-, -, h⟩ | ⟨h, -⟩ <;> simp [h]), if_neg (by simp; omega), pushPrompt]
      dsimp only
      rcases hgiven with ⟨rfl, ht0, -⟩ | ⟨rfl, rfl, hfree⟩
      · rw [if_neg ht0, if_neg ht0, placePrompt_room hcls (by exact hw)]
        simp
      · rw [if_pos rfl, assignTag_free hfree, placePrompt_room hcls (by exact hw)]
        simp
    have hexec := exec_promptPush (h := h) (tag := tag) (cls := cls) (source := source) (zones := zones)
      (level := level)
      (dur := dur) (pos := pos) w ht (by rw [hrun]; exact hq) (by rw [hrun]; rfl)
    rw [hrun] at hexec
    exact hexec
  case safety =>
    have hsource' : pushedSource cls source = some (.safety, .pattern source) := by simp [pushedSource, hcls, hsrc]
    obtain ⟨r, hr⟩ : ∃ r : Prompt, r = { tag := tag, cls := .safety, source := .pattern source
                                         zones := .of fun x => zones.testBit (zoneCode x)
                                         level := level, maxDuration := some dur, front := pos == 1 } := ⟨_, rfl⟩
    have hplace := placePrompt_preempts (r := r) (by rw [hr]) (by rw [hr]) hplay hnav hl hpo
    have hrun : promptPush tag cls source zones level dur pos p
        = { result := .ok, body := byte2 tag, part := placePrompt r p } := by
      rw [promptPush, pushedRecord_valid hsource' htag h0 hz hlevel hdur hdur' hpos]
      dsimp only
      rw [if_neg (by simp [hfree]), if_neg (by simp), pushPrompt, if_neg ht0, hr]
    have hexec := exec_promptPush (h := h) (tag := tag) (cls := cls) (source := source) (zones := zones)
      (level := level)
      (dur := dur) (pos := pos) w ht (by rw [hrun, hplace]; exact hq) (by rw [hrun, hplace]; rfl)
    rw [hrun] at hexec
    refine ⟨_, hexec, ?_⟩
    rw [hplace, hr]
    exact ⟨rfl, rfl, rfl, rfl, rfl⟩
  case bulletin =>
    obtain ⟨m, hm⟩ : ∃ m, m = { withoutPrompt tag p with stm := { p.stm with bulletin := { p.stm.bulletin with
        latch := if (p.stm.bulletin.station.bind p.station).any Station.active then .spent else .none } } } := ⟨_, rfl⟩
    obtain ⟨tu, f, e, htu, hf⟩ := giveUp_only .bulletin m
    have hgone : promptCancel tag p = (.ok, { m with tuc := tu, stm := { m.stm with follow := f } }) := by
      rw [promptCancel, hr]
      dsimp only
      rw [removePrompt_post, tellPrompt, hb]
      have hbulletin : bulletinGone (withoutPrompt tag p) = withdraw .bulletin m := by
        rw [bulletinGone_prompted (by exact hlatch) (by exact hl), hm]
        rfl
      exact congrArg (Prod.mk Result.ok) (hbulletin.trans
        ((withdraw_only rfl (by rw [hm]; exact hswa) (by rw [hm]; exact hswb)).trans e))
    obtain ⟨g, hg⟩ : ∃ g, g = { m with tuc := tu, stm := { m.stm with follow := f } } := ⟨_, rfl⟩
    have hmstill : m.still = true := by
      have hgone : (m.stm.bulletin.latch != .prompted) = true := by
        rw [hm]
        dsimp only
        split <;> rfl
      rw [Part.still] at hs ⊢
      rw [hgone, Bool.true_or, hm]
      simp only [Bool.and_eq_true] at hs ⊢
      obtain ⟨⟨⟨⟨⟨⟨⟨-, h2⟩, h3⟩, h4⟩, h5⟩, h6⟩, h7⟩, h8⟩ := hs
      exact ⟨⟨⟨⟨⟨⟨⟨trivial, h2⟩, h3⟩, h4⟩, h5⟩, h6⟩, h7⟩, h8⟩
    have hstill : g.still = true :=
      still_of hmstill (by rw [hg]) (by rw [hg]; rfl) (.inl (by rw [hg]))
        (by rw [hg]; exact (watchState_of_still hmstill :))
        (fun u => ⟨_, by rw [hg]; exact (htu u).1⟩) fun t => by rw [hg]; exact hf t
    obtain ⟨rl, hrl⟩ := noteReports_eq p g
    refine ⟨noteReports p g, ?_, ?_⟩
    · refine (congrArg (fun q => Host.Outcome.next (⟨q, w⟩ : State)) (ringRequest_taken ht (by decide))).trans ?_
      have hsettled : settling (promptCancel tag) p = { result := .ok, part := noteReports p g } := by
        rw [settling, settled, hgone, answer, ← hg, stmSettle_still hstill (by rw [hg, hm]; exact hl)]
      rw [hsettled]
    rw [hrl, hg, hm]
    refine ⟨rfl, fun t => ?_, rfl, rfl, rfl⟩
    have := htu t
    rw [hm] at this
    exact this
  case unheld =>
    have hnone := find_eq_none.mpr hno
    rcases hc with ⟨rfl, rfl⟩ | ⟨rfl, rfl⟩
    · exact exec_promptCancel w ht (by rw [promptCancel, hnone]) hq rfl
    · exact exec_promptEnd w ht (by rw [promptEnd, hnone])
  case other =>
    rcases hc with ⟨rfl, rfl⟩ | ⟨rfl, rfl⟩
    · exact absurd hk (by decide)
    · refine exec_promptEnd w ht ?_
      rw [promptEnd, hr]
      exact if_neg (by simpa using hn)
  case ended =>
    rcases hc with ⟨rfl, rfl⟩ | ⟨rfl, rfl⟩
    · have hnr : r.cls ≠ .ring := by
        rcases hn with h | ⟨-, h⟩
        · rw [h]
          decide
        · exact h
      exact exec_promptCancel w ht (promptCancel_plain hr hnr fun _ => (quiet_iff.mp hq).1) (quiet_withoutPrompt hq) rfl
    · have hnav : r.cls = .nav := hn.resolve_right fun h => absurd h.1 (by decide)
      exact exec_promptEnd w ht (promptEnd_nav hr hnav)
  case ring =>
    rcases hc with ⟨rfl, rfl⟩ | ⟨rfl, rfl⟩
    · exact ⟨_, exec_promptCancel w ht (promptCancel_ring hr hring) hq rfl, rfl, find_withoutPrompt tag p, rfl, rfl⟩
    · exact absurd hk (by decide)

end Sys2Proof.Machine
end

section
/-! PROOFS. Prompts start, advance and end at the render block of the Announcement Unit (O47). -/

namespace Sys2Proof.Machine

/-! ### The playing prompt -/

/-- A prompt that is not heard out ends: of one whose class has no owner no one is told (R106, R110). -/
theorem endPlaying_unowned {r : Prompt} {p : Part} (hp : p.anu.playing = some r) (hr : r.cls = .nav ∨ r.cls = .chime) :
    endPlaying true p = { p with anu := { p.anu with playing := none, chime := {} }
                                 nfu := p.nfu.post .promptEnded r.tag none } := by
  unfold endPlaying
  rw [hp]
  dsimp only
  rw [if_pos rfl, tellPrompt]
  rcases hr with hr | hr <;> rw [hr] <;> rfl

theorem endIfSilent_sounding {p : Part} (h : patternSilent p = false) : endIfSilent p = p := by
  unfold endIfSilent
  rw [h]
  split <;> rfl

theorem patternSilent_unpatterned {r : Prompt} {p : Part} (hp : p.anu.playing = some r)
    (hr : ∀ n, r.source ≠ .pattern n) :
    patternSilent p = false := by
  rw [patternSilent, hp]
  cases hs : r.source with
  | pattern n => exact absurd hs (hr n)
  | _ => simp only [hs]

theorem patternSilent_segment {s : Segment} {p : Part} (hc : p.anu.chime.segment = some s) :
    patternSilent p = false := by
  unfold patternSilent
  rw [hc]
  split
  · split <;> rfl
  · rfl

/-- A prompt without a pattern counts the block. -/
theorem advancePattern_unpatterned {k : Nat} {r : Prompt} {p : Part} (hp : p.anu.playing = some r)
    (hr : ∀ n, r.source ≠ .pattern n) : advancePattern k p = p := by
  rw [advancePattern, hp]
  dsimp only
  split
  · exact absurd ‹_› (hr _)
  · rfl

theorem advancePlaying_timeUp {r : Prompt} {m : Nat} {p : Part} (hp : p.anu.playing = some r)
    (hr : r.cls = .nav ∨ r.cls = .chime) (hm : r.maxDuration = some m) (ht : m ≤ r.elapsed + 1) :
    advancePlaying p = { p with anu := { p.anu with playing := none, chime := {} }
                                nfu := p.nfu.post .promptEnded r.tag none } := by
  have hup : timeUp r (elapsedAfter r) = true := by simp [timeUp, elapsedAfter, hm, ht]
  rw [advancePlaying, hp]
  dsimp only
  rw [if_pos hup, endPlaying_unowned (r := { r with elapsed := elapsedAfter r }) rfl hr]

theorem advancePlaying_counts {r : Prompt} {m : Nat} {p : Part} (hp : p.anu.playing = some r)
    (hm : r.maxDuration = some m) (ht : r.elapsed + 1 < m) :
    advancePlaying p = endIfSilent (advancePattern 1 { p with anu := { p.anu with
      playing := some { r with elapsed := r.elapsed + 1 } } }) := by
  have he : elapsedAfter r = r.elapsed + 1 := by rw [elapsedAfter, hm]
  have hup : timeUp r (r.elapsed + 1) = false := by simp [timeUp, hm, ht]
  rw [advancePlaying, hp]
  dsimp only
  rw [he, if_neg (by rw [hup]; decide)]

theorem promptExpiry_early {r : Prompt} {m : Nat} {p : Part} (hp : p.anu.playing = some r)
    (hm : r.maxDuration = some m) (ht : r.elapsed + 1 < m) : promptExpiry p = p := by
  rw [promptExpiry, hp]
  exact if_neg (by simp [timeUp, elapsedAfter, hm, ht])

theorem promptExpiry_due {r : Prompt} {m : Nat} {p : Part} (hp : p.anu.playing = some r) (hrun : p.running = true)
    (hm : r.maxDuration = some m) (ht : m ≤ r.elapsed + 1) : promptExpiry p = endPlaying true p := by
  rw [promptExpiry, hp]
  exact if_pos (by simp [timeUp, elapsedAfter, hm, ht, hrun])

/-! ### Patterns -/

/-- A CHIME plays its pattern's segment `s`, and the pattern's entry can be read. -/
def Part.chimes (p : Part) (r : Prompt) (n : Nat) (s : Segment) : Prop :=
  p.anu.playing = some r ∧ r.cls = .chime ∧ r.source = .pattern n ∧ p.anu.chime.segment = some s
    ∧ p.unitPoisoned tblChimes n 0 = false ∧ p.tst.latent = []

theorem advancePattern_within {k n : Nat} {r : Prompt} {s : Segment} {p : Part} (hp : p.chimes r n s)
    (ht : p.anu.chime.played < s.duration) :
    advancePattern k p = { p with anu := { p.anu with
      chime := { p.anu.chime with played := p.anu.chime.played + 1 } } } := by
  obtain ⟨hplay, -, hsrc, hseg, -, -⟩ := hp
  rw [advancePattern, hplay]
  dsimp only
  rw [hsrc, hseg]
  exact if_pos ht

theorem advancePattern_boundary {k n : Nat} {r : Prompt} {s : Segment} {p : Part} (hp : p.chimes r n s)
    (ht : s.duration ≤ p.anu.chime.played) :
    advancePattern k p = (nextSegment (p.tst.chimes.getD n {}) false r.pass (r.segment + 1)).elim (endPlaying true p)
      fun x => beginSegment n x.1 x.2 k p := by
  obtain ⟨hplay, hcls, hsrc, hseg, hunit, hl⟩ := hp
  rw [advancePattern, hplay]
  dsimp only
  rw [hsrc, hseg]
  dsimp only
  rw [if_neg (Nat.not_lt.mpr ht), checkEntry_clean _ _ hl, hunit, if_neg Bool.false_ne_true, hcls,
    show (PromptClass.chime == PromptClass.ring) = false from rfl]
  cases nextSegment (p.tst.chimes.getD n {}) false r.pass (r.segment + 1) <;> rfl

/-- The pattern goes on: in the segment after, or at the start of its next pass (R110). -/
theorem advancePattern_next {k n pass seg : Nat} {r : Prompt} {s : Segment} {p : Part} (hp : p.chimes r n s)
    (ht : s.duration ≤ p.anu.chime.played)
    (hx : seg = r.segment + 1 ∧ pass = r.pass ∧ r.segment + 1 < (p.tst.chimes.getD n {}).count
      ∨ seg = 0 ∧ pass = r.pass + 1 ∧ (p.tst.chimes.getD n {}).count ≤ r.segment + 1
        ∧ r.pass < (p.tst.chimes.getD n {}).repeats) :
    advancePattern k p = { p with anu := { p.anu with
      playing := some { r with pass := pass, segment := seg }
      chime := Chime.begun ((p.tst.chimes.getD n {}).segments.getD seg {}) k } } := by
  have hnext : nextSegment (p.tst.chimes.getD n {}) false r.pass (r.segment + 1) = some (pass, seg) := by
    rcases hx with ⟨rfl, rfl, h⟩ | ⟨rfl, rfl, h, hrep⟩
    · exact if_pos h
    · rw [nextSegment, if_neg (Nat.not_lt.mpr h), if_neg Bool.false_ne_true, if_pos hrep]
  rw [advancePattern_boundary hp ht, hnext]
  obtain ⟨hplay, -, -, -, hunit, hl⟩ := hp
  show beginSegment n pass seg k p = _
  rw [beginSegment, checkEntry_clean _ _ hl, hunit, hplay]
  rfl

theorem advancePattern_last {k n : Nat} {r : Prompt} {s : Segment} {p : Part} (hp : p.chimes r n s)
    (ht : s.duration ≤ p.anu.chime.played) (hc : (p.tst.chimes.getD n {}).count ≤ r.segment + 1)
    (hrep : (p.tst.chimes.getD n {}).repeats ≤ r.pass) :
    advancePattern k p = { p with anu := { p.anu with playing := none, chime := {} }
                                  nfu := p.nfu.post .promptEnded r.tag none } := by
  have hnext : nextSegment (p.tst.chimes.getD n {}) false r.pass (r.segment + 1) = none := by
    rw [nextSegment, if_neg (Nat.not_lt.mpr hc), if_neg Bool.false_ne_true, if_neg (Nat.not_lt.mpr hrep)]
  rw [advancePattern_boundary hp ht, hnext]
  exact endPlaying_unowned hp.1 (.inr hp.2.1)

theorem chimeSegmentEnd_early {s : Segment} {p : Part} (hc : p.anu.chime.segment = some s)
    (ht : p.anu.chime.played < s.duration) : chimeSegmentEnd p = p := by
  rw [chimeSegmentEnd, hc]
  exact if_neg (by simp; omega)

theorem chimeSegmentEnd_due {s : Segment} {p : Part} (hc : p.anu.chime.segment = some s) (hrun : p.running = true)
    (ht : s.duration ≤ p.anu.chime.played) : chimeSegmentEnd p = advancePattern 0 p := by
  rw [chimeSegmentEnd, hc]
  exact if_pos (by simp [hrun, ht])

/-! ### The block -/

theorem anuBlock_idle {p : Part} (hrun : p.running = true) (hp : p.anu.playing = none) : anuBlock p = startNext p := by
  rw [anuBlock, if_pos hrun, advancePlaying, hp]

theorem anuBlock_playing {p q : Part} {r : Prompt} (hrun : p.running = true) (h : advancePlaying p = q)
    (hq : q.anu.playing = some r) : anuBlock p = q := by
  rw [anuBlock, if_pos hrun, h, startNext, hq]
  rfl

theorem anuBlock_ended {p q : Part} (hrun : p.running = true) (h : advancePlaying p = q) (hq : q.anu.waiting = []) :
    anuBlock p = q := by
  rw [anuBlock, if_pos hrun, h, startNext, hq]
  exact ite_self _

/-- With no waiting record eligible none starts. -/
theorem startNext_none {p : Part} (h : ∀ x ∈ p.anu.waiting, eligible p x = false) : startNext p = p := by
  have hnone : p.anu.waiting.find? (eligible p) = none := List.find?_eq_none.mpr fun x hx => by simp [h x hx]
  rw [startNext, hnone]
  exact ite_self _

/-- The first eligible record starts, wherever it stands (R104). -/
theorem startNext_first {r : Prompt} {passed rest : List Prompt} {p : Part} (hp : p.anu.playing = none)
    (hw : p.anu.waiting = passed ++ r :: rest) (htags : ∀ x ∈ passed ++ rest, x.tag ≠ r.tag)
    (hpassed : ∀ x ∈ passed, eligible p x = false) (hr : eligible p r = true) :
    startNext p = endIfSilent (startPrompt r { p with anu := { p.anu with waiting := passed ++ rest } }) := by
  have hfind : p.anu.waiting.find? (eligible p) = some r := by
    rw [hw, List.find?_append, List.find?_eq_none.mpr fun x hx => by simp [hpassed x hx]]
    simp [hr]
  have hfilter : (p.anu.waiting.filter fun x => x.tag != r.tag) = passed ++ rest := by
    rw [hw, List.filter_append, List.filter_cons_of_neg (by simp), ← List.filter_append]
    exact List.filter_eq_self.mpr fun x hx => by simpa using htags x hx
  rw [startNext, hp, hfind]
  dsimp only
  rw [hfilter]
  rfl

theorem startPrompt_unpatterned {r : Prompt} {p : Part} (hr : r.cls ≠ .ring) (hs : ∀ n, r.source ≠ .pattern n) :
    startPrompt r p = { p with
      anu := { p.anu with playing := some { r with elapsed := 0, pass := 1, segment := 0 }, chime := {} }
      nfu := p.nfu.post .promptStarted r.tag none } := by
  have hstarted : startedRecord p r = { r with elapsed := 0, pass := 1, segment := 0 } := by
    rw [startedRecord, if_neg (by simpa using hr)]
  rw [startPrompt, if_neg (by simpa using hr), hstarted]
  dsimp only
  split
  · exact absurd ‹_› (hs _)
  · rfl

theorem exec_anuRenderBlock {p q : Part} (w : List Instr) (h : anuBlock p = q) (hq : q.quiet = true)
    (hv : reportView p = reportView q) : exec .anuRenderBlock ⟨p, w⟩ = .next ⟨q, w⟩ :=
  congrArg (fun q => Host.Outcome.next (⟨q, w⟩ : State)) (settle_quiet h hq hv)

theorem exec_promptDurationExpiry {p q : Part} (w : List Instr) (h : promptExpiry p = q) (hq : q.quiet = true)
    (hv : reportView p = reportView q) : exec .promptDurationExpiry ⟨p, w⟩ = .next ⟨q, w⟩ :=
  congrArg (fun q => Host.Outcome.next (⟨q, w⟩ : State)) (settle_quiet h hq hv)

theorem exec_chimeSegmentEnd {p q : Part} (w : List Instr) (h : chimeSegmentEnd p = q) (hq : q.quiet = true)
    (hv : reportView p = reportView q) : exec .chimeSegmentEnd ⟨p, w⟩ = .next ⟨q, w⟩ :=
  congrArg (fun q => Host.Outcome.next (⟨q, w⟩ : State)) (settle_quiet h hq hv)

/-- A BULLETIN is passed over in a call. -/
theorem eligible_passed {x : Prompt} {p : Part}
    (h : x.cls = .bulletin ∧ (p.clp.state = .alerting ∨ p.clp.state = .active)) : eligible p x = false := by
  obtain ⟨hx, hc | hc⟩ := h <;> simp [eligible, hx, hc]

/-- Settles O47. -/
theorem promptsStartAdvanceAndEnd : Obligations.PromptsStartAdvanceAndEnd := by
  refine ⟨fun r passed rest p w hrun hq hl hp hw htags hpassed hr => ?first,
    fun p w hrun hq hp hw => ?none, fun r m p w hrun hq hp hcls hsrc hm => ⟨fun ht => ?counts, fun ht => ?ends⟩,
    fun r n m s pat p w hrun hq hl hp hcls hsrc hseg hunit hpat => ?pattern⟩
  case first =>
    have hcls : r.cls ≠ .ring := by rcases hr with ⟨h, -⟩ | ⟨h, -⟩ <;> rw [h] <;> decide
    have hsrc (n : Nat) : r.source ≠ .pattern n := by
      rcases hr with ⟨-, h⟩ | ⟨-, ⟨t, h⟩, -⟩ <;> rw [h] <;> exact nofun
    have helig : eligible p r = true := by
      rcases hr with ⟨h, -⟩ | ⟨h, -, h1, h2⟩
      · simp [eligible, h]
      · simp [eligible, h1, h2]
    refine exec_anuRenderBlock w ?_ hq rfl
    rw [anuBlock_idle hrun hp, startNext_first hp hw htags (fun x hx => eligible_passed (hpassed x hx)) helig,
      startPrompt_unpatterned hcls hsrc]
    exact endIfSilent_sounding (patternSilent_unpatterned
      (r := { r with elapsed := 0, pass := 1, segment := 0 }) rfl hsrc)
  case none =>
    exact exec_anuRenderBlock w ((anuBlock_idle hrun hp).trans (startNext_none fun x hx => eligible_passed (hw x hx)))
      hq rfl
  case counts =>
    have hun (n : Nat) : r.source ≠ .pattern n := by rw [hsrc]; exact nofun
    refine ⟨exec_anuRenderBlock w (anuBlock_playing hrun ?_ rfl) hq rfl,
      exec_promptDurationExpiry w (promptExpiry_early hp hm ht) hq rfl⟩
    rw [advancePlaying_counts hp hm ht, advancePattern_unpatterned (r := { r with elapsed := r.elapsed + 1 }) rfl hun]
    exact endIfSilent_sounding (patternSilent_unpatterned (r := { r with elapsed := r.elapsed + 1 }) rfl hun)
  case ends =>
    exact ⟨fun hwait => exec_anuRenderBlock w (anuBlock_ended hrun (advancePlaying_timeUp hp (.inl hcls) hm ht) hwait)
      hq rfl,
      exec_promptDurationExpiry w ((promptExpiry_due hp hrun hm ht).trans (endPlaying_unowned hp (.inl hcls))) hq rfl⟩
  case pattern =>
    subst hpat
    have hnow : p.chimes r n s := ⟨hp, hcls, hsrc, hseg, hunit, hl⟩
    have hthen : Part.chimes { p with anu := { p.anu with playing := some { r with elapsed := r.elapsed + 1 } } }
        { r with elapsed := r.elapsed + 1 } n s := ⟨rfl, hcls, hsrc, hseg, hunit, hl⟩
    refine ⟨fun ht => ⟨exec_chimeSegmentEnd w (chimeSegmentEnd_early hseg ht) hq rfl, fun hm hel => ?_⟩,
      fun ht => ⟨fun pass seg hx => ⟨fun hm hel => ?_, ?_⟩, fun hc hrep => ⟨fun hm hel hwait => ?_, ?_⟩⟩⟩
    · refine exec_anuRenderBlock w (anuBlock_playing hrun ?_ rfl) hq rfl
      rw [advancePlaying_counts hp hm hel, advancePattern_within hthen ht]
      exact endIfSilent_sounding (patternSilent_segment hseg)
    · refine exec_anuRenderBlock w (anuBlock_playing hrun ?_ rfl) hq rfl
      rw [advancePlaying_counts hp hm hel, advancePattern_next hthen ht hx]
      exact endIfSilent_sounding (patternSilent_segment rfl)
    · exact exec_chimeSegmentEnd w ((chimeSegmentEnd_due hseg hrun ht).trans (advancePattern_next hnow ht hx)) hq rfl
    · refine exec_anuRenderBlock w (anuBlock_ended hrun ?_ hwait) hq rfl
      rw [advancePlaying_counts hp hm hel, advancePattern_last hthen ht hc hrep, endIfSilent]
    · exact exec_chimeSegmentEnd w ((chimeSegmentEnd_due hseg hrun ht).trans (advancePattern_last hnow ht hc hrep))
        hq rfl

end Sys2Proof.Machine
end

section
/-! PROOFS. The scrubber, and the check of a free STATIONS index (O52). -/

namespace Sys2Proof.Machine

/-! ### The scrubber's place -/

/-- A pass has a target at every place below the number of entries. -/
theorem scrubTarget_isSome {l : List Nat} {table pos : Nat} (h : pos < l.sum) :
    (scrubTarget l table pos).isSome = true := by
  induction l generalizing table pos with
  | nil => exact absurd h (Nat.not_lt_zero _)
  | cons n rest ih =>
    rw [List.sum_cons] at h
    rw [scrubTarget]
    by_cases hn : pos < n
    · rw [if_pos hn]
      rfl
    · rw [if_neg hn]
      exact ih (by omega)

/-- The DUCKS rows stand behind the 71 entries of tables 0 to 4. -/
theorem scrubTarget_ducks {row : Nat} (h : row < 7) : scrubTarget tableSizes 0 (71 + row) = some (tblDucks, row) := by
  interval_cases row <;> rfl

/-- The place that a visit leaves. -/
def scrubbedOn (p : Part) : Part :=
  if p.tst.scrubPos + 1 < 214 then { p with tst := { p.tst with scrubPos := p.tst.scrubPos + 1 } }
  else { p with tst := { p.tst with scrubbing := false, scrubPos := 0 } }

theorem scrubVisit_pass {us : List Upset} {table entry : Nat} {p : Part} (hr : p.running = true)
    (hs : p.tst.scrubbing = true) (hu : (us.foldl addUpset p.tst).scrubbing = p.tst.scrubbing)
    (ht : scrubTarget tableSizes 0 (us.foldl addUpset p.tst).scrubPos = some (table, entry)) :
    scrubVisit us p = scrubbedOn (checkEntry table entry { p with tst := us.foldl addUpset p.tst }) := by
  have hgo : (p.running && (us.foldl addUpset p.tst).scrubbing) = true := by rw [hr, hu, hs]; rfl
  exact (if_pos hgo).trans (by rw [scrubStep, ht]; rfl)

theorem addUpset_clean {s : Store} {u : Upset} (h : s.latent = []) :
    [u].foldl addUpset s = { s with latent := [u] } := by
  show addUpset s u = _
  rw [addUpset, h]
  rfl

/-- The settling leaves a part with nothing to keep up, and nothing new in its view, as it is. -/
theorem settleRead_quiet {p q : Part} (hq : q.quiet = true) (hv : reportView p = reportView q) :
    settleRead p q = q := by
  rw [settleRead, stmSettle_quiet hq, noteReports_same fun r => congrFun hv r]
  exact ite_self _

/-! ### The one error that stands -/

/-- The check of the unit in which the one error stands that has come about: a read of it meets it (R169). -/
theorem checkWith_only {tell : Part → Part} {u : Upset} {p : Part} (hl : p.tst.latent = [u]) (hm : p.meets u = true)
    (hp : p.tst.poisoned.contains u.unit = false) :
    checkWith tell u.unit p = if u.double
      then (tell { p with tst := { p.tst with latent := [], poisoned := p.tst.poisoned ++ [u.unit] } }).fault
        .uncorrectable (some u.unit.table) (some u.unit.entry)
      else Part.fault { p with tst := { p.tst with latent := [] } } .corrected (some u.unit.table)
        (some u.unit.entry) := by
  have hfind : p.tst.latent.find? (fun x => x.unit == u.unit && p.meets x) = some u := by simp [hl, hm]
  have hnone : p.tst.latent.filter (fun y => y.unit != u.unit) = [] := by simp [hl]
  rw [checkWith, hfind]
  dsimp only
  rw [hnone]
  exact if_neg (by rw [hp]; decide)

/-- The check of a DUCKS row, whose poisoning its owner reads for itself (Table 10.2). -/
theorem checkEntry_ducks {row : Nat} {double inUse : Bool} {p : Part}
    (hl : p.tst.latent = [⟨⟨tblDucks, row, 0⟩, double, inUse⟩])
    (hu : p.unitPoisoned tblDucks row 0 = false) :
    checkEntry tblDucks row p = { p with
      tst := { p.tst with latent := []
                          poisoned := if double then p.tst.poisoned ++ [⟨tblDucks, row, 0⟩] else p.tst.poisoned }
      nfu := p.nfu.fault (if double then .uncorrectable else .corrected) (some 5) (some row) p.rif.ringTime } := by
  show checkWith (tellOwner ⟨tblDucks, row, 0⟩) ⟨tblDucks, row, 0⟩ p = _
  have h := checkWith_only (tell := tellOwner ⟨tblDucks, row, 0⟩) hl rfl hu
  refine h.trans ?_
  cases double <;> rfl

/-! ### A free STATIONS index -/

theorem listenerOf_unreferenced {i : Nat} {p : Part} (h : p.referenced i none = false) :
    p.listenerOf i = none ∧ p.stm.watch ≠ some i
      ∧ (p.stm.bulletin.latch == .prompted && p.stm.bulletin.station == some i) = false := by
  simp only [Part.referenced, Bool.or_eq_false_iff] at h
  obtain ⟨⟨hzones, hwatch⟩, hbulletin⟩ := h
  refine ⟨?_, by simpa using hwatch, ?_⟩
  · rw [Part.listenerOf, List.find?_eq_none]
    intro z hz
    simpa using List.any_eq_false.mp hzones z hz
  · rw [← hbulletin]
    simp

/-- A poisoned entry that nothing references is removed (R84). -/
theorem stationPoisoned_unreferenced {i : Nat} {p : Part} (h : p.referenced i none = false) :
    stationPoisoned i p = removeStation i p := by
  obtain ⟨hlistener, hwatch, hbulletin⟩ := listenerOf_unreferenced h
  have hstm : (removeStation i p).stm.watch = p.stm.watch := by rw [(removeStation_frame i p).2.2.2.1]
  rw [stationPoisoned, hlistener]
  dsimp only
  rw [hbulletin, if_neg Bool.false_ne_true, hstm, if_neg (by simpa using hwatch)]

/-- A free index found poisoned and unreferenced is left free, with its mark set, and is unpoisoned (log entry 83). -/
theorem removeStation_free {i : Nat} {p : Part} (hi : i < p.tst.stations.length) (he : p.station i = none)
    (hp : p.entryPoisoned tblStations i = false) (hl : p.tst.latent = []) :
    ∃ zm ss, removeStation i { p with tst := { p.tst with poisoned := p.tst.poisoned ++ [⟨tblStations, i, 0⟩] } }
        = { p with tst := { p.tst with stations := ss }, zmx := zm
                   nfu := if (p.tst.stations[i]?).any StationSlot.mark then p.nfu else p.nfu.post .stationChanged
                     0 none }
      ∧ (ss.getD i {}).entry = none ∧ (ss[i]?).any StationSlot.mark = true ∧ ∀ j, j ≠ i →
        ss[j]? = p.tst.stations[j]? := by
  obtain ⟨slot, hslot⟩ : ∃ slot, p.tst.stations[i]? = some slot := ⟨_, List.getElem?_eq_getElem hi⟩
  have hentry : slot.entry = none := by
    rw [← he, Part.station, List.getD_eq_getElem?_getD, hslot]
    rfl
  have hunpoisoned : (p.tst.poisoned ++ [(⟨tblStations, i, 0⟩ : MemUnit)]).filter
    (fun u => !(u.table == tblStations && u.entry == i))
      = p.tst.poisoned := by
    rw [List.filter_append, List.filter_eq_self.mpr fun u hu => by
      have h := List.any_eq_false.mp hp u hu
      simpa [-not_and, not_and_or] using h]
    simp
  obtain ⟨c, hc⟩ : ∃ c : Part, c = { p with tst := { p.tst with
      stations := p.tst.stations.modify i fun s => { s with entry := none } } } := ⟨_, rfl⟩
  have hrun : removeStation i { p with tst := { p.tst with poisoned := p.tst.poisoned ++ [⟨tblStations, i, 0⟩] } }
      = unnameStation i (setMark i c) := by
    rw [removeStation, cleanEntry]
    dsimp only [Part.updStation]
    rw [hunpoisoned, hl, hc, ← hl]
    simp [hl, updAt]
  have hmark : (c.tst.stations.getD i {}).mark = slot.mark := by
    rw [hc, List.getD_eq_getElem?_getD, List.getElem?_modify_eq, hslot]
    rfl
  obtain ⟨zm, hun, -⟩ := unname_zone i (setMark i c)
  rw [hrun, hun, hslot]
  by_cases hm : slot.mark = true
  · rw [show setMark i c = c from if_pos (hmark.trans hm), hc]
    refine ⟨zm, _, by rw [if_pos (by exact hm)], ?_, ?_, fun j hj => ?_⟩
    · rw [List.getD_eq_getElem?_getD, List.getElem?_modify_eq, hslot]
      rfl
    · rw [List.getElem?_modify_eq, hslot]
      exact hm
    · exact List.getElem?_modify_ne _ _ (Ne.symm hj)
  · rw [setMark_fresh (hmark.trans (by simpa using hm)), hc]
    refine ⟨zm, _, by rw [if_neg (by exact hm)]; rfl, ?_, ?_, fun j hj => ?_⟩
    · rw [List.getD_eq_getElem?_getD, updAt, List.getElem?_modify_eq, List.getElem?_modify_eq, hslot]
      rfl
    · rw [updAt, List.getElem?_modify_eq, List.getElem?_modify_eq, hslot]
      rfl
    · exact (List.getElem?_modify_ne _ _ (Ne.symm hj)).trans (List.getElem?_modify_ne _ _ (Ne.symm hj))

theorem exec_scrubVisit {us : List Upset} {p q : Part} (w : List Instr) (h : settleRead p (scrubVisit us p) = q) :
    exec (.scrubVisit us) ⟨p, w⟩ = .next ⟨q, w⟩ :=
  congrArg (fun q => Host.Outcome.next (⟨q, w⟩ : State)) h

/-- Settles O52. -/
theorem scrubberChecksEntryByEntry : Obligations.ScrubberChecksEntryByEntry := by
  refine ⟨fun p w => ?start, fun p w hr hs hl hpos => ?visit, fun u p w hn hl => ?come,
    fun row double inUse p w hr hq hs hrow hpos hl hu => ?ducks, fun h z i f p w ht hq hz hi hlen he hp => ?tune⟩
  case start =>
    show Host.Outcome.next (⟨scrubPassStart p, w⟩ : State) = _
    rw [scrubPassStart]
    split <;> rfl
  case visit =>
    obtain ⟨⟨table, entry⟩, htarget⟩ := Option.isSome_iff_exists.mp
      (scrubTarget_isSome (l := tableSizes) (table := 0) hpos)
    have hrun : scrubVisit [] p = scrubbedOn p := by
      rw [scrubVisit_pass (us := []) hr hs rfl htarget, checkEntry_clean _ _ (by exact hl)]
      rfl
    refine exec_scrubVisit w ?_
    rw [hrun, scrubbedOn]
    by_cases hlast : p.tst.scrubPos < 213
    · rw [if_pos (by omega), settleRead_undisturbed (by simp [undisturbed]), if_pos hlast, decide_eq_true hlast, ← hs]
    · rw [if_neg (by omega), settleRead_undisturbed (by simp [undisturbed]), if_neg hlast, decide_eq_false hlast]
  case come =>
    refine exec_scrubVisit w ?_
    have hrun : scrubVisit [u] p = { p with tst := { p.tst with latent := [u] } } := by
      rw [scrubVisit, addUpset_clean hl]
      refine if_neg ?_
      show ¬ (p.running && p.tst.scrubbing) = true
      rcases hn with h | h <;> simp [h]
    rw [hrun]
    exact settleRead_undisturbed (by simp [undisturbed])
  case ducks =>
    have hadd := addUpset_clean (u := ⟨⟨tblDucks, row, 0⟩, double, inUse⟩) hl
    have hrun : scrubVisit [⟨⟨5, row, 0⟩, double, inUse⟩] p = { p with
        tst := { p.tst with
          scrubPos := 72 + row
          poisoned := if double then p.tst.poisoned ++ [⟨5, row, 0⟩] else p.tst.poisoned }
        nfu := p.nfu.fault (if double then .uncorrectable else .corrected) (some 5) (some row) p.rif.ringTime } := by
      rw [scrubVisit_pass (table := tblDucks) (entry := row) hr hs (by rw [hadd])
        (by rw [hadd]; exact hpos ▸ scrubTarget_ducks hrow), hadd,
        checkEntry_ducks (double := double) (inUse := inUse) rfl (by exact hu), scrubbedOn]
      dsimp only
      rw [if_pos (by omega), hpos, ← hl, show 71 + row + 1 = 72 + row by omega]
    refine exec_scrubVisit w ?_
    rw [hrun]
    obtain ⟨q, hqeq⟩ : ∃ q, q = scrubVisit [⟨⟨5, row, 0⟩, double, inUse⟩] p := ⟨_, rfl⟩
    rw [hrun] at hqeq
    rw [← hqeq]
    have hother (t e k : Nat) (ht : t ≠ 5) : q.unitPoisoned t e k = p.unitPoisoned t e k := by
      rw [hqeq]
      cases double <;> simp [Part.unitPoisoned, ht]
    refine settleRead_quiet (quiet_of_radio hq ?_ (by rw [hqeq]) (by rw [hqeq]) (by rw [hqeq]) (fun t k hk _ => ?_)
      fun t => .inl (by rw [hqeq]; rfl)) (funext fun r => ?_)
    · rw [Part.radioCfg, hother _ _ _ (by decide), hqeq]
      rfl
    · rw [hqeq] at hk
      exact hk
    · have hpoisoned : q.admissionPoisoned r = p.admissionPoisoned r := hother tblAdmission _ _ (by decide)
      rw [reportView, reportView, hpoisoned, hqeq]
      rfl
  case tune =>
    obtain ⟨a, ha⟩ := ownSource_iff.mp hz
    have hcontains : p.tst.poisoned.contains (⟨tblStations, i, 0⟩ : MemUnit) = false := by
      rw [List.contains_eq_any_beq, List.any_eq_false]
      intro u hu hbeq
      exact List.any_eq_false.mp hp u hu (by rw [← eq_of_beq hbeq]; simp)
    have hmeets (d : Bool) : p.meets ⟨⟨tblStations, i, 0⟩, d, true⟩ = true := by simp [Part.meets]
    have hrequest : tuneRequest (zoneCode z) 0 i f p = tuneStation z i p := by
      rw [tuneRequest_station i f p ha, if_neg (by omega)]
    refine ⟨fun hl => ?_, fun hl href => ?_⟩
    · have hcheck : checkStation i p = { p with
          tst := { p.tst with latent := [] }
          nfu := p.nfu.fault .corrected (some 8) (some i) p.rif.ringTime } :=
        checkWith_only hl (hmeets false) hcontains
      have hpending : p.poisonPending tblStations i = false := by simp [Part.poisonPending, hl]
      have hrun : tuneRequest (zoneCode z) 0 i f p = (.notFound, checkStation i p) := by
        have hfree : (checkStation i p).station i = none := by rw [hcheck]; exact he
        rw [hrequest, tuneStation, hpending, if_neg Bool.false_ne_true, hfree]
        rfl
      rw [hcheck] at hrun
      refine (exec_tune_done w ht hrun hq).trans ?_
      rw [noteReports_same fun r => by rfl]
    · obtain ⟨c, hc⟩ : ∃ c : Part, c = { p with tst := { p.tst with latent := [] } } := ⟨_, rfl⟩
      have hcheck : checkStation i p = (stationPoisoned i { c with tst := { c.tst with
          poisoned := c.tst.poisoned ++ [⟨tblStations, i, 0⟩] } }).fault .uncorrectable (some 8) (some i) := by
        rw [hc]
        exact checkWith_only hl (hmeets true) hcontains
      obtain ⟨zm, ss, hremove, hentry, hmark, hothers⟩ :=
        removeStation_free (i := i) (p := c) (by rw [hc]; show i < p.tst.stations.length; omega)
        (by rw [hc]; exact he) (by rw [hc]; exact hp) (by rw [hc])
      rw [stationPoisoned_unreferenced (by rw [hc]; exact href), hremove, hc] at hcheck
      have hpending : p.poisonPending tblStations i = true := by simp [Part.poisonPending, hl, hmeets]
      have hrun : tuneRequest (zoneCode z) 0 i f p = (.badEntry, checkStation i p) := by
        rw [hrequest, tuneStation, if_pos hpending]
      have hquiet : (checkStation i p).quiet = true := by
        rw [hcheck]
        exact hq
      obtain ⟨rl, hrl⟩ := noteReports_eq p (checkStation i p)
      refine ⟨_, exec_tune_done w ht hrun hquiet, ?_⟩
      rw [hrl, hcheck]
      exact ⟨hentry, hmark, rfl, rfl, fun j hj => (hothers j hj).trans (by rw [hc]), rfl, rfl, rfl⟩

end Sys2Proof.Machine
end

section
/-! PROOFS. The render block of the Zone Mixer (O27). -/

namespace Sys2Proof.Machine

/-! ### The zones' moves -/

/-- A zone of its own source as it moves by its readiness; a held readiness may have been let go (R19, R22). -/
def movedOwn (p : Part) (z : ZoneId) : Zone :=
  { p.zone z with
    held := if (p.zone z).held.isSome && (p.zone z).att.any p.tunerReady then none else (p.zone z).held
    state := nextState (p.zone z) (zoneReady p z) }

/-- A zone that is on as it moves with the zone `f` that it follows (R28). -/
def followed (f r : Zone) : Zone :=
  { r with source := f.source, chan := f.chan, station := f.station, code := f.code, step := f.step, att := f.att
           att2 := f.att2, held := f.held, state := followerState f.state }

/-- A zone as it moves at a render block. -/
def moved (p : Part) (z : ZoneId) : Zone :=
  if z.ownSource then movedOwn p z
  else if z.follows && (p.zone z).state != .off then followed (movedOwn p .front) (p.zone z)
  else p.zone z

/-- A zone that comes into LOST posts ZONE_LOST (R22, R28). -/
def noteLost (z : ZoneId) (new old : ZoneState) (n : Nfu) : Nfu :=
  if new == .lost && old != .lost then n.post .zoneLost (zoneCode z) none else n

theorem enterState_eq (z : ZoneId) (s : ZoneState) (p : Part) :
    enterState z s p = { p with zmx := { p.zmx with zones := p.zmx.zones.set z { p.zone z with state := s } }
                                nfu := noteLost z s (p.zone z).state p.nfu } := by
  unfold enterState noteLost
  dsimp only
  split <;> rfl

/-- A part in the midst of the zones' moves: the zones have the records `zs`, the notices are `n`. -/
def Part.moving (p : Part) (zs : PerZone Zone) (n : Nfu) : Part :=
  { p with zmx := { p.zmx with zones := zs }, nfu := n }

theorem zoneReady_moving {p : Part} {zs : PerZone Zone} {n : Nfu} {z : ZoneId} (h : zs.get z = p.zone z) :
    zoneReady (p.moving zs n) z = zoneReady p z := by
  have hz : (p.moving zs n).zone z = p.zone z := h
  rw [zoneReady, zoneReady, radioReady, radioReady, hz]
  rfl

theorem perZone_set_get {α : Type} {m : PerZone α} {z : ZoneId} {v : α} (h : m.get z = v) : m.set z v = m :=
  PerZone.ext_get fun x => by
    rw [PerZone.get_set]
    split
    · subst_vars
      rfl
    · rfl

theorem perZone_set_set {α : Type} (m : PerZone α) (z : ZoneId) (u v : α) : (m.set z u).set z v = m.set z v :=
  PerZone.ext_get fun x => by
    rw [PerZone.get_set, PerZone.get_set, PerZone.get_set]
    split <;> rfl

theorem noteLost_same (z : ZoneId) (s : ZoneState) (n : Nfu) : noteLost z s s n = n := by
  cases s <;> rfl

theorem letGo_moving {p : Part} {zs : PerZone Zone} {n : Nfu} {z : ZoneId} (h : zs.get z = p.zone z) :
    letGo (p.moving zs n) z = p.moving (zs.set z { p.zone z with
      held := if (p.zone z).held.isSome && (p.zone z).att.any p.tunerReady then none else (p.zone z).held }) n := by
  have hz : (p.moving zs n).zone z = p.zone z := h
  rw [letGo, hz]
  by_cases hgo : ((p.zone z).held.isSome && (p.zone z).att.any p.tunerReady) = true
  · rw [if_pos hgo]
    exact if_pos hgo
  · rw [if_neg hgo, perZone_set_get h]
    exact if_neg hgo

theorem moveZone_moving {p : Part} {zs : PerZone Zone} {n : Nfu} {z : ZoneId} (h : zs.get z = p.zone z)
    (hf : z.follows = true → zs.get .front = movedOwn p .front) :
    moveZone (p.moving zs n) z = p.moving (zs.set z (moved p z)) (noteLost z (moved p z).state (p.zone z).state n) := by
  have hz : (p.moving zs n).zone z = p.zone z := h
  rw [moveZone, moved]
  by_cases how : z.ownSource = true
  · rw [if_pos how, if_pos how, letGo_moving h, zoneReady_moving h]
    dsimp only
    have hself (v : Zone) : (p.moving (zs.set z v) n).zone z = v := PerZone.get_set_self ..
    rw [enterState_eq, hself]
    show p.moving ((zs.set z _).set z _) _ = _
    rw [perZone_set_set]
    rfl
  · rw [if_neg how, if_neg how, hz]
    by_cases hon : (z.follows && (p.zone z).state != .off) = true
    · have hfront : (p.moving zs n).zone .front = movedOwn p .front := hf (Bool.and_eq_true_iff.mp hon).1
      rw [if_pos hon, if_pos hon, followFront, hfront, hz]
      dsimp only
      have hself (v : Zone) : ((p.moving zs n).setZone z v).zone z = v := PerZone.get_set_self ..
      rw [enterState_eq, hself]
      show p.moving ((zs.set z _).set z _) _ = _
      rw [perZone_set_set]
      rfl
    · rw [if_neg hon, if_neg hon, noteLost_same, perZone_set_get h]

/-- The notices of the zones that a list names, in its order. -/
def noteAllLost (p : Part) (l : List ZoneId) (n : Nfu) : Nfu :=
  l.foldl (fun n z => noteLost z (moved p z).state (p.zone z).state n) n

theorem foldl_moveZone {p : Part} {l : List ZoneId} {zs : PerZone Zone} {n : Nfu} (hd : l.Nodup)
    (h : ∀ z ∈ l, zs.get z = p.zone z) (hfront : .front ∉ l) (hf : zs.get .front = movedOwn p .front) :
    l.foldl moveZone (p.moving zs n)
      = p.moving (.of fun x => if x ∈ l then moved p x else zs.get x) (noteAllLost p l n) := by
  induction l generalizing zs n with
  | nil => exact congrArg (fun zs => p.moving zs n) (PerZone.ext_get fun x => by simp)
  | cons z rest ih =>
    obtain ⟨hz, hrest⟩ := List.nodup_cons.mp hd
    obtain ⟨hne, hfront⟩ := not_or.mp (mt List.mem_cons.mpr hfront)
    have hset (x : ZoneId) (hx : x ≠ z) : (zs.set z (moved p z)).get x = zs.get x := PerZone.get_set_of_ne _ _ _ _ hx
    rw [List.foldl_cons, moveZone_moving (h z (.head _)) fun _ => hf,
      ih hrest (fun x hx => (hset x fun hxz => hz (hxz ▸ hx)).trans (h x (.tail _ hx))) hfront ((hset _ hne).trans hf)]
    refine congrArg (fun zs => p.moving zs _) (PerZone.ext_get fun x => ?_)
    rw [PerZone.get_of, PerZone.get_of]
    by_cases hx : x = z
    · subst hx
      rw [if_neg hz, if_pos (.head _), PerZone.get_set_self]
    · rw [hset x hx]
      simp [hx]

/-- All zones' moves at a render block (R22, R28; log entry 61). -/
theorem zones_move (p : Part) :
    ZoneId.all.foldl moveZone p = p.moving (.of (moved p)) (noteAllLost p ZoneId.all p.nfu) := by
  have hfirst : moveZone p .front = p.moving (p.zmx.zones.set .front (moved p .front))
      (noteLost .front (moved p .front).state (p.zone .front).state p.nfu) :=
    moveZone_moving (p := p) (zs := p.zmx.zones) (n := p.nfu) rfl nofun
  have hfold := foldl_moveZone (p := p) (l := [.rearCabin, .hpLeft, .hpRight, .cargo, .driver])
    (zs := p.zmx.zones.set .front (moved p .front)) (n := noteLost .front (moved p .front).state
      (p.zone .front).state p.nfu)
    (by decide) (fun z hz => PerZone.get_set_of_ne _ _ _ _ (by rintro rfl; exact absurd hz (by decide))) (by decide)
    (PerZone.get_set_self ..)
  rw [ZoneId.all, List.foldl_cons, hfirst, hfold]
  refine congrArg (fun zs => p.moving zs _) (PerZone.ext_get fun x => ?_)
  cases x <;> rfl

/-! ### The block -/

/-- The part of whose tables and ramp the zones move by. -/
def Part.blockBegun (p : Part) : Part := takeTables { p with pwc := { p.pwc with ramp := p.pwc.ramp.map (· + 1) } }

theorem zmxBlock_eq {p : Part} (hr : p.running = true) (hl : p.tst.latent = []) :
    zmxBlock p = mixZones (p.blockBegun.moving (.of (moved p.blockBegun))
      (noteAllLost p.blockBegun ZoneId.all p.nfu)) := by
  rw [zmxBlock, hr, ownerReads_clean _ hl]
  show mixZones (ZoneId.all.foldl moveZone p.blockBegun) = _
  rw [zones_move]
  rfl

theorem noteAllLost_eq (p : Part) (l : List ZoneId) (n : Nfu) :
    noteAllLost p l n = (l.filter fun z => (moved p z).state == .lost && (p.zone z).state != .lost).foldl
      (fun n z => n.post .zoneLost (zoneCode z) none) n := by
  rw [List.foldl_filter]
  rfl

/-- The part whose zones have moved, as the targets are computed. -/
def Part.blockMoved (p : Part) : Part :=
  p.blockBegun.moving (.of (moved p.blockBegun)) (noteAllLost p.blockBegun ZoneId.all p.nfu)

theorem blockMoved_zone (p : Part) (z : ZoneId) : p.blockMoved.zone z = moved p z :=
  (PerZone.get_of (f := moved p.blockBegun) z).trans rfl

theorem blockMoved_ramping (p : Part) : p.blockMoved.ramping = p.pwc.ramp.isSome := Option.isSome_map

theorem mixZone_moved (p : Part) (z : ZoneId) : mixZone p.blockMoved z = { moved p z with
    ent := (moved p z).ent.toward (p.zoneCfg z).attack (p.zoneCfg z).release (entTarget p.blockMoved z)
    prm := (moved p z).prm.toward (p.zoneCfg z).attack (p.zoneCfg z).release (prmTarget p.blockMoved z)
    call := (moved p z).call.call (p.zoneCfg z).attack (p.zoneCfg z).release (callTarget p.blockMoved z) } := by
  rw [mixZone, blockMoved_zone]
  rfl

theorem moved_levels (p : Part) (z : ZoneId) :
    (moved p z).ent = (p.zone z).ent ∧ (moved p z).prm = (p.zone z).prm ∧ (moved p z).call = (p.zone z).call := by
  unfold moved
  split
  · exact ⟨rfl, rfl, rfl⟩
  · split <;> exact ⟨rfl, rfl, rfl⟩

theorem moved_own {z : ZoneId} (p : Part) (h : z.ownSource = true) : moved p z = movedOwn p z := if_pos h

theorem not_ownSource_of_follows {z : ZoneId} (h : z.follows = true) : z.ownSource = false := by
  cases z with
  | rearCabin | cargo => rfl
  | front | hpLeft | hpRight | driver => exact absurd h (by decide)

theorem moved_following {z : ZoneId} {p : Part} (h : z.follows = true) (hon : (p.zone z).state ≠ .off) :
    moved p z = followed (moved p .front) (p.zone z) := by
  rw [moved, not_ownSource_of_follows h, if_neg Bool.false_ne_true, if_pos (by simp [h, hon])]
  rfl

theorem moved_still {z : ZoneId} {p : Part} (h : z.ownSource = false)
    (hon : z.follows = true → (p.zone z).state = .off) :
    moved p z = p.zone z := by
  rw [moved, h, if_neg Bool.false_ne_true, if_neg]
  intro hf
  simp only [Bool.and_eq_true, bne_iff_ne] at hf
  exact hf.2 (hon hf.1)

/-- The entertainment target, of the zone's record as it has moved (R34, R35). -/
theorem entTarget_moved (p : Part) (z : ZoneId) : entTarget p.blockMoved z =
    if p.pwc.ramp.isSome = true ∨ (moved p z).state ≠ .playing ∨ (moved p z).mute = true ∨ z = .driver
        ∨ tunerAway p (moved p z) = true ∨ p.curveCode (p.zoneCfg z).headphoneCurve (moved p z).step = 384
        ∨ ∃ d ∈ presentRows p, p.unitPoisoned 5 d 0 = true
      then 384
    else codeSum [p.curveCode (p.zoneCfg z).headphoneCurve (moved p z).step, sourceTrim p (moved p z).source,
      softMuteTerm p (moved p z),
      if z = .rearCabin ∧ ((moved p .hpLeft).state = .playing ∨ (moved p .hpRight).state = .playing)
        then (p.zoneCfg z).rearQuiet else 0,
      if z.follows then (p.zoneCfg z).followOffset else 0, duckOf p z,
      if (p.zoneCfg z).speedComp
        then -(min (p.zoneCfg .front).compMax (p.zmx.speed / 10 * (p.zoneCfg .front).compStep) : Nat) else 0] := by
  have hquiet : rearQuiet p.blockMoved z
      = if z = .rearCabin ∧ ((moved p .hpLeft).state = .playing ∨ (moved p .hpRight).state = .playing)
        then (p.zoneCfg z).rearQuiet else 0 := by
    simp only [rearQuiet, blockMoved_zone, Bool.and_eq_true, Bool.or_eq_true, beq_iff_eq]
    split
    · rename_i h
      rw [h.1]
      rfl
    · rfl
  have hmuted : duckMuted p.blockMoved = true ↔ ∃ d ∈ presentRows p, p.unitPoisoned 5 d 0 = true := List.any_eq_true
  have hcond : (p.pwc.ramp.isSome || (moved p z).state != .playing || (moved p z).mute || z == .driver
      || tunerAway p (moved p z) || p.curveCode (p.zoneCfg z).headphoneCurve (moved p z).step == mute
      || duckMuted p.blockMoved) = true
      ↔ p.pwc.ramp.isSome = true ∨ (moved p z).state ≠ .playing ∨ (moved p z).mute = true ∨ z = .driver
        ∨ tunerAway p (moved p z) = true ∨ p.curveCode (p.zoneCfg z).headphoneCurve (moved p z).step = 384
        ∨ ∃ d ∈ presentRows p, p.unitPoisoned 5 d 0 = true := by
    simp only [Bool.or_eq_true, bne_iff_ne, beq_iff_eq, hmuted, or_assoc, ne_eq]
  rw [entTarget, blockMoved_zone, blockMoved_ramping, hquiet]
  by_cases hc : (p.pwc.ramp.isSome || (moved p z).state != .playing || (moved p z).mute || z == .driver
      || tunerAway p (moved p z) || p.curveCode (p.zoneCfg z).headphoneCurve (moved p z).step == mute
      || duckMuted p.blockMoved) = true
  · rw [if_pos (hcond.mp hc)]
    exact if_pos hc
  · rw [if_neg (mt hcond.mpr hc)]
    refine (if_neg hc).trans ?_
    simp only [Nat.cast_ite, Nat.cast_zero]
    rfl

/-- The prompt target (R36). -/
theorem prmTarget_moved (p : Part) (z : ZoneId) : prmTarget p.blockMoved z = p.anu.playing.elim 384 fun m =>
    if p.pwc.ramp.isSome = true ∨ m.zones.get z = false ∨ (moved p z).state = .off then 384
    else codeSum [m.level, (p.zoneCfg z).promptOffset,
      if p.clp.state = .active ∧ m.cls = .nav ∧ p.clp.zones.get z = true then p.callCfg.navDuck else 0] := by
  have hsame : p.blockMoved.anu = p.anu := rfl
  rw [prmTarget, hsame]
  cases p.anu.playing with
  | none => rfl
  | some m =>
    dsimp only
    rw [blockMoved_ramping, blockMoved_zone]
    simp only [Bool.or_eq_true, Bool.and_eq_true, Bool.not_eq_true', beq_iff_eq, or_assoc, and_assoc]
    rfl

/-- The call target (R37). -/
theorem callTarget_moved (p : Part) (z : ZoneId) : callTarget p.blockMoved z =
    if p.pwc.ramp.isSome = true ∨ p.clp.state ≠ .active ∨ p.clp.zones.get z = false ∨ (moved p z).state = .off then 384
    else codeSum [p.callCfg.level, (p.zoneCfg z).callOffset] := by
  rw [callTarget, blockMoved_ramping, blockMoved_zone]
  simp only [Bool.or_eq_true, Bool.not_eq_true', beq_iff_eq, bne_iff_ne, or_assoc]
  rfl

/-- Settles O27. -/
theorem zoneMixerMovesZonesAndRamps : Obligations.ZoneMixerMovesZonesAndRamps := by
  intro p w hr hq hl
  obtain ⟨m, hm⟩ : ∃ m, m = zmxBlock p := ⟨_, rfl⟩
  have hmeq : m = mixZones p.blockMoved := hm.trans (zmxBlock_eq hr hl)
  have hquiet : m.quiet = true := by
    rw [hmeq]
    exact hq
  obtain ⟨rl, hrl⟩ := noteReports_eq p m
  obtain ⟨q, hqm⟩ : ∃ q, q = noteReports p m := ⟨_, rfl⟩
  refine ⟨q, ?_, ?_⟩
  · refine congrArg (fun q => Host.Outcome.next (⟨q, w⟩ : State)) ?_
    rw [settle, ← hm, stmSettle_quiet hquiet, hqm]
  rw [hrl, hmeq] at hqm
  have hzone (z : ZoneId) : q.zone z = mixZone p.blockMoved z := by
    rw [hqm]
    exact PerZone.get_of _ _
  have hstate (z : ZoneId) : (q.zone z).state = (moved p z).state := by rw [hzone, mixZone_moved]
  refine ⟨by rw [hqm]; rfl, fun k => ?sources, ?notices, fun z => ?zone⟩
  case sources =>
    rw [hqm]
    show (p.tst.sources.zipIdx.map _)[k]? = _
    rw [List.getElem?_map, List.getElem?_zipIdx]
    cases p.tst.sources[k]? with
    | none => rfl
    | some e =>
      rw [Option.map_some, Option.map_some, Option.map_some, Nat.zero_add]
      rfl
  case notices =>
    have hn : q.nfu = noteAllLost p.blockBegun ZoneId.all p.nfu := by rw [hqm]; rfl
    refine hn.trans ((noteAllLost_eq ..).trans ?_)
    refine congrArg (fun l => List.foldl _ p.nfu l) (List.filter_congr fun z _ => ?_)
    exact congrArg (fun s => s == ZoneState.lost && (p.zone z).state != .lost) (hstate z).symm
  case zone =>
    obtain ⟨hent, hprm, hcall⟩ := moved_levels p z
    simp only [hzone, mixZone_moved]
    refine ⟨fun how => ?_, fun hf hon => ?_, fun hf hoff => ?_, fun hd => ?_, ?_, ?_, ?_, ?_, ?_, ?_⟩
    · rw [moved_own p how]
      show nextState (p.zone z) (zoneReady p z) = _
      rw [nextState]
      cases (p.zone z).state <;> simp
    · have hmv := moved_following hf hon
      refine ⟨?_, ?_, ?_⟩
      · rw [hmv]
        rfl
      · rw [hmv]
        rfl
      · rw [hmv]
        show followerState (moved p .front).state = _
        cases (moved p .front).state <;> rfl
    · rw [moved_still (not_ownSource_of_follows hf) fun _ => hoff, hoff]
    · subst hd
      rfl
    · rw [← hent]
      rfl
    · rw [← hprm]
      rfl
    · rw [← hcall, Level.call]
      by_cases hmute : callTarget p.blockMoved z = mute
      · rw [if_pos hmute]
        rfl
      · rw [if_neg hmute]
        exact (if_neg hmute).symm
    · exact entTarget_moved p z
    · refine (prmTarget_moved p z).trans ?_
      cases p.anu.playing <;> rfl
    · rw [← callTarget_moved, Level.call]
      by_cases hmute : callTarget p.blockMoved z = mute
      · rw [if_pos hmute, hmute]
      · rw [if_neg hmute]
        rfl

end Sys2Proof.Machine
end

section
/-! PROOFS. The favourites, and the station that an HP_STATION chooses. -/

namespace Sys2Proof.Machine

theorem mem_favourites {p : Part} {n i : Nat} :
    (n, i) ∈ favourites p ↔ (p.station i).bind Station.favourite = some n := by
  rw [favourites, List.mem_filterMap, Part.station, List.getD_eq_getElem?_getD]
  constructor
  · rintro ⟨⟨s, k⟩, hmem, hs⟩
    rw [List.mem_zipIdx_iff_getElem?] at hmem
    obtain ⟨m, hm, heq⟩ := Option.map_eq_some_iff.mp hs
    obtain ⟨rfl, rfl⟩ := Prod.mk.inj heq
    rw [hmem]
    exact hm
  · intro h
    cases hs : p.tst.stations[i]? with
    | none =>
      rw [hs] at h
      exact absurd h nofun
    | some s =>
      rw [hs] at h
      exact ⟨(s, i), List.mem_zipIdx_iff_getElem?.mpr hs, Option.map_eq_some_iff.mpr ⟨n, h, rfl⟩⟩

/-- What holds of every entry's favourite number holds of every favourite. -/
theorem favourites_all {p : Part} {P : Nat → Prop}
    (h : ∀ s ∈ p.tst.stations, ∀ m, s.entry.bind Station.favourite = some m → P m) : ∀ x ∈ favourites p, P x.1 := by
  intro x hx
  obtain ⟨⟨s, k⟩, hmem, hs⟩ := List.mem_filterMap.mp hx
  obtain ⟨m, hm, rfl⟩ := Option.map_eq_some_iff.mp hs
  exact h s (List.mem_of_getElem? (List.mem_zipIdx_iff_getElem?.mp hmem)) m hm

/-- The favourite of an index, if it is one. -/
theorem favourites_find_index (p : Part) (i : Nat) :
    ((favourites p).find? fun x => x.2 == i) = ((p.station i).bind Station.favourite).map fun m => (m, i) := by
  cases hf : (p.station i).bind Station.favourite with
  | none =>
    refine List.find?_eq_none.mpr fun x hx hxi => ?_
    have hx' := mem_favourites.mp hx
    rw [eq_of_beq hxi, hf] at hx'
    exact absurd hx' nofun
  | some m =>
    cases hfind : (favourites p).find? fun x => x.2 == i with
    | none => exact absurd (List.find?_eq_none.mp hfind _ (mem_favourites.mpr hf)) (by simp)
    | some y =>
      have hyi : y.2 = i := by simpa using List.find?_some hfind
      have hy := mem_favourites.mp (List.mem_of_find?_eq_some hfind)
      rw [hyi, hf] at hy
      show some y = some (m, i)
      rw [Option.some.inj hy, ← hyi]

/-- A favourite number names one index: that of no other is `n`. -/
def Part.soleFavourite (p : Part) (n i : Nat) : Prop :=
  (p.station i).bind Station.favourite = some n ∧ ∀ j, j ≠ i → (p.station j).bind Station.favourite ≠ some n

theorem soleFavourite_eq {p : Part} {n i : Nat} (h : p.soleFavourite n i) {x : Nat × Nat} (hx : x ∈ favourites p)
    (hn : x.1 = n) : x = (n, i) := by
  obtain ⟨m, j⟩ := x
  have hm : m = n := hn
  subst hm
  by_cases hj : j = i
  · rw [hj]
  · exact absurd (mem_favourites.mp hx) (h.2 j hj)

theorem favourites_find_number {p : Part} {n i : Nat} (h : p.soleFavourite n i) :
    ((favourites p).find? fun x => x.1 == n) = some (n, i) := by
  cases hfind : (favourites p).find? fun x => x.1 == n with
  | none => exact absurd (List.find?_eq_none.mp hfind _ (mem_favourites.mpr h.1)) (by simp)
  | some y =>
    rw [soleFavourite_eq h (List.mem_of_find?_eq_some hfind) (by simpa using List.find?_some hfind)]

theorem favourites_find_none {p : Part} {n : Nat} (h : ∀ j, (p.station j).bind Station.favourite ≠ some n) :
    ((favourites p).find? fun x => x.1 == n) = none :=
  List.find?_eq_none.mpr fun x hx hxn => h x.2 (by
    have hx' := mem_favourites.mp hx
    rwa [eq_of_beq hxn] at hx')

/-! ### The next favourite and the previous one -/

/-- A number comes before another, going up or down. -/
def ahead (up : Bool) (a b : Nat) : Prop := if up then a < b else b < a

theorem ahead_iff (up : Bool) (a b : Nat) : (if up then decide (a < b) else decide (b < a)) = true ↔ ahead up a b := by
  cases up <;> exact decide_eq_true_iff

/-- Of a favourite kept and the next one read, the one that comes before. -/
def keepBetter (up : Bool) : Option (Nat × Nat) → Nat × Nat → Option (Nat × Nat)
  | none, x => some x
  | some z, x => if (if up then x.1 < z.1 else z.1 < x.1) then some x else some z

theorem extreme_foldl (up : Bool) (fs : List (Nat × Nat)) : extreme up fs = fs.foldl (keepBetter up) none := by
  unfold extreme
  congr 1
  funext b x
  cases b <;> rfl

theorem keepBetter_mem (up : Bool) (b : Option (Nat × Nat)) (x : Nat × Nat) :
    keepBetter up b x = some x ∨ keepBetter up b x = b := by
  cases b with
  | none => exact .inl rfl
  | some z =>
    by_cases h : if up then x.1 < z.1 else z.1 < x.1
    · exact .inl (if_pos h)
    · exact .inr (if_neg h)

/-- The one that comes before the others is kept, once it is read. -/
theorem keepBetter_first {up : Bool} {x y z : Nat × Nat} (hx : x = y ∨ ahead up y.1 x.1) (hz : z = y ∨ ahead up y.1 z.1)
    (h : x = y ∨ z = y) : keepBetter up (some z) x = some y := by
  unfold keepBetter ahead at *
  rcases h with rfl | rfl
  · rcases hz with rfl | hz
    · exact ite_self _
    · exact if_pos hz
  · rcases hx with rfl | hx
    · exact ite_self _
    · refine if_neg ?_
      cases up <;> simp at hx ⊢ <;> omega

/-- The favourite that comes before all the others is the extreme one. -/
theorem foldl_keepBetter {up : Bool} {y : Nat × Nat} {fs : List (Nat × Nat)} {b : Option (Nat × Nat)}
    (hmem : y ∈ fs ∨ b = some y) (hfs : ∀ x ∈ fs, x = y ∨ ahead up y.1 x.1)
    (hb : ∀ x, b = some x → x = y ∨ ahead up y.1 x.1) :
    fs.foldl (keepBetter up) b = some y := by
  induction fs generalizing b with
  | nil => exact hmem.resolve_left List.not_mem_nil
  | cons x rest ih =>
    rw [List.foldl_cons]
    refine ih ?_ (fun z hz => hfs z (.tail _ hz)) fun z hz => ?_
    · by_cases hrest : y ∈ rest
      · exact .inl hrest
      · refine .inr ?_
        cases b with
        | none =>
          have hxy := hmem.resolve_right nofun
          rw [(List.mem_cons.mp hxy).resolve_right hrest]
          rfl
        | some z =>
          refine keepBetter_first (hfs x (.head _)) (hb z rfl) ?_
          rcases hmem with hmem | hzy
          · exact .inl ((List.mem_cons.mp hmem).resolve_right hrest).symm
          · exact .inr (Option.some.inj hzy)
    · rcases keepBetter_mem up b x with h | h
      · rw [h] at hz
        exact Option.some.inj hz ▸ hfs x (.head _)
      · exact hb z (h ▸ hz)

theorem extreme_eq {up : Bool} {y : Nat × Nat} {fs : List (Nat × Nat)} (hmem : y ∈ fs)
    (hfs : ∀ x ∈ fs, x = y ∨ ahead up y.1 x.1) : extreme up fs = some y :=
  (extreme_foldl up fs).trans (foldl_keepBetter (.inl hmem) hfs nofun)

/-! ### The choice -/

theorem chosenStation_number {p : Part} {z : ZoneId} {n : Nat} (hn : n ≤ 12) :
    chosenStation p z n = ((favourites p).find? fun x => x.1 == n).map Prod.snd := by
  rw [chosenStation]
  exact if_neg (by simp; omega)

/-- The favourite number of the station that a zone is on. -/
def Part.hereFavourite (p : Part) (z : ZoneId) : Option Nat :=
    ((p.zone z).station.bind p.station).bind Station.favourite

/-- The next favourite or the previous one, and round from the end (R123). -/
theorem chosenStation_step {p : Part} {z : ZoneId} {up : Bool} {n i : Nat} (h : p.soleFavourite n i)
    (hn : (∃ m, p.hereFavourite z = some m ∧ ahead up m n ∧ ∀ x ∈ favourites p, ahead up m x.1 →
      x.1 = n ∨ ahead up n x.1)
      ∨ ((p.hereFavourite z = none ∨ ∃ m, p.hereFavourite z = some m ∧ ∀ x ∈ favourites p, ¬ ahead up m x.1)
        ∧ ∀ x ∈ favourites p, x.1 = n ∨ ahead up n x.1)) :
    chosenStation p z (if up then 0x81 else 0x82) = some i := by
  have hmem : (n, i) ∈ favourites p := mem_favourites.mpr h.1
  have hsole {x : Nat × Nat} (hx : x ∈ favourites p) (hor : x.1 = n ∨ ahead up n x.1) : x = (n, i) ∨ ahead up n x.1 :=
    hor.imp_left fun hxn => soleFavourite_eq h hx hxn
  obtain ⟨here, hhere⟩ : ∃ here, here = (p.zone z).station.bind fun i => (favourites p).find? fun x => x.2 == i :=
    ⟨_, rfl⟩
  have hfst : here.map Prod.fst = p.hereFavourite z := by
    rw [hhere, Part.hereFavourite]
    cases (p.zone z).station with
    | none => rfl
    | some k =>
      show ((favourites p).find? fun x => x.2 == k).map Prod.fst = (p.station k).bind Station.favourite
      rw [favourites_find_index]
      cases (p.station k).bind Station.favourite <;> rfl
  have hchosen : chosenStation p z (if up then 0x81 else 0x82) = ((here.bind fun y =>
      extreme up ((favourites p).filter fun x => if up then y.1 < x.1 else x.1 < y.1)).or
        (extreme up (favourites p))).map
        Prod.snd := by
    rw [hhere, chosenStation]
    generalize ((p.zone z).station.bind fun i => (favourites p).find? fun x => x.2 == i) = here
    cases up <;> cases here <;> rfl
  rw [hchosen]
  rcases hn with ⟨m, hm, hmn, hall⟩ | ⟨hlast, hall⟩
  · obtain ⟨y, rfl, hy⟩ := Option.map_eq_some_iff.mp (hfst.trans hm)
    have hnext : extreme up ((favourites p).filter fun x => if up then y.1 < x.1 else x.1 < y.1) = some (n, i) := by
      refine extreme_eq (List.mem_filter.mpr ⟨hmem, (ahead_iff ..).mpr (hy ▸ hmn)⟩) fun x hx => ?_
      obtain ⟨hx, hxy⟩ := List.mem_filter.mp hx
      exact hsole hx (hall x hx (hy ▸ (ahead_iff ..).mp hxy))
    rw [Option.bind_some, hnext]
    rfl
  · have hnone : (here.bind fun y => extreme up ((favourites p).filter fun x => if up then y.1 < x.1 else x.1 < y.1))
      = none := by
      cases here with
      | none => rfl
      | some y =>
        obtain ⟨m, hm, hno⟩ := hlast.resolve_left (by rw [← hfst]; exact nofun)
        have hy : y.1 = m := Option.some.inj (hfst.trans hm)
        have hempty : ((favourites p).filter fun x => if up then y.1 < x.1 else x.1 < y.1) = [] := by
          refine List.filter_eq_nil_iff.mpr fun x hx => ?_
          rw [ahead_iff, hy]
          exact hno x hx
        rw [Option.bind_some, hempty]
        rfl
    rw [hnone, extreme_eq hmem fun x hx => hsole hx (hall x hx)]
    rfl

end Sys2Proof.Machine
end

section
/-! PROOFS. Rear requests: refused in their order, and admitted ones act as the ring's (O56). -/

namespace Sys2Proof.Machine

/-! ### The command of a rear request -/

/-- A command is the rear request of a kind, with the argument bytes of its frame (Table 7.2). -/
def AsksRear (c : Instr) (k : RearKind) (r : RearSeat) (args : List Byte) : Prop :=
  (∀ p w, exec c ⟨p, w⟩ = .next ⟨rearRequest r k (valueAt args 0 1) p, w⟩) ∧ argOk k (valueAt args 0 1) = true
    ∧ args.length = argCount k

theorem asksRear_byte {c : Instr} {k : RearKind} {r : RearSeat} {n : Nat} (hn : n < 256)
    (he : ∀ p w, exec c ⟨p, w⟩ = .next ⟨rearRequest r k n p, w⟩) (hk : argOk k n = true) (hc : argCount k = 1) :
    AsksRear c k r (byte1 n) := by
  have hbyte : valueAt (byte1 n) 0 1 = n := valueOf_byte1 hn
  rw [AsksRear, hbyte]
  exact ⟨he, hk, hc.symm⟩

/-- The request that a rear command stands for. -/
theorem asksRear_of {c : Instr} {kind : Nat} {r : RearSeat} {args : List Byte}
    (h : rearRequestOf c = some (kind, r, args))
    (hw : c.wellFormed = true) : ∃ k, rearKindOf kind = some k ∧ AsksRear c k r args := by
  unfold rearRequestOf at h
  split at h <;> cases h
  case h_1 n | h_5 n | h_6 n =>
    have hn : n < 256 := by
      simp [Instr.wellFormed] at hw
      omega
    exact ⟨_, rfl, asksRear_byte hn (fun _ _ => rfl) hw rfl⟩
  case h_2 n =>
    have hn : n ≤ 5 := by simpa [Instr.wellFormed] using hw
    exact ⟨_, rfl, asksRear_byte (by omega) (fun _ _ => rfl) hw rfl⟩
  case h_3 n =>
    have hn : n < 256 := by
      simp [Instr.wellFormed] at hw
      omega
    exact ⟨_, rfl, asksRear_byte hn (fun _ _ => rfl) hw rfl⟩
  case h_4 n =>
    have hn : n < 256 := by simpa [Instr.wellFormed] using hw
    exact ⟨_, rfl, asksRear_byte hn (fun _ _ => rfl) hw rfl⟩
  case h_7 | h_8 | h_9 => exact ⟨_, rfl, fun _ _ => rfl, rfl, rfl⟩

/-! ### The decision -/

/-- A rear request with the assembler in another state than HANDLING stands for its whole frame. -/
def Part.rearOpen (p : Part) : Prop := p.rif.addressValid = true ∧ p.tst.latent = [] ∧ p.rlu.assembler ≠ .handling

theorem rearRequest_open {r : RearSeat} {k : RearKind} {arg : Nat} {p : Part} (hp : p.rearOpen)
    (hk : argOk k arg = true) :
    rearRequest r k arg p = decideTaken (takenNow r k arg p) p := by
  obtain ⟨ha, hl, hn⟩ := hp
  have hnot : (p.rlu.assembler == .handling) = false := by simpa using hn
  rw [rearRequest, ha, hnot, hk, takeRear, readAdmission_clean r hl]
  rfl

theorem keptUp_quiet (k : RearKind) {p q : Part} (hq : q.quiet = true) : keptUp k p q = q := by
  cases k with
  | power | source | station => exact stmSettle_quiet hq
  | volume | mute | cabin | join | leave | query => rfl

/-- A refused request is its seat's pending result and changes nothing else. -/
theorem decideTaken_refused {x : Taken} {res : RearResult} {p : Part} (hd : rearDecide x p = (res, p))
    (hq : p.quiet = true)
    (hr : x.kind = .query ∨ (res ≠ .done ∧ res ≠ .clamped)) :
    decideTaken x p = { p with rlu := { p.rlu with pending := p.rlu.pending.set x.seat (some res) } } := by
  have hchange : (x.kind != .query && (res == .done || res == .clamped)) = false := by
    rcases hr with h | ⟨h1, h2⟩
    · simp [h]
    · simp [h1, h2]
  rw [decideTaken, hd]
  dsimp only
  rw [keptUp_quiet _ hq, noteReports_same fun _ => rfl, rearChange, hchange]
  rfl

/-- What an admissible request answered DONE or CLAMPED leaves beside its effect (R125, R126). -/
def rearDone (r : RearSeat) (res : RearResult) (p : Part) : Part :=
  { p with nfu := p.nfu.post .rearChange (rearCode r) none
           rlu := { p.rlu with pending := p.rlu.pending.set r (some res) } }

theorem decideTaken_done {x : Taken} {res : RearResult} {p q : Part} (hd : rearDecide x p = (res, q))
    (hk : x.kind ≠ .query)
    (hr : res = .done ∨ res = .clamped) :
    decideTaken x p = rearDone x.seat res (noteReports p (keptUp x.kind p q)) := by
  have hchange : (x.kind != .query && (res == .done || res == .clamped)) = true := by
    rcases hr with h | h <;> simp [h, hk]
  rw [decideTaken, hd]
  dsimp only
  rw [rearChange, if_pos hchange]
  rfl

/-- The seat's own report is the one with the result. -/
theorem rearDone_noteReports {r : RearSeat} {res : RearResult} {p q : Part}
    (h : reportView p r.other = reportView q r.other) : rearDone r res (noteReports p q) = rearDone r res q := by
  cases r with
  | left =>
    change reportView p .right = reportView q .right at h
    have hright : reportView p .right = reportView (q.queueReport .left none) .right := h
    unfold noteReports
    by_cases hleft : reportView p .left = reportView q .left
    · rw [if_pos hleft]
      exact congrArg (rearDone .left res) (if_pos h)
    · rw [if_neg hleft]
      exact (congrArg (rearDone .left res) (if_pos hright)).trans rfl
  | right =>
    change reportView p .left = reportView q .left at h
    unfold noteReports
    rw [if_pos h]
    dsimp only
    split <;> rfl

/-! ### What is refused -/

theorem kind_of_rearKind {n : Nat} {k : RearKind} (h : rearKindOf n = some k) : n = admissionBit k + 1 := by
  unfold rearKindOf at h
  split at h <;> cases h <;> rfl

/-- The request names a source that its seat is not allowed. -/
def asksDenied (k : RearKind) (arg : Nat) (ok : SourceSet) : Prop :=
  k = .station ∧ ok.radio = false ∨ k = .source ∧ ∃ s, sourceOf arg = some s ∧ allowedSource ok s = false

theorem sourceDenied_iff (x : Taken) : sourceDenied x = true ↔ asksDenied x.kind x.arg x.allowed := by
  unfold sourceDenied asksDenied
  cases x.kind with
  | source => cases sourceOf x.arg <;> simp
  | station => simp
  | power | volume | mute | cabin | join | leave | query => simp

/-- The sources by their codes, as the argument byte of an HP_SOURCE gives them. -/
theorem asksDenied_byte {b : Byte} {ok : SourceSet} (hb : b.toNat ≤ 5) :
    (∃ s, sourceOf b.toNat = some s ∧ allowedSource ok s = false)
      ↔ [b] = [1#8] ∧ ok.radio = false ∨ [b] = [2#8] ∧ ok.media1 = false ∨ [b] = [3#8] ∧ ok.media2 = false
        ∨ [b] = [4#8] ∧ ok.media3 = false ∨ [b] = [5#8] ∧ ok.media4 = false := by
  obtain ⟨n, hn⟩ : ∃ n, n = b.toNat := ⟨_, rfl⟩
  have hbn : b = BitVec.ofNat 8 n := by rw [hn, BitVec.ofNat_toNat, BitVec.setWidth_eq]
  rw [← hn] at hb ⊢
  rw [hbn]
  interval_cases n <;> simp [sourceOf, allowedSource]

/-- The same, by the bytes of the request's frame. -/
theorem asksDenied_frame {kind : Nat} {k : RearKind} {args : List Byte} {ok : SourceSet}
    (hk : kind = admissionBit k + 1)
    (hok : argOk k (valueAt args 0 1) = true) (hlen : args.length = argCount k) :
    (kind = 3 ∧ ok.radio = false ∨ kind = 2 ∧ (args = [1#8] ∧ ok.radio = false ∨ args = [2#8] ∧ ok.media1 = false
        ∨ args = [3#8] ∧ ok.media2 = false ∨ args = [4#8] ∧ ok.media3 = false ∨ args = [5#8] ∧ ok.media4 = false))
      ↔ asksDenied k (valueAt args 0 1) ok := by
  subst hk
  cases k with
  | source =>
    obtain ⟨b, rfl⟩ := List.length_eq_one_iff.mp hlen
    have hb : valueAt [b] 0 1 = b.toNat := by simp [valueAt, valueOf]
    rw [hb] at hok ⊢
    rw [← asksDenied_byte (of_decide_eq_true hok)]
    simp [asksDenied, admissionBit]
  | station => simp [asksDenied, admissionBit]
  | power | volume | mute | cabin | join | leave | query => simp [asksDenied, admissionBit]

theorem rearDecide_query {x : Taken} (p : Part) (h : x.kind = .query) : rearDecide x p = (.done, p) := by
  rw [rearDecide, h]
  rfl

theorem rearDecide_denied {x : Taken} (p : Part) (hk : x.kind ≠ .query)
    (h : x.flags.getLsbD (admissionBit x.kind) = false) :
    rearDecide x p = (.denied, p) := by
  rw [rearDecide, if_neg (by simpa using hk), h]
  rfl

theorem rearDecide_source {x : Taken} (p : Part) (hk : x.kind ≠ .query)
    (h : x.flags.getLsbD (admissionBit x.kind) = true)
    (hs : asksDenied x.kind x.arg x.allowed) : rearDecide x p = (.sourceDenied, p) := by
  rw [rearDecide, if_neg (by simpa using hk), h, (sourceDenied_iff x).mpr hs]
  rfl

theorem rearDecide_allowed {x : Taken} (p : Part) (hk : x.kind ≠ .query)
    (h : x.flags.getLsbD (admissionBit x.kind) = true)
    (hs : ¬ asksDenied x.kind x.arg x.allowed) :
    rearDecide x p = if p.pwc.mode = .active then handOff x.seat x.kind x.arg p else (.power, p) := by
  have hsource : sourceDenied x = false := by simpa using mt (sourceDenied_iff x).mp hs
  rw [rearDecide, if_neg (by simpa using hk), h, hsource, Part.isActive]
  cases p.pwc.mode <;> rfl

theorem takenNow_flags {r : RearSeat} {k : RearKind} {arg : Nat} {p : Part} (h : p.admissionPoisoned r = false) :
    (takenNow r k arg p).flags = (p.tst.admission.get r).flags := by
  show p.admissionFlags r = _
  rw [Part.admissionFlags, h]
  rfl

theorem takenNow_poisoned {r : RearSeat} {k : RearKind} {arg : Nat} {p : Part} (h : p.admissionPoisoned r = true) :
    (takenNow r k arg p).flags = 0#8 := by
  show p.admissionFlags r = _
  rw [Part.admissionFlags, h]
  rfl

/-! ### What is admitted -/

/-- A seat of an open link, in ACTIVE, all of whose requests are admitted. -/
def Part.admits (p : Part) (r : RearSeat) : Prop :=
  p.rearOpen ∧ p.admissionPoisoned r = false ∧ (p.tst.admission.get r).flags = 255#8 ∧ p.pwc.mode = .active

theorem rearDecide_admitted {r : RearSeat} {k : RearKind} {arg : Nat} {p : Part} (hp : p.admits r) (hk : k ≠ .query)
    (hs : ¬ asksDenied k arg (p.tst.admission.get r).allowed) :
    rearDecide (takenNow r k arg p) p = handOff r k arg p := by
  obtain ⟨-, hpoisoned, hflags, hmode⟩ := hp
  have hbit : (takenNow r k arg p).flags.getLsbD (admissionBit (takenNow r k arg p).kind) = true := by
    rw [takenNow_flags hpoisoned, hflags]
    show (255#8).getLsbD (admissionBit k) = true
    cases k with
    | query => exact absurd rfl hk
    | power | source | station | volume | mute | cabin | join | leave => rfl
  exact (rearDecide_allowed p hk hbit hs).trans (if_pos hmode)

/-- An admitted request answered DONE or CLAMPED. -/
theorem rearRequest_done {r : RearSeat} {k : RearKind} {arg : Nat} {res : RearResult} {p q : Part} (hp : p.admits r)
    (hk : k ≠ .query) (hok : argOk k arg = true) (hs : ¬ asksDenied k arg (p.tst.admission.get r).allowed)
    (ho : handOff r k arg p = (res, q)) (hr : res = .done ∨ res = .clamped) :
    rearRequest r k arg p = rearDone r res (noteReports p (keptUp k p q)) := by
  rw [rearRequest_open hp.1 hok, decideTaken_done ((rearDecide_admitted hp hk hs).trans ho) hk hr]
  rfl

/-- An admitted request that its owner refuses. -/
theorem rearRequest_refused {r : RearSeat} {k : RearKind} {arg : Nat} {res : RearResult} {p : Part} (hp : p.admits r)
    (hq : p.quiet = true) (hk : k ≠ .query) (hok : argOk k arg = true)
    (hs : ¬ asksDenied k arg (p.tst.admission.get r).allowed)
    (ho : handOff r k arg p = (res, p)) (hr : res ≠ .done ∧ res ≠ .clamped) :
    rearRequest r k arg p = { p with rlu := { p.rlu with pending := p.rlu.pending.set r (some res) } } := by
  rw [rearRequest_open hp.1 hok, decideTaken_refused ((rearDecide_admitted hp hk hs).trans ho) hq (.inr hr)]
  rfl

theorem rearRequest_handed {r : RearSeat} {k : RearKind} {arg : Nat} {p : Part} (hp : p.admits r)
    (hk : k ≠ .query) (hok : argOk k arg = true) (hs : ¬ asksDenied k arg (p.tst.admission.get r).allowed) :
    rearRequest r k arg p = (rearChange r k (handOff r k arg p).1
      (noteReports p (keptUp k p (handOff r k arg p).2))).queueReport r (some (handOff r k arg p).1) := by
  rw [rearRequest_open hp.1 hok, decideTaken, rearDecide_admitted hp hk hs]
  rfl

/-- An admitted request that its owner refuses and that leaves the part, once settled, as it was. -/
theorem rearRequest_unchanged {r : RearSeat} {k : RearKind} {arg : Nat} {res : RearResult} {p : Part} (hp : p.admits r)
    (hk : k ≠ .query) (hok : argOk k arg = true) (hs : ¬ asksDenied k arg (p.tst.admission.get r).allowed)
    (ho : (handOff r k arg p).1 = res) (hsame : noteReports p (keptUp k p (handOff r k arg p).2) = p)
    (hr : res ≠ .done ∧ res ≠ .clamped) :
    rearRequest r k arg p = { p with rlu := { p.rlu with pending := p.rlu.pending.set r (some res) } } := by
  rw [rearRequest_handed hp hk hok hs, hsame, ho, rearChange, if_neg (by simp [hr.1, hr.2])]
  rfl

/-- An admitted request that changes its own zone's record alone. -/
theorem rearRequest_zone {r : RearSeat} {k : RearKind} {arg : Nat} {res : RearResult} {v : Zone} {p : Part}
    (hp : p.admits r)
    (hq : p.quiet = true) (hk : k ≠ .query) (hok : argOk k arg = true)
    (hs : ¬ asksDenied k arg (p.tst.admission.get r).allowed)
    (ho : handOff r k arg p = (res, p.setZone r.zone v)) (hr : res = .done ∨ res = .clamped) :
    rearRequest r k arg p = rearDone r res (p.setZone r.zone v) := by
  have hview : reportView p r.other = reportView (p.setZone r.zone v) r.other := by
    cases r <;> rfl
  rw [rearRequest_done hp hk hok hs ho hr, keptUp_quiet k (by exact hq), rearDone_noteReports hview]

/-! ### The ring request of the same effect -/

theorem answered_inj {kind : Nat} {h : ReqHeader} {res res' : Result} {body body' : List Byte} {q q' : Part}
    (he : answered kind h res body q = answered kind h res' body' q') (hr : q.rif = q'.rif) : res = res' ∧ q = q' := by
  have hsaved := congrArg (fun p => p.rif.saved) he
  simp only [answered, Option.some.injEq, Saved.mk.injEq] at hsaved
  obtain ⟨-, -, hres, -⟩ := hsaved
  have hpart := congrArg (fun p : Part => ({ p with rif := q.rif } : Part)) he
  refine ⟨hres, hpart.trans ?_⟩
  rw [hr]
  rfl

/-- What a ring request of a zone has done, read from the reply that it has left. -/
theorem settling_inj {kind : Nat} {h : ReqHeader} {res : Result} {body : List Byte} {f : Part → Result × Part}
    {p q : Part}
    (he : answered kind h (settling f p).result (settling f p).body (settling f p).part = answered kind h res body q)
    (hf : (f p).2.rif = p.rif) (hr : q.rif = p.rif) : (f p).1 = res ∧ noteReports p (stmSettle p (f p).2) = q :=
  answered_inj he (by
    rw [hr, ← hf]
    simp)

theorem exec_zonePower_inj {h : ReqHeader} {z : ZoneId} {v : Bool} {res : Result} {p q : Part} {w : List Instr}
    (ht : p.takes 0x20 h = true)
    (he : exec (.zonePower h (zoneCode z) (codeOfBool v)) ⟨p, w⟩ = .next ⟨answered 0x20 h res [] q, w⟩)
    (hr : q.rif = p.rif) : (zonePower z v p).1 = res ∧ noteReports p (stmSettle p (zonePower z v p).2) = q := by
  have hf : zonePowerRequest (zoneCode z) (codeOfBool v) p = zonePower z v p := by
    rw [zonePowerRequest]
    cases v <;> exact onZone_zoneCode ..
  have hrun := (congrArg (fun q => Host.Outcome.next (⟨q, w⟩ : State)) (ringRequest_taken ht (by decide))).symm.trans he
  have hinj := settling_inj (congrArg State.part (Host.Outcome.next.inj hrun)) (by simp) hr
  rwa [hf] at hinj

theorem exec_zoneSource_inj {h : ReqHeader} {z : ZoneId} {s : Source} {res : Result} {p q : Part} {w : List Instr}
    (ht : p.takes 0x21 h = true)
    (he : exec (.zoneSource h (zoneCode z) (sourceCode s)) ⟨p, w⟩ = .next ⟨answered 0x21 h res [] q, w⟩)
    (hr : q.rif = p.rif) :
    (zoneSource z (some s) p).1 = res ∧ noteReports p (stmSettle p (zoneSource z (some s) p).2) = q := by
  have hf : onZone (zoneCode z) (fun z => zoneSource z (sourceOf (sourceCode s))) p = zoneSource z (some s) p := by
    rw [onZone_zoneCode, sourceOf_sourceCode]
  have hrun := (congrArg (fun q => Host.Outcome.next (⟨q, w⟩ : State)) (ringRequest_taken ht (by decide))).symm.trans he
  have hinj := settling_inj (congrArg State.part (Host.Outcome.next.inj hrun)) (by simp) hr
  rwa [hf] at hinj

theorem exec_tuneIndex_inj {h : ReqHeader} {z : ZoneId} {a : Claimant} {i : Nat} {p q : Part} {w : List Instr}
    (ht : p.takes 0x30 h = true) (ha : claimantOf z = some a)
    (he : exec (.tune h (zoneCode z) 0 i 0) ⟨p, w⟩ = .next ⟨answered 0x30 h .ok [] q, w⟩)
    (hr : q.rif = p.rif) :
    (tuneStation z i p).1 = .ok ∧ noteReports p (stmSettle p (tuneStation z i p).2) = q := by
  have hrun := (congrArg (fun q => Host.Outcome.next (⟨q, w⟩ : State)) (ringRequest_taken ht (by decide))).symm.trans he
  have hinj := settling_inj (congrArg State.part (Host.Outcome.next.inj hrun)) (by simp) hr
  rw [tuneRequest_station i 0 p ha] at hinj
  by_cases hi : 47 < i
  · rw [if_pos hi] at hinj
    exact absurd hinj.1 nofun
  · rwa [if_neg hi] at hinj

/-! ### The hand-offs -/

theorem claimantOf_rear (r : RearSeat) : ∃ a, claimantOf r.zone = some a ∧ a.zone? = some r.zone := by
  cases r <;> exact ⟨_, rfl, rfl⟩

theorem rearStation_eq {z : ZoneId} {n : Nat} {p : Part} (hl : p.tst.latent = []) :
    rearStation z n p = (chosenStation p z n).elim (.notFound, p) fun i => asRear (tuneStation z i p) := by
  rw [rearStation, ownerReads_clean _ hl]
  cases chosenStation p z n <;> rfl

theorem rearStation_sole {z : ZoneId} {n i : Nat} {p : Part} (hl : p.tst.latent = []) (h : p.soleFavourite n i)
    (hn : n ≤ 12) :
    rearStation z n p = asRear (tuneStation z i p) := by
  rw [rearStation_eq hl, chosenStation_number hn, favourites_find_number h]
  rfl

theorem allowed_source {r : RearSeat} {s : Source} {p : Part}
    (h : s = .none ∨ allowedSource (p.tst.admission.get r).allowed s = true) :
    ¬ asksDenied .source (sourceCode s) (p.tst.admission.get r).allowed := by
  rintro (⟨h, -⟩ | ⟨-, s', hs', hdenied⟩)
  · exact absurd h (by decide)
  · rw [sourceOf_sourceCode] at hs'
    cases hs'
    rcases h with rfl | h
    · exact absurd hdenied (by exact Bool.false_ne_true ∘ Eq.symm)
    · rw [h] at hdenied
      cases hdenied

theorem sourceCode_le (s : Source) : sourceCode s ≤ 5 := by
  cases s with
  | none | radio => decide
  | media k =>
    show 2 + k.val ≤ 5
    omega

theorem allowed_station {ok : SourceSet} {n : Nat} (h : ok.radio = true) : ¬ asksDenied .station n ok := by
  simp [asksDenied, h]

theorem allowed_plain {ok : SourceSet} {n : Nat} {k : RearKind} (h1 : k ≠ .source) (h2 : k ≠ .station) :
    ¬ asksDenied k n ok := by
  simp [asksDenied, h1, h2]

theorem argOk_station {n : Nat} (h1 : 1 ≤ n) (h2 : n ≤ 12) : argOk .station n = true := by simp [argOk, h1, h2]

/-- A zone switched off while no tuner serves anyone: it alone changes. -/
theorem withdraw_switchedOff {a : Claimant} {z : ZoneId} {p : Part} (ha : a.zone? = some z) (hf : p.tunersFree = true) :
    ∃ zm, withdraw a (p.setZone z { p.zone z with state := .off, autoOn := false }) = { p with zmx := zm }
      ∧ zm.zones.get z = Zone.loose { p.zone z with state := .off, autoOn := false } := by
  have hgrants : p.tuc.grants.erase z = p.tuc.grants := by
    rw [(tunersFree_iff.mp hf).1]
    rfl
  obtain ⟨m, hm⟩ : ∃ m, m = p.setZone z { p.zone z with state := .off, autoOn := false } := ⟨_, rfl⟩
  obtain ⟨zm, hzm⟩ : ∃ zm : Zmx, zm = { p.zmx with zones := .of fun x => detached z x (m.zone x) } := ⟨_, rfl⟩
  have hrun : withdraw a m = { p with zmx := zm, tuc := { p.tuc with grants := p.tuc.grants.erase z } } := by
    rw [withdraw_free ha (by rw [hm]; exact hf), hzm, hm]
    rfl
  refine ⟨zm, ?_, ?_⟩
  · rw [← hm, hrun]
    exact congrArg (fun g => ({ p with zmx := zm, tuc := { p.tuc with grants := g } } : Part)) hgrants
  · rw [hzm]
    refine (PerZone.get_of ..).trans ((if_pos (.inl rfl)).trans ?_)
    rw [hm, Part.zone_setZone_self]

/-- An HP_STATION for the next or the previous favourite does what one for that favourite's number does. -/
theorem rearRequest_chosen {r : RearSeat} {arg n i : Nat} {p : Part} (hp : p.admits r)
    (hradio : (p.tst.admission.get r).allowed.radio = true) (harg : argOk .station arg = true)
    (hn : argOk .station n = true) (hc : chosenStation p r.zone arg = some i) (hsole : p.soleFavourite n i)
    (h12 : n ≤ 12) :
    rearRequest r .station arg p = rearRequest r .station n p := by
  have hsame : handOff r .station arg p = handOff r .station n p := by
    rw [handOff, handOff, rearStation_sole hp.1.2.1 hsole h12, rearStation_eq hp.1.2.1, hc]
    rfl
  rw [rearRequest_handed hp (by decide) harg (allowed_station hradio),
    rearRequest_handed hp (by decide) hn (allowed_station hradio), hsame]

/-- Settles O56. -/
theorem rearRequestsAreAdmittedThenAct : Obligations.RearRequestsAreAdmittedThenAct := by
  refine ⟨fun c kind r args p w hc hw ha hl hq hn => ?refusals, fun r p w ha hl hq hn hpoisoned hflags hmode =>
    ?admitted⟩
  case refusals =>
    have hopen : p.rearOpen := ⟨ha, hl, hn⟩
    obtain ⟨k, hk, hexec, hok, hlen⟩ := asksRear_of hc hw
    have hkind := kind_of_rearKind hk
    have hrun (res : RearResult) (hd : rearDecide (takenNow r k (valueAt args 0 1) p) p = (res, p))
        (hr : res ≠ .done ∧ res ≠ .clamped) : exec c ⟨p, w⟩ = .next ⟨{ p with rlu := { p.rlu with
          pending := p.rlu.pending.set r (some res) } }, w⟩ := by
      rw [hexec, rearRequest_open hopen hok, decideTaken_refused hd hq (.inr hr)]
      rfl
    have hne (h9 : kind ≠ 9) : k ≠ .query := by
      rintro rfl
      exact h9 hkind
    have hbit : admissionBit k = kind - 1 := by omega
    refine ⟨?_, fun h9 hdeny => ?_, fun h9 hp hf => ⟨fun hdenied => ?_, fun hdenied hm => ?_⟩⟩
    · show Host.Outcome.next (⟨rearRequest r .query 0 p, w⟩ : State) = _
      rw [rearRequest_open hopen rfl, decideTaken_refused (rearDecide_query p rfl) hq (.inl rfl)]
      rfl
    · refine hrun _ (rearDecide_denied p (hne h9) ?_) (by decide)
      show (takenNow r k _ p).flags.getLsbD (admissionBit k) = false
      cases hp : p.admissionPoisoned r with
      | true =>
        rw [takenNow_poisoned hp]
        exact BitVec.getLsbD_zero
      | false =>
        rw [takenNow_flags hp, hbit]
        exact hdeny.resolve_left (by rw [hp]; decide)
    · refine hrun _ (rearDecide_source p (hne h9) ?_ ((asksDenied_frame hkind hok hlen).mp hdenied)) (by decide)
      rw [takenNow_flags hp]
      exact hbit ▸ hf
    · refine hrun _ ((rearDecide_allowed p (hne h9) ?_ (mt (asksDenied_frame hkind hok hlen).mpr hdenied)).trans
        (if_neg hm)) (by decide)
      rw [takenNow_flags hp]
      exact hbit ▸ hf
  case admitted =>
    have hp : p.admits r := ⟨⟨ha, hl, hn⟩, hpoisoned, hflags, hmode⟩
    obtain ⟨a, haz, hzone⟩ := claimantOf_rear r
    refine ⟨fun h v ht q he hr => ?power, fun h s ht hs => ⟨fun q he hr => ?source, fun res x hx he => ?sourceRefused⟩,
      fun h n i e ht hn1 hn12 hradio hi hfav hother q he hr => ?station, fun hradio => ⟨fun n hn12 hn1 hno => ?notFound,
        fun i n e hi hfav hn1 hn12 hother => ⟨fun hnext => ?next, fun hprev => ?previous⟩⟩,
      fun hon hs hcall hfree => ?off, fun hoff hs => ?on, fun hoff s hs => ?sourceOff,
      fun n i e it hn1 hn12 hradio hoff hother hi hfav hit => ?stationOff, fun n hn => ?volume, fun v => ?mute,
      fun up hunit => ?cabin⟩
    case power =>
      obtain ⟨hok, hq'⟩ := exec_zonePower_inj ht he hr
      have hhand : handOff r .power (if v then 1 else 2) p = (.done, (zonePower r.zone v p).2) := by
        have hv : ((if v then 1 else 2 : Nat) == 1) = v := by cases v <;> rfl
        rw [handOff]
        rw [hv, asRear, hok]
        rfl
      have hrun := rearRequest_done hp (by decide) (by cases v <;> rfl) (allowed_plain (by decide) (by decide)) hhand
        (.inl rfl)
      rw [← hq']
      exact congrArg (fun q => Host.Outcome.next (⟨q, w⟩ : State)) hrun
    case source =>
      obtain ⟨hok, hq'⟩ := exec_zoneSource_inj ht he hr
      have hhand : handOff r .source (sourceCode s) p
          = (.done, (zoneSource r.zone (some s) p).2) := by
        rw [handOff]
        rw [sourceOf_sourceCode, asRear, hok]
        rfl
      have hrun := rearRequest_done hp (by decide) (by simp [argOk, sourceCode_le]) (allowed_source hs) hhand (.inl rfl)
      rw [← hq']
      exact congrArg (fun q => Host.Outcome.next (⟨q, w⟩ : State)) hrun
    case sourceRefused =>
      obtain ⟨hres, hsame⟩ := exec_zoneSource_inj ht he rfl
      have hhand : handOff r .source (sourceCode s) p = asRear (zoneSource r.zone (some s) p) := by
        rw [handOff, sourceOf_sourceCode]
      have hresult : (handOff r .source (sourceCode s) p).1 = x ∧ x ≠ .done ∧ x ≠ .clamped := by
        rw [hhand, asRear, hres]
        rcases hx with ⟨rfl, rfl⟩ | ⟨rfl, rfl⟩ <;> exact ⟨rfl, by decide, by decide⟩
      exact congrArg (fun q => Host.Outcome.next (⟨q, w⟩ : State)) (rearRequest_unchanged hp (by decide)
        (by simp [argOk, sourceCode_le]) (allowed_source hs) hresult.1 (by rw [hhand]; exact hsame) hresult.2)
    case station =>
      obtain ⟨hok, hq'⟩ := exec_tuneIndex_inj ht haz he hr
      have hsole : p.soleFavourite n i := ⟨by rw [hi]; exact hfav, hother⟩
      have hhand : handOff r .station n p = (.done, (tuneStation r.zone i p).2) := by
        rw [handOff]
        rw [rearStation_sole hl hsole hn12, asRear, hok]
        rfl
      have hrun := rearRequest_done hp (by decide) (argOk_station hn1 hn12) (allowed_station hradio) hhand (.inl rfl)
      rw [← hq']
      exact congrArg (fun q => Host.Outcome.next (⟨q, w⟩ : State)) hrun
    case notFound =>
      have hhand : handOff r .station n p = (.notFound, p) := by
        rw [handOff]
        rw [rearStation_eq hl, chosenStation_number hn12, favourites_find_none hno]
        rfl
      exact congrArg (fun q => Host.Outcome.next (⟨q, w⟩ : State)) (rearRequest_refused hp hq (by decide)
        (argOk_station hn1 hn12) (allowed_station hradio) hhand (by decide))
    case next =>
      have hsole : p.soleFavourite n i := ⟨by rw [hi]; exact hfav, hother⟩
      refine congrArg (fun q => Host.Outcome.next (⟨q, w⟩ : State)) (rearRequest_chosen (arg := 0x81) hp hradio rfl
        (argOk_station hn1 hn12) (chosenStation_step (up := true) hsole ?_) hsole hn12)
      rcases hnext with ⟨m, hm, hmn, hall⟩ | ⟨hlast, hall⟩
      · refine .inl ⟨m, hm, hmn, fun x hx hmx => ?_⟩
        have hx' := favourites_all hall x hx
        simp only [ahead, if_true] at hmx ⊢
        omega
      · refine .inr ⟨hlast.imp_right fun ⟨m, hm, hle⟩ =>
          ⟨m, hm, fun x hx => Nat.not_lt.mpr (favourites_all hle x hx)⟩, fun x hx => ?_⟩
        exact (Nat.eq_or_lt_of_le (favourites_all hall x hx)).imp_left Eq.symm
    case previous =>
      have hsole : p.soleFavourite n i := ⟨by rw [hi]; exact hfav, hother⟩
      refine congrArg (fun q => Host.Outcome.next (⟨q, w⟩ : State)) (rearRequest_chosen (arg := 0x82) hp hradio rfl
        (argOk_station hn1 hn12) (chosenStation_step (up := false) hsole ?_) hsole hn12)
      rcases hprev with ⟨m, hm, hmn, hall⟩ | ⟨hlast, hall⟩
      · refine .inl ⟨m, hm, hmn, fun x hx hmx => ?_⟩
        have hx' := favourites_all hall x hx
        simp only [ahead, Bool.false_eq_true, if_false] at hmx ⊢
        omega
      · refine .inr ⟨hlast.imp_right fun ⟨m, hm, hle⟩ =>
          ⟨m, hm, fun x hx => Nat.not_lt.mpr (favourites_all hle x hx)⟩, fun x hx => ?_⟩
        exact Nat.eq_or_lt_of_le (favourites_all hall x hx)
    case off =>
      obtain ⟨m, hm⟩ : ∃ m, m = withdraw a (p.setZone r.zone { p.zone r.zone with state := .off, autoOn := false }) :=
        ⟨_, rfl⟩
      obtain ⟨zm, hmeq, hrec⟩ := withdraw_switchedOff hzone hfree
      rw [← hm] at hmeq
      have hhand : handOff r .power 2 p = (.done, m) := by
        have hne : r.zone ≠ .cargo := by cases r <;> decide
        have hpower : zonePower r.zone false p = (.ok, m) := by
          rw [zonePower_off, powerOff_listener_out hon haz (.inl hcall), ← hm]
        exact congrArg asRear hpower
      have hquiet : m.quiet = true := by
        rw [hmeq]
        exact hq
      obtain ⟨rl, hrl⟩ := noteReports_eq p m
      refine ⟨_, congrArg (fun q => Host.Outcome.next (⟨q, w⟩ : State)) (rearRequest_done hp (by decide) rfl
        (allowed_plain (by decide) (by decide)) hhand (.inl rfl)), ?_⟩
      rw [keptUp_quiet _ hquiet, hrl, hmeq]
      exact ⟨(congrArg Zone.state hrec).trans rfl, (congrArg Zone.source hrec).trans rfl,
        (congrArg Zone.step hrec).trans rfl, PerRear.get_set_self .., rfl, rfl⟩
    case on =>
      have hhand : handOff r .power 1 p = (.done, p.setZone r.zone { p.zone r.zone with state := .silent }) := by
        have hpower : zonePower r.zone true p = (.ok, p.setZone r.zone { p.zone r.zone with state := .silent }) := by
          rw [zonePower_on (.inr hmode), if_pos hoff]
          have hnext : powerOnZone r.zone (unmarked r.zone p) = p.setZone r.zone
            { p.zone r.zone with state := .silent } := by
            have hne : r.zone ≠ .cargo := by cases r <;> decide
            have hfollows : r.zone.follows = false := by cases r <;> rfl
            have hdriver : (r.zone == .driver) = false := by cases r <;> rfl
            rw [unmarked_of_ne p hne, powerOnZone, hfollows, hdriver, hs]
            rfl
          rw [hnext]
        exact congrArg asRear hpower
      exact congrArg (fun q => Host.Outcome.next (⟨q, w⟩ : State)) (rearRequest_zone hp hq (by decide) rfl
        (allowed_plain (by decide) (by decide)) hhand (.inl rfl))
    case sourceOff =>
      have hhand : handOff r .source (sourceCode s) p
          = (.done, p.setZone r.zone { p.zone r.zone with source := s }) := by
        have hsource : zoneSource r.zone (some s) p = (.ok, p.setZone r.zone { p.zone r.zone with source := s }) := by
          simp only [zoneSource, haz, hoff, beq_self_eq_true, if_true]
        rw [handOff, sourceOf_sourceCode, hsource]
        rfl
      exact congrArg (fun q => Host.Outcome.next (⟨q, w⟩ : State)) (rearRequest_zone hp hq (by decide)
        (by simp [argOk, sourceCode_le]) (allowed_source hs) hhand (.inl rfl))
    case stationOff =>
      have hsole : p.soleFavourite n i := ⟨by rw [hi]; exact hfav, hother⟩
      have hhand : handOff r .station n p
          = (.done, p.setZone r.zone { p.zone r.zone with source := .radio, chan := some ⟨e.band, it.freq⟩ }) := by
        rw [handOff, rearStation_sole hl hsole hn12, tuneStation_clean hl, Part.stationChan, hi]
        simp only [Option.bind_some, hit, Option.map_some]
        exact congrArg asRear (tuneZone_off _ haz hoff)
      exact congrArg (fun q => Host.Outcome.next (⟨q, w⟩ : State)) (rearRequest_zone hp hq (by decide)
        (argOk_station hn1 hn12) (allowed_station hradio) hhand (.inl rfl))
    case volume =>
      have hhand : handOff r .volume n p = (if p.rlu.maxCopy.get r < n then .clamped else .done,
          p.setZone r.zone { p.zone r.zone with step := min n (p.rlu.maxCopy.get r) }) := by
        have hseat : r.zone.rearSeat? = some r := by cases r <;> rfl
        rw [handOff, storeStep, hseat]
        dsimp only
        by_cases hmax : p.rlu.maxCopy.get r < n
        · rw [if_pos hmax, if_pos hmax, Nat.min_eq_right (by omega)]
          rfl
        · rw [if_neg hmax, if_neg hmax, Nat.min_eq_left (by omega)]
          rfl
      refine congrArg (fun q => Host.Outcome.next (⟨q, w⟩ : State)) (rearRequest_zone hp hq (by decide)
        (by simp [argOk, hn]) (allowed_plain (by decide) (by decide)) hhand ?_)
      split
      · exact .inr rfl
      · exact .inl rfl
    case mute =>
      have hhand : handOff r .mute (if v then 1 else 2) p
        = (.done, p.setZone r.zone { p.zone r.zone with mute := v }) := by
        cases v <;> rfl
      exact congrArg (fun q => Host.Outcome.next (⟨q, w⟩ : State)) (rearRequest_zone hp hq (by decide)
        (by cases v <;> rfl) (allowed_plain (by decide) (by decide)) hhand (.inl rfl))
    case cabin =>
      have hcode : ((if up then 1 else 2 : Nat) == 1) = up := by cases up <;> rfl
      obtain ⟨new, hnew⟩ : ∃ new : Int, new = if up then ((p.tst.zones.rearCabin).followOffset : Int) + 4
        else ((p.tst.zones.rearCabin).followOffset : Int) - 4 := ⟨_, rfl⟩
      have hhand : handOff r .cabin (if up then 1 else 2) p = (if 0 ≤ new ∧ new ≤ 96 then .done else .clamped,
          writeOffset .rearCabin (max 0 (min 96 new)).toNat p) := by
        have hres : (if clampInt 0 96 new = new then RearResult.done else .clamped)
            = if 0 ≤ new ∧ new ≤ 96 then .done else .clamped := by
          refine if_congr ?_ rfl rfl
          rw [clampInt]
          omega
        rw [handOff]
        rw [hcode, cabinOffset, checkEntry_clean _ _ hl, ← hres, hnew]
        exact if_neg (by rw [show p.unitPoisoned tblZones (zoneCode .rearCabin) 0 = false from hunit]; decide)
      have hrun := rearRequest_done hp (by decide) (by cases up <;> rfl) (allowed_plain (by decide) (by decide)) hhand
        (by split <;> simp)
      rw [keptUp_quiet _ (by exact hq), noteReports_same fun _ => by rfl] at hrun
      refine (congrArg (fun q => Host.Outcome.next (⟨q, w⟩ : State)) hrun).trans ?_
      rw [hnew]
      rfl

end Sys2Proof.Machine
end

section
/-! PROOFS. The bytes of a request act as its command (O10). -/

namespace Sys2Proof.Machine

/-! ### Values in a body -/

theorem valueAt_byte {n : Nat} (h : n < 256) : valueAt (byte1 n) 0 1 = n := valueOf_byte1 h

/-- The values of a two-byte body. -/
theorem valueAt_bytes {a b : Nat} (ha : a < 256) (hb : b < 256) :
    valueAt (byte1 a ++ byte1 b) 0 1 = a ∧ valueAt (byte1 a ++ byte1 b) 1 1 = b := valueAt_pair ha hb

/-- Two bytes hold a signed value (R179). -/
theorem signed16_byteS2 {n : Int} (hl : -32768 ≤ n) (hu : n ≤ 32767) (a : Nat) :
    signed16 (valueAt (byte1 a ++ byteS2 n) 1 2) = n := by
  have hlt : (n % 65536).toNat < 65536 := by omega
  have hv : valueAt (byte1 a ++ byteS2 n) 1 2 = (n % 65536).toNat :=
    (valueAt_append_right (byte1 a) (byteS2 n) 0 2).trans (byte2_value hlt)
  rw [hv, signed16]
  split <;> omega

theorem valueAt_tune {z sel i f : Nat} (hz : z < 256) (hs : sel < 256) (hi : i < 256) (hf : f < 65536) :
    let b := byte1 z ++ byte1 sel ++ byte1 i ++ byte2 f
    valueAt b 0 1 = z ∧ valueAt b 1 1 = sel ∧ valueAt b 2 1 = i ∧ valueAt b 3 2 = f := by
  simp only [valueAt, valueOf, byte1, byte2, List.range_succ]
  simp
  omega

theorem valueAt_tableRead {t i j m o : Nat} (ht : t < 256) (hi : i < 256) (hj : j < 256) (hm : m < 65536)
    (ho : o < 256) :
    let b := byte1 t ++ byte1 i ++ byte1 j ++ byte2 m ++ byte1 o
    valueAt b 0 1 = t ∧ valueAt b 1 1 = i ∧ valueAt b 2 1 = j ∧ valueAt b 3 2 = m ∧ valueAt b 5 1 = o := by
  simp only [valueAt, valueOf, byte1, byte2, List.range_succ]
  simp
  omega

theorem valueAt_tableWrite {t i m : Nat} (vs : List Byte) (ht : t < 256) (hi : i < 256) (hm : m < 65536) :
    let b := byte1 t ++ byte1 i ++ byte2 m ++ vs
    valueAt b 0 1 = t ∧ valueAt b 1 1 = i ∧ valueAt b 2 2 = m ∧ b.drop 4 = vs := by
  simp only [valueAt, valueOf, byte1, byte2, List.range_succ]
  simp
  omega

theorem valueAt_promptPush {tag c src z lv d pos : Nat} (ht : tag < 65536) (hc : c < 256) (hs : src < 256)
    (hz : z < 256)
    (hl : lv < 65536) (hd : d < 4294967296) (hp : pos < 256) :
    let b := byte2 tag ++ byte1 c ++ byte1 src ++ byte1 z ++ byte2 lv ++ byte4 d ++ byte1 pos
    valueAt b 0 2 = tag ∧ valueAt b 2 1 = c ∧ valueAt b 3 1 = src ∧ valueAt b 4 1 = z ∧ valueAt b 5 2 = lv
      ∧ valueAt b 7 4 = d ∧ valueAt b 11 1 = pos := by
  simp only [valueAt, valueOf, byte1, byte2, byte4, List.range_succ]
  simp
  omega

/-! ### A request as it arrives -/

/-- A request with its body's bytes as it arrives (R157, R180). -/
def requestArrives (kind : Nat) (h : ReqHeader) (b : List Byte) (p : Part) : Part :=
  if kind = 0x71 then resetArrives b.length h p
  else ringRequest kind b.length h ((valueAt b 5 1).testBit 1) (ownerOf kind h.source b) p

/-- Of a request other than TABLE_READ the options are not read. -/
theorem ringRequest_clear {kind len : Nat} {h : ReqHeader} {c d : Bool} {owner : Part → Answer} (hk : kind ≠ 0x10)
    (p : Part) : ringRequest kind len h c owner p = ringRequest kind len h d owner p := by
  have hread : (kind == 0x10) = false := by simpa using hk
  have hmay : sourceMay kind h.source c = sourceMay kind h.source d := by
    rw [sourceMay, sourceMay, hread]
    rfl
  rw [ringRequest, ringRequest, ringChecks, ringChecks, hmay]

theorem requestArrives_of {kind : Nat} {h : ReqHeader} {b : List Byte} {c : Bool} {owner : Part → Answer} {p : Part}
    (hr : kind ≠ 0x71) (ho : ownerOf kind h.source b = owner) (hc : kind ≠ 0x10 ∨ (valueAt b 5 1).testBit 1 = c) :
    requestArrives kind h b p = ringRequest kind b.length h c owner p := by
  rw [requestArrives, if_neg hr, ho]
  rcases hc with hc | hc
  · exact ringRequest_clear hc p
  · rw [hc]

/-- A command that is a request, with the bytes of its body, by the handling that it is given. -/
theorem exec_asBody {i : Instr} {kind len : Nat} {h : ReqHeader} {b : List Byte} {c : Bool} {owner : Part → Answer}
    {p : Part}
    {w : List Instr} (he : exec i ⟨p, w⟩ = .next ⟨ringRequest kind len h c owner p, w⟩) (hr : kind ≠ 0x71)
    (hl : b.length = len) (hc : kind ≠ 0x10 ∨ (valueAt b 5 1).testBit 1 = c)
    (ho : ∀ p, ownerOf kind h.source b p = owner p) : exec i ⟨p, w⟩ = .next ⟨requestArrives kind h b p, w⟩ := by
  rw [he, requestArrives_of hr (funext ho) hc, hl]

/-- A request acts as the bytes of its body, whichever node asks. -/
theorem exec_requestBody {c : Instr} {kind : Nat} {h : ReqHeader} {p : Part} {w : List Instr}
    (hc : requestOf c = some (kind, h)) (hw : c.wellFormed = true) :
    exec c ⟨p, w⟩ = .next ⟨requestArrives kind h (requestBody c) p, w⟩ := by
  cases c with
  | reset h' =>
    obtain ⟨rfl, rfl⟩ : 0x71 = kind ∧ h' = h := by simpa [requestOf] using hc
    rfl
  | identify h' | status h' | bankSwap h' | scanStop h' | captureRead h' | callConnect h' | callHold h' | callResume h'
  | callEnd h' | noticeFetch h' | faultRead h' | powerDown h' =>
    cases hc
    exact exec_asBody rfl (by decide) rfl (.inl (by decide)) fun _ => rfl
  | tableClear h' x | countersRead h' x | scan h' x | watch h' x | callAlert h' x | callPrivate h' x | callZones h' x
  | faultLevel h' x =>
    cases hc
    have hx : valueAt (byte1 x) 0 1 = x := valueAt_byte (by
      simp only [Instr.wellFormed, Bool.and_eq_true, decide_eq_true_eq] at hw
      exact hw.2)
    exact exec_asBody rfl (by decide) rfl (.inl (by decide)) fun p => by simp only [ownerOf, requestBody, hx]
  | tableShare h' x y | zonePower h' x y | zoneSource h' x y | zoneVolume h' x y | zoneMute h' x y | seek h' x y
  | capture h' x y =>
    cases hc
    simp only [Instr.wellFormed, Bool.and_eq_true, decide_eq_true_eq] at hw
    obtain ⟨⟨-, hx⟩, hy⟩ := hw
    obtain ⟨hx, hy⟩ := valueAt_bytes hx hy
    exact exec_asBody rfl (by decide) rfl (.inl (by decide)) fun p => by simp only [ownerOf, requestBody, hx, hy]
  | promptCancel h' tag | promptEnd h' tag =>
    cases hc
    simp only [Instr.wellFormed, Bool.and_eq_true, decide_eq_true_eq] at hw
    have htag : valueAt (byte2 tag) 0 2 = tag := byte2_value hw.2
    exact exec_asBody rfl (by decide) rfl (.inl (by decide)) fun p => by simp only [ownerOf, requestBody, htag]
  | zoneOffset h' z off =>
    cases hc
    simp only [Instr.wellFormed, Bool.and_eq_true, decide_eq_true_eq] at hw
    obtain ⟨⟨⟨-, hz⟩, hlo⟩, hhi⟩ := hw
    have hz' : valueAt (byte1 z ++ byteS2 off) 0 1 = z :=
      (valueAt_append_left _ _ _ _ (by simp [byte1])).trans (valueAt_byte hz)
    exact exec_asBody rfl (by decide) rfl (.inl (by decide)) fun p => by
      simp only [ownerOf, requestBody, hz', signed16_byteS2 hlo hhi]
  | tune h' z sel i f =>
    cases hc
    simp only [Instr.wellFormed, Bool.and_eq_true, decide_eq_true_eq] at hw
    obtain ⟨⟨⟨⟨-, hz⟩, hsel⟩, hi⟩, hf⟩ := hw
    obtain ⟨hz, hsel, hi, hf⟩ := valueAt_tune hz hsel hi hf
    exact exec_asBody rfl (by decide) rfl (.inl (by decide)) fun p => by
      simp only [ownerOf, requestBody, hz, hsel, hi, hf]
  | tableRead h' t i j m o =>
    cases hc
    simp only [Instr.wellFormed, Bool.and_eq_true, decide_eq_true_eq] at hw
    obtain ⟨⟨⟨⟨⟨-, ht⟩, hi⟩, hj⟩, hm⟩, ho⟩ := hw
    obtain ⟨ht, hi, hj, hm, ho⟩ := valueAt_tableRead ht hi hj hm ho
    exact exec_asBody rfl (by decide) rfl (.inr (congrArg (fun n => n.testBit 1) ho))
      fun p => by simp only [ownerOf, requestBody, ht, hi, hj, hm, ho]
  | tableWrite h' t i m vs =>
    cases hc
    simp only [Instr.wellFormed, Bool.and_eq_true, decide_eq_true_eq] at hw
    obtain ⟨⟨⟨⟨-, ht⟩, hi⟩, hm⟩, -⟩ := hw
    obtain ⟨ht, hi, hm, hvs⟩ := valueAt_tableWrite vs ht hi hm
    exact exec_asBody rfl (by decide) (by simp [requestBody, byte1, byte2]; omega) (.inl (by decide))
      fun p => by simp only [ownerOf, requestBody, ht, hi, hm, hvs]
  | promptPush h' tag c src z lv d pos =>
    cases hc
    simp only [Instr.wellFormed, Bool.and_eq_true, decide_eq_true_eq] at hw
    obtain ⟨⟨⟨⟨⟨⟨⟨-, ht⟩, hc⟩, hs⟩, hz⟩, hl⟩, hd⟩, hp⟩ := hw
    obtain ⟨ht, hc, hs, hz, hl, hd, hp⟩ := valueAt_promptPush ht hc hs hz hl hd hp
    exact exec_asBody rfl (by decide) rfl (.inl (by decide))
      fun p => by simp only [ownerOf, requestBody, ht, hc, hs, hz, hl, hd, hp]
  | _ => exact absurd hc nofun

/-! ### A message as it completes -/

theorem requestOf_bounds {c : Instr} {kind : Nat} {h : ReqHeader} (hc : requestOf c = some (kind, h))
    (hw : c.wellFormed = true) : kind < 256 ∧ h.source < 64 ∧ h.seq < 256 ∧ (requestBody c).length ≤ 56 := by
  have hheader : h.wellFormed = true → h.source < 64 ∧ h.seq < 256 := by simp [ReqHeader.wellFormed]
  cases c with
  | identify | status | bankSwap | scanStop | captureRead | callConnect | callHold | callResume | callEnd | noticeFetch
  | faultRead | powerDown | reset =>
    cases hc
    obtain ⟨hs, hq⟩ := hheader hw
    exact ⟨by decide, hs, hq, Nat.zero_le _⟩
  | tableWrite h' t i m vs =>
    cases hc
    simp only [Instr.wellFormed, Bool.and_eq_true, decide_eq_true_eq] at hw
    obtain ⟨⟨⟨⟨hh, -⟩, -⟩, -⟩, hvs⟩ := hw
    obtain ⟨hs, hq⟩ := hheader hh
    exact ⟨by decide, hs, hq, by simp [requestBody, byte1, byte2]; omega⟩
  | tableClear | countersRead | scan | watch | callAlert | callPrivate | callZones | faultLevel | tableShare | zonePower
  | zoneSource | zoneVolume | zoneMute | seek | capture | promptCancel | promptEnd | zoneOffset | tune | tableRead
  | promptPush =>
    cases hc
    simp only [Instr.wellFormed, Bool.and_eq_true, decide_eq_true_eq] at hw
    obtain ⟨hs, hq⟩ := hheader (by tauto)
    exact ⟨by decide, hs, hq, Nat.le_of_ble_eq_true rfl⟩
  | _ => exact absurd hc nofun

/-- The message's bytes before its check. -/
def requestHead (address kind : Nat) (h : ReqHeader) (body : List Byte) : List Byte :=
  byte1 address ++ byte1 h.source ++ byte1 kind ++ byte1 h.seq ++ byte1 body.length ++ byte1 0 ++ body

theorem requestMessage_eq (address kind : Nat) (h : ReqHeader) (body : List Byte) :
    requestMessage address kind h body
      = requestHead address kind h body ++ byte2 (crc16 (requestHead address kind h body)).toNat := rfl

theorem requestMessage_length (address kind : Nat) (h : ReqHeader) (body : List Byte) :
    (requestMessage address kind h body).length = body.length + 8 := by
  rw [requestMessage_eq, requestHead]
  simp [byte1, byte2]

/-- The fields of a request's message, whatever follows it. -/
theorem requestMessage_values {address kind : Nat} {h : ReqHeader} {body rest : List Byte} (ha : address < 63)
    (hk : kind < 256)
    (hs : h.source < 64) (hq : h.seq < 256) (hb : body.length ≤ 56) :
    let m := requestMessage address kind h body ++ rest
    valueAt m 0 1 = address ∧ valueAt m 1 1 = h.source ∧ valueAt m 2 1 = kind ∧ valueAt m 3 1 = h.seq
      ∧ valueAt m 4 1 = body.length ∧ (m.drop 6).take body.length = body := by
  simp only [requestMessage, valueAt, valueOf, byte1, byte2, List.range_succ]
  simp
  omega

theorem completeMessage_request {address kind : Nat} {h : ReqHeader} {body : List Byte} (p : Part)
    (ha : p.rif.address = address)
    (ha63 : address < 63) (hk : kind < 256) (hs : h.source < 64) (hq : h.seq < 256) (hb : body.length ≤ 56) :
    completeMessage (requestMessage address kind h body) p
      = requestArrives kind h body { p with rif := { p.rif with rx := [] } } := by
  obtain ⟨head, hhead⟩ : ∃ l, l = requestHead address kind h body := ⟨_, rfl⟩
  have hlen : (requestMessage address kind h body).length - 2 = head.length := by
    rw [requestMessage_eq, ← hhead]
    simp [byte2]
  have hv := requestMessage_values (rest := []) ha63 hk hs hq hb
  simp only [List.append_nil] at hv
  obtain ⟨h0, h1, h2, h3, h4, hbody⟩ := hv
  have htake : (requestMessage address kind h body).take head.length = head := by
    rw [requestMessage_eq, ← hhead, List.take_left]
  have hdrop : (requestMessage address kind h body).drop head.length = byte2 (crc16 head).toNat := by
    rw [requestMessage_eq, ← hhead, List.drop_left]
  have hdispatch (q : Part) (hq' : q.rif.address = address) :
      dispatchMessage (requestMessage address kind h body) q = requestArrives kind h body q := by
    have hkind : kind + (if 128 ≤ address then 256 else 0) = kind := by rw [if_neg (by omega)]; rfl
    rw [dispatchMessage, h0, h1, h2, h3, h4, hbody, hkind, hq', Nat.mod_eq_of_lt (by omega), Nat.mod_eq_of_lt hs]
    exact if_pos (beq_self_eq_true address)
  rw [completeMessage_passes (by rw [hlen, htake, hdrop])]
  exact hdispatch _ ha

/-! ### The frame that brings the last word -/

/-- The part with other bytes in message assembly. -/
def Part.receiving (p : Part) (x : List Byte) : Part := { p with rif := { p.rif with rx := x } }

/-- The audio of a frame does not look at the message in assembly. -/
theorem framed_receiving (f : Frame) (mics : List Sample) (x : List Byte) (p : Part) :
    framed f mics (p.receiving x) = (framed f mics p).receiving x := by
  rw [framed, framed, audioFrame_eq, audioFrame_eq, bussed, bussed, adapted, adapted, adapterFrame_eq, adapterFrame_eq,
    adapterFrame_eq, adapterFrame_eq]
  rfl

/-- A message cut into words of four bytes: those before the last, and the last, filled up with zeros. -/
theorem take_append_word {m : List Byte} (hm : 0 < m.length) :
    ∃ pad, m.take ((m.length - 1) / 4 * 4) ++ (m.drop ((m.length - 1) / 4 * 4) ++ List.replicate 3 0#8).take 4
      = m ++ pad := by
  obtain ⟨n, hn⟩ : ∃ n, n = (m.length - 1) / 4 * 4 := ⟨_, rfl⟩
  have hlast : (m.drop n).length ≤ 4 := by
    rw [List.length_drop]
    omega
  refine ⟨(List.replicate 3 0#8).take (4 - (m.drop n).length), ?_⟩
  rw [← hn, List.take_append, List.take_of_length_le hlast, ← List.append_assoc, List.take_append_drop]

/-- Settles O10. -/
theorem requestBytesActAsTheirCommand : Obligations.RequestBytesActAsTheirCommand := by
  refine ⟨fun c kind h p w hc hw hrx ha => ?message, fun c kind h slots mics p w hc hw ha hv hj hm hl htx => ?frame⟩
  case message =>
    obtain ⟨hk, hs, hq, hb⟩ := requestOf_bounds hc hw
    have hsame : ({ p with rif := { p.rif with rx := [] } } : Part) = p := by rw [← hrx]
    rw [completeMessage_request p rfl ha hk hs hq hb, hsame]
    exact exec_requestBody hc hw
  case frame =>
    obtain ⟨hk, hs, hq, hb⟩ := requestOf_bounds hc hw
    intro m n word
    obtain ⟨f, hf⟩ : ∃ f : Frame, f = { occupied := false, lane := word, slots := slots } := ⟨_, rfl⟩
    obtain ⟨g, hg⟩ : ∃ g : Frame, g = { occupied := true, lane := word, slots := slots } := ⟨_, rfl⟩
    have hlen : m.length = (requestBody c).length + 8 := requestMessage_length ..
    obtain ⟨pad, hpad⟩ : ∃ pad, m.take n ++ word = m ++ pad := take_append_word (by omega)
    obtain ⟨G, hG⟩ : ∃ G, G = framed f mics (p.receiving []) := ⟨_, rfl⟩
    have hother (x : List Byte) : framed g mics (p.receiving x) = G.receiving x := by
      rw [hG, framed_receiving, framed_receiving, hf, hg]
      rfl
    have haddress : G.rif.address = p.rif.address := by rw [hG, framed_rif]; rfl
    have hfree := exec_validFrame_free f mics w (p := p.receiving []) hv hj hm hl (by rw [hf]) rfl htx
    have hword := exec_validFrame_word g mics w (p := p.receiving (m.take n)) hv hj hm hl (by rw [hg]) htx
    have hassemble : assembleWord word (G.receiving (m.take n)) = requestArrives kind h (requestBody c) G := by
      have hrx : (G.receiving (m.take n)).rif.rx ++ word = m ++ pad := hpad
      have hvalue : valueAt (m ++ pad) 4 1 = (requestBody c).length := (requestMessage_values ha hk hs hq hb).2.2.2.2.1
      have hGrx : (G.receiving (m.take n)).receiving [] = G := by rw [hG, framed_receiving]; rfl
      rw [assembleWord_complete (by rw [hrx, hvalue]; exact hb) (by rw [hrx, hvalue, List.length_append]; omega), hrx,
        hvalue,
        ← hlen, List.take_left]
      refine (completeMessage_request (G.receiving (m.take n)) haddress ha hk hs hq hb).trans ?_
      exact congrArg (requestArrives kind h (requestBody c)) hGrx
    obtain ⟨u, hu⟩ : ∃ u, u = forward (freshFrame false word (writeSlots G slots)) G := ⟨_, rfl⟩
    have hGu : ({ u with rif := { u.rif with out := p.rif.out } } : Part) = G := by
      have hout : G.rif.out = p.rif.out := by rw [hG, framed_rif]; rfl
      rw [hu, ← hout]
      rfl
    refine ⟨u, ?_, requestArrives kind h (requestBody c) G, ?_, ?_⟩
    · rw [← hG, hf] at hfree
      rw [hu]
      exact hfree
    · rw [hGu]
      exact exec_requestBody hc hw
    · rw [hother, show g.lane = word by rw [hg], hassemble, hg] at hword
      rw [hu]
      exact hword

end Sys2Proof.Machine
end

section
/-! PROOFS. The statement on rear requests sent as bytes (O11) does not hold as written: its clause on the request in
HANDLING takes any operand of a command, and the frame's argument byte keeps an operand modulo 256. A command whose
operand is 256 or more has the bytes of another request and does not decide the one that is held with them. -/

namespace Sys2Proof.Machine

/-- A part in HANDLING with the left seat's HP_VOLUME 0, taken when its ADMISSION refused everything. -/
def holdsVolumeZero : Part :=
  { rif := { addressValid := true }
    tst := { radio := { background := false } }
    rlu := { assembler := .handling
             taken := some { seat := .left, kind := .volume, arg := 0, flags := 0#8, allowed := {} } } }

/-- The argument byte of operand 256 reads 0. -/
theorem valueAt_byte1_256 : valueAt (byte1 256) 0 1 = 0 := by decide

/-- A request whose argument is not that of the request in HANDLING decides nothing. -/
theorem rearRequest_otherArg {r : RearSeat} {k : RearKind} {arg : Nat} {x : Taken} {p : Part}
    (hp : p.rlu.assembler = .handling) (hx : p.rlu.taken = some x) (harg : x.arg ≠ arg) :
      rearRequest r k arg p = p := by
  have hnone : heldRequest r k arg p.rlu = none := by simp [heldRequest, hx, harg]
  rw [rearRequest, hp, hnone]
  split <;> rfl

/-- Refutes O11: HP_VOLUME with operand 256, whose byte is 0, while HP_VOLUME 0 of the seat is held in HANDLING with no
flag of its admission set. The command leaves the held request in HANDLING, undecided, where the statement has it
denied. -/
theorem not_rearBytesActAsTheirCommand : ¬ Obligations.RearBytesActAsTheirCommand := by
  unfold Obligations.RearBytesActAsTheirCommand
  rintro ⟨-, hhandling⟩
  have hdenied := (hhandling (.hpVolume .left 256) 4 .left (byte1 256) holdsVolumeZero [] rfl rfl (by decide) rfl rfl
    _ rfl rfl rfl valueAt_byte1_256.symm (by decide)).1 (by decide)
  have hsame : rearRequest .left .volume 256 holdsVolumeZero = holdsVolumeZero :=
    rearRequest_otherArg rfl rfl (by decide)
  have hhunts : Assembler.handling = .hunt := by
    have hstate := congrArg (fun s => s.part.rlu.assembler) (Host.Outcome.next.inj hdenied)
    have hrun : (rearRequest .left .volume 256 holdsVolumeZero).rlu.assembler = .hunt := hstate
    rwa [hsame] at hrun
  exact absurd hhunts (by decide)

end Sys2Proof.Machine
end
